-- ==== Sys2Proof/Word.lean ====
section
/-! DEFINITION. The word types of the CPD-16's connections (11_formats.md). -/

namespace Sys2Proof

/-- A byte of the snapshot flash (11.7). -/
abbrev Byte := BitVec 8

/-- The 16 data bits of a link word (R104). -/
abbrev Half := BitVec 16

/-- A word of a command or service port (R178). -/
abbrev Word := BitVec 32

/-- A link word as it travels: marker in bits 18 to 17, data in bits 16 to 1, parity in bit 0 (11.1, log 25). -/
abbrev WireWord := BitVec 19

end Sys2Proof
end

