-- ==== Sys2Proof/Config.lean ====
section
/-! DEFINITION. The capacities and fixed limits of the part (00_scope.md 0.4), and the model's one free value. -/

namespace Sys2Proof.Config

/-- Channels are 0 to 16,383 (00_scope.md 0.4). -/
abbrev channels : Nat := 16384

/-- Rows are 0 to 1,023 (R1). -/
abbrev rows : Nat := 1024

/-- Channels in one row's span, at most (R5). -/
abbrev spanMax : Nat := 256

/-- Copies are 0 to 2,559 (R27). -/
abbrev copies : Nat := 2560

/-- Profile slots are 0 to 31 (R45). -/
abbrev slots : Nat := 32

/-- Trims in one body, at most (R24). -/
abbrev trimsMax : Nat := 8

/-- Items in one change set, at most (R62). -/
abbrev changeMax : Nat := 96

/-- Board links are L0 to L11 (00_scope.md 0.2). -/
abbrev links : Nat := 12

/-- Requests in one request queue, at most (R124). -/
abbrev requestsMax : Nat := 4

/-- Items in one prompt refusal list, at most (R120). -/
abbrev promptsMax : Nat := 4

/-- Notices in one notice queue, at most (R145). -/
abbrev noticesMax : Nat := 32

/-- Watches of one link, at most (R144). -/
abbrev watchMax : Nat := 256

/-- Words in a command FIFO or a response FIFO, at most (R177). -/
abbrev fifoWords : Nat := 64

/-- The largest epoch (R100); also the largest marker count and sequence number. -/
abbrev maxU32 : Nat := 4294967295

/-- Consecutive bad frames that bring a link down (R108). -/
abbrev badFrameLimit : Nat := 8

/-- Sends of one notice or RESYNC, at most (R150). -/
abbrev sendLimit : Nat := 4

/-- The largest value of an error counter and of the resync number (R103, R145). -/
abbrev maxU16 : Nat := 65535

/-- Requesters of the lookup engine: L0 to L11, HOST, SERVICE (R127). -/
abbrev requesters : Nat := 14

/-- Bytes of one flash page (R159). -/
abbrev pageBytes : Nat := 256

/-- Bytes of one flash bank (11.7). -/
abbrev bankBytes : Nat := 131072

/-- Bytes of the whole flash (11.7). -/
abbrev flashBytes : Nat := 262144

/-- The magic of a written header (11.7). -/
abbrev magic : Word := 0x7E1D4B92#32

/-- What a byte of the flash reads as when nothing lists it: an erased byte (R159). DESIGN CHOICE for a flash
that the part has not yet written (log 8). -/
abbrev erased : Byte := 255#8

/-- FREE VALUE. Which of several links that overflow in ONE switch leaves its number as NOTICE_OVERFLOW's cause
detail: the spec gives no order between links (R97, R147, R194). It is applied to `State.freeTick` and reduced
to a place in the list of those links (log 12). -/
opaque overflowPick : Nat → Nat

end Sys2Proof.Config
end

