-- ==== Sys2Proof/Syntax.lean ====
section
/-! DEFINITION. The commands of the block: one constructor per row of spec/opcode_table.json, in the table's
order. A row carries no bits there; its operands are those of the rule the row names. -/

namespace Sys2Proof

/-- The two command ports (R177). -/
inductive Port where
  | host
  | service
  deriving DecidableEq, Repr

/-- A board link, L0 to L11 (00_scope.md 0.2). -/
abbrev LinkId := Fin 12

/-- The sequence tag of a frame, 0 to 3 (R105). -/
abbrev Tag := BitVec 2

/-- A command of the block. In the rows of software commands, `seq` is the command sequence number and `args` are
the argument words that follow the header (R180). -/
inductive Instr where
  /-- Hard reset with the strap level sampled by it (R176), and whether the flash stays powered (R170). -/
  | hardReset (strap flashPowered : Bool)
  /-- A write of `w` to the port's command in word (R184). -/
  | commandIn (p : Port) (w : Word)
  /-- A read of the port's response out word (R178). -/
  | responseOut (p : Port)
  /-- A write to the port's port status word (R185). -/
  | portStatus (p : Port) (w : Word)
  /-- A write to the port's events word (R195). -/
  | events (p : Port) (w : Word)
  /-- A write to the port's event mask word (R196). -/
  | eventMask (p : Port) (w : Word)
  /-- A write to the port's response out word (R178). -/
  | registerWriteIgnored (p : Port) (w : Word)
  /-- A command of an unknown kind, written whole (R182). -/
  | unknownCommand (p : Port) (kind : Byte) (seq : Half) (args : List Word)
  | readStatus (p : Port) (seq : Half) (args : List Word)
  | readRow (p : Port) (seq : Half) (args : List Word)
  | readCopy (p : Port) (seq : Half) (args : List Word)
  | readProfile (p : Port) (seq : Half) (args : List Word)
  | listSpans (p : Port) (seq : Half) (args : List Word)
  /-- The lookup engine takes the QUERY that a port offers (R127, R140). -/
  | query
  | linkStatus (p : Port) (seq : Half) (args : List Word)
  | openEdit (p : Port) (seq : Half) (args : List Word)
  | insert (p : Port) (seq : Half) (args : List Word)
  | amend (p : Port) (seq : Half) (args : List Word)
  | retire (p : Port) (seq : Half) (args : List Word)
  | retireGroup (p : Port) (seq : Half) (args : List Word)
  | defineProfile (p : Port) (seq : Half) (args : List Word)
  | dropProfile (p : Port) (seq : Half) (args : List Word)
  | sealSession (p : Port) (seq : Half) (args : List Word)
  | abandon (p : Port) (seq : Half) (args : List Word)
  | touch (p : Port) (seq : Half) (args : List Word)
  | switch (p : Port) (seq : Half) (args : List Word)
  | withdraw (p : Port) (seq : Half) (args : List Word)
  | save (p : Port) (seq : Half) (args : List Word)
  | abortSave (p : Port) (seq : Half) (args : List Word)
  | restore (p : Port) (seq : Half) (args : List Word)
  | startEmpty (p : Port) (seq : Half) (args : List Word)
  | hold (p : Port) (seq : Half) (args : List Word)
  | resume (p : Port) (seq : Half) (args : List Word)
  | clearAll (p : Port) (seq : Half) (args : List Word)
  | resetLink (p : Port) (seq : Half) (args : List Word)
  | setParam (p : Port) (seq : Half) (args : List Word)
  /-- A link word arrives, as its 19 wire bits (R104, R197). -/
  | linkWord (n : LinkId) (w : WireWord)
  | receiverLockGained (n : LinkId)
  | receiverLockLost (n : LinkId)
  /-- A good HELLO closes (R110). -/
  | hello (n : LinkId) (tag : Tag) (level : Half)
  /-- A good FETCH closes; a two-word body carries a probe code (R131). -/
  | fetch (n : LinkId) (tag : Tag) (channel : Half) (probe : Option Half)
  | fetchProfile (n : LinkId) (tag : Tag) (slot first : Half)
  | watch (n : LinkId) (tag : Tag) (channel : Half)
  | unwatch (n : LinkId) (tag : Tag) (row : Half)
  | ackNotice (n : LinkId) (row : Half) (epoch : Word)
  | ackResync (n : LinkId) (number : Half)
  | fetchTaken
  | fetchProfileTaken
  | watchTaken
  | unwatchTaken
  | welcomeEnd (n : LinkId)
  | answerEnd (n : LinkId)
  | promptRefusalEnd (n : LinkId)
  | noticeEnd (n : LinkId)
  | resyncEnd (n : LinkId)
  | resendTimerExpiry (n : LinkId)
  | idleTimerExpiry
  | markerArrival
  | identificationDone
  | flashAbsent
  /-- A page read completes; `changes` are the flash bytes that something outside the part changed (R164, R173). -/
  | pageReadDone (changes : List Host.Cell)
  | bankEraseDone
  | eraseTimeout
  /-- A page program and its read-back complete; `changes` as in `pageReadDone`, made before the read-back (R162). -/
  | pageProgramDone (changes : List Host.Cell)
  | programTimeout
  deriving DecidableEq, Repr

end Sys2Proof
end

