-- ==== Sys2Proof/Decode.lean ====
section
/-! DEFINITION. Reading the formats of 11_formats.md that come in as bits: command headers, link words, frame HEADs,
the two check computations. `decodeTableWord` is last: no row of spec/opcode_table.json gives bits. -/

namespace Sys2Proof

/-- The value of `len` bits of `w` from bit `lo` up. -/
def bitsAt {n : Nat} (w : BitVec n) (lo len : Nat) : Nat := (w.extractLsb' lo len).toNat

/-- A 16-bit field of `w` at bit `lo`, two's complement (chapter 11). -/
def signed16At (w : Word) (lo : Nat) : Int := (w.extractLsb' lo 16).toInt

/-- The commands of the manual (chapter 10, R182 step 1). -/
inductive CmdKind where
  | readStatus | readRow | readCopy | readProfile | listSpans | query | linkStatus
  | openEdit | insert | amend | retire | retireGroup | defineProfile | dropProfile | sealSession | abandon | touch
  | switch | withdraw | save | abortSave | restore | startEmpty | hold | resume | clearAll | resetLink | setParam
  deriving DecidableEq, Repr

/-- The kind code of a command (11.4). -/
def CmdKind.code : CmdKind → Byte
  | .readStatus => 0x01#8 | .readRow => 0x02#8 | .readCopy => 0x03#8 | .readProfile => 0x04#8
  | .listSpans => 0x05#8 | .query => 0x06#8 | .linkStatus => 0x07#8
  | .openEdit => 0x10#8 | .insert => 0x11#8 | .amend => 0x12#8 | .retire => 0x13#8 | .retireGroup => 0x14#8
  | .defineProfile => 0x15#8 | .dropProfile => 0x16#8 | .sealSession => 0x18#8 | .abandon => 0x19#8 | .touch => 0x1A#8
  | .switch => 0x20#8 | .withdraw => 0x21#8
  | .save => 0x28#8 | .abortSave => 0x29#8 | .restore => 0x2A#8
  | .startEmpty => 0x30#8 | .hold => 0x31#8 | .resume => 0x32#8 | .clearAll => 0x33#8
  | .resetLink => 0x38#8 | .setParam => 0x3C#8

/-- The command a kind code names, if any (11.4, R182 step 1). -/
def CmdKind.ofCode (c : Byte) : Option CmdKind :=
  match c.toNat with
  | 0x01 => some .readStatus | 0x02 => some .readRow | 0x03 => some .readCopy | 0x04 => some .readProfile
  | 0x05 => some .listSpans | 0x06 => some .query | 0x07 => some .linkStatus
  | 0x10 => some .openEdit | 0x11 => some .insert | 0x12 => some .amend | 0x13 => some .retire
  | 0x14 => some .retireGroup | 0x15 => some .defineProfile | 0x16 => some .dropProfile
  | 0x18 => some .sealSession | 0x19 => some .abandon | 0x1A => some .touch
  | 0x20 => some .switch | 0x21 => some .withdraw
  | 0x28 => some .save | 0x29 => some .abortSave | 0x2A => some .restore
  | 0x30 => some .startEmpty | 0x31 => some .hold | 0x32 => some .resume | 0x33 => some .clearAll
  | 0x38 => some .resetLink | 0x3C => some .setParam
  | _ => none

/-- The edit commands (R59). -/
def CmdKind.isEdit : CmdKind → Bool
  | .openEdit | .insert | .amend | .retire | .retireGroup | .defineProfile | .dropProfile | .sealSession
  | .abandon | .touch => true
  | .readStatus | .readRow | .readCopy | .readProfile | .listSpans | .query | .linkStatus
  | .switch | .withdraw | .save | .abortSave | .restore | .startEmpty | .hold | .resume | .clearAll
  | .resetLink | .setParam => false

/-- The most data words a kind's responses carry, which is the room reserved before taking it (11.4, R181). -/
def CmdKind.maxData : CmdKind → Nat
  | .readStatus => 40 | .readRow => 8 | .readCopy => 15 | .readProfile => 21 | .listSpans => 33 | .query => 17
  | .linkStatus => 12 | .openEdit => 0 | .insert => 2 | .amend => 2 | .retire => 1 | .retireGroup => 2
  | .defineProfile => 1 | .dropProfile => 0 | .sealSession => 1 | .abandon => 1 | .touch => 1 | .switch => 4
  | .withdraw => 1 | .save => 2 | .abortSave => 1 | .restore => 0 | .startEmpty => 1 | .hold => 1 | .resume => 1
  | .clearAll => 2 | .resetLink => 1 | .setParam => 1

/-- A command header: kind code in bits 31 to 24, word count less one in bits 21 to 16, command sequence number in
bits 15 to 0, bits 23 and 22 not read (11.4). -/
def headerWord (kind : Byte) (count : Nat) (seq : Half) : Word :=
  (kind.zeroExtend 32 <<< 24) ||| (BitVec.ofNat 32 ((count - 1) % 64) <<< 16) ||| seq.zeroExtend 32

/-- The kind code a header names (11.4). -/
def headerKind (w : Word) : Byte := w.extractLsb' 24 8

/-- The number of words a header declares, itself included: 1 to 64 (R180). -/
def headerCount (w : Word) : Nat := bitsAt w 16 6 + 1

/-- The command sequence number of a header (R180). -/
def headerSeq (w : Word) : Half := w.extractLsb' 0 16

/-- The marker of a link word (11.1). -/
inductive Marker where
  | idle | head | body | tail
  deriving DecidableEq, Repr

/-- The marker bits of a wire word (11.1). -/
def wireMarker (w : WireWord) : Marker :=
  match bitsAt w 17 2 with
  | 0 => .idle
  | 1 => .head
  | 2 => .body
  | _ => .tail

/-- The data bits of a wire word (11.1). -/
def wireData (w : WireWord) : Half := w.extractLsb' 1 16

/-- The number of ones among the low `n` bits of `v`. -/
def onesIn : Nat → Nat → Nat
  | 0, _ => 0
  | n + 1, v => v % 2 + onesIn n (v / 2)

/-- Good parity: the 19 bits hold an odd number of ones (R197). -/
def parityGood (w : WireWord) : Bool := onesIn 19 w.toNat % 2 == 1

/-- The code of a marker (11.1). -/
def Marker.code : Marker → Nat
  | .idle => 0
  | .head => 1
  | .body => 2
  | .tail => 3

/-- The wire word of a marker and data, with the parity bit the part sends (R197). -/
def wireWord (m : Marker) (d : Half) : WireWord :=
  let v := m.code * 65536 + d.toNat
  BitVec.ofNat 19 (v * 2 + (1 - onesIn 18 v % 2))

/-- The kind code in a HEAD word's data (R198). -/
def headKind (h : Half) : Nat := bitsAt h 10 6

/-- The declared body length in a HEAD word's data (R198). -/
def headLength (h : Half) : Nat := bitsAt h 5 5

/-- The sequence tag in a HEAD word's data (R198). -/
def headTag (h : Half) : Tag := h.extractLsb' 3 2

/-- The three reserved bits of a HEAD word's data (R198). -/
def headReserved (h : Half) : Nat := bitsAt h 0 3

/-- The HEAD word's data of a frame the part sends (R198). -/
def headData (kind length : Nat) (tag : Tag) : Half :=
  BitVec.ofNat 16 (kind * 1024 + length * 32 + tag.toNat * 8)

/-- One bit into a check register that shifts left (R199, R200): the polynomial is combined in when the bit shifted
out differs from the data bit. -/
def crcBit {n : Nat} (poly : BitVec n) (r : BitVec n) (d : Bool) : BitVec n :=
  let shifted := r <<< 1
  if r.msb != d then shifted ^^^ poly else shifted

/-- The bits of `w` from bit `k - 1` down to bit 0. -/
def bitsDown {n : Nat} (w : BitVec n) : Nat → List Bool
  | 0 => []
  | k + 1 => w.getLsbD k :: bitsDown w k

/-- The frame check over data words taken in the order sent (R199). -/
def crc16 (ds : List Half) : Half :=
  ds.foldl (fun r d => (bitsDown d 16).foldl (crcBit 0x1021#16) r) 0xFFFF#16

/-- The start value of the bank check register (R200). -/
def crc32Start : Word := 0xFFFFFFFF#32

/-- The bank check register after further bytes (R200). -/
def crc32From (r : Word) (bs : List Byte) : Word :=
  bs.foldl (fun r b => (bitsDown b 8).foldl (crcBit 0x04C11DB7#32) r) r

/-- The board-to-part frame kinds (R107 step 3). -/
inductive BoardKind where
  | hello | fetch | fetchProfile | watch | unwatch | ackNotice | ackResync
  deriving DecidableEq, Repr

/-- The board-to-part kind a kind code names, if any (R198). -/
def BoardKind.ofCode : Nat → Option BoardKind
  | 1 => some .hello
  | 2 => some .fetch
  | 3 => some .fetchProfile
  | 4 => some .watch
  | 5 => some .unwatch
  | 6 => some .ackNotice
  | 7 => some .ackResync
  | _ => none

/-- The body lengths a board-to-part kind permits (R198, R107 step 5). -/
def BoardKind.permits : BoardKind → Nat → Bool
  | .hello, n => n == 1
  | .fetch, n => n == 1 || n == 2
  | .fetchProfile, n => n == 2
  | .watch, n => n == 1
  | .unwatch, n => n == 1
  | .ackNotice, n => n == 3
  | .ackResync, n => n == 1

/-- The words that a service port transaction's first byte can name (11.3). -/
inductive PortWord where
  | commandIn | responseOut | portStatus | events | eventMask
  deriving DecidableEq, Repr

/-- The word of a port by its number; word number k stands at byte offset 4k of the host port (11.3). -/
def PortWord.ofNumber : Nat → Option PortWord
  | 0 => some .commandIn
  | 1 => some .responseOut
  | 2 => some .portStatus
  | 3 => some .events
  | 4 => some .eventMask
  | _ => none

/-- The word and the direction (true for read) that a service transaction's first byte names, if any (R179, 11.3). -/
def serviceFirstByte (b : Byte) : Option (PortWord × Bool) :=
  if bitsAt b 1 4 == 0 then (PortWord.ofNumber (bitsAt b 5 3)).map (fun w => (w, b.getLsbD 0)) else none

/-- The command that the bits of a table row spell. Every row of spec/opcode_table.json has an empty list of fields,
so no word spells a command (log 11). -/
def decodeTableWord (_nbits _w : Nat) : Option Instr := none

end Sys2Proof
end

