-- ==== Sys2Proof/Machine/Table.lean ====
section
/-! DEFINITION. Sparse tables: the rows, copies, slots, links and flash cells of the part, each as a list of
(number, value) pairs in one canonical form. Numbers rise strictly and no entry equals what an unlisted number
reads as, so that equal tables are equal lists. -/

namespace Sys2Proof.Machine

/-- Numbered entries; a number that is not listed reads as a default the reader gives. -/
abbrev Table (α : Type) := List (Nat × α)

/-- The entry listed for a number, if any. -/
def Table.find {α : Type} : Table α → Nat → Option α
  | [], _ => none
  | (j, a) :: t, i => if i = j then some a else Table.find t i

/-- What number `i` reads as, where an unlisted number reads as `d`. -/
def Table.read {α : Type} (d : α) (t : Table α) (i : Nat) : α := (Table.find t i).getD d

/-- The table with `i` listed as `a`, in its place by number. -/
def Table.put {α : Type} (i : Nat) (a : α) : Table α → Table α
  | [] => [(i, a)]
  | (j, b) :: t => if i < j then (i, a) :: (j, b) :: t else if i = j then (i, a) :: t else (j, b) :: Table.put i a t

/-- The table with `i` not listed. -/
def Table.drop {α : Type} (i : Nat) : Table α → Table α
  | [] => []
  | (j, b) :: t => if i = j then Table.drop i t else (j, b) :: Table.drop i t

/-- The table with `i` reading as `a`; writing the default takes the entry away. -/
def Table.write {α : Type} [DecidableEq α] (d : α) (i : Nat) (a : α) (t : Table α) : Table α :=
  if a = d then Table.drop i t else Table.put i a t

/-- Every listed value changed by `f`. -/
def Table.mapValues {α : Type} (f : α → α) : Table α → Table α
  | [] => []
  | (j, b) :: t => (j, f b) :: Table.mapValues f t

/-- The numbers listed, in list order. -/
def Table.keys {α : Type} (t : Table α) : List Nat := t.map Prod.fst

/-- How many listed values satisfy `p`. -/
def Table.count {α : Type} (p : α → Bool) (t : Table α) : Nat := t.countP (fun e => p e.2)

/-- The listed numbers rise strictly. -/
def Table.rising {α : Type} : Table α → Bool
  | [] => true
  | (_, _) :: [] => true
  | (i, _) :: (j, b) :: t => decide (i < j) && Table.rising ((j, b) :: t)

/-- The canonical form: numbers rise strictly and no entry is the default. -/
def Table.wf {α : Type} [DecidableEq α] (d : α) (t : Table α) : Bool :=
  Table.rising t && t.all (fun e => decide (e.2 ≠ d))

/-- The lowest of the `n` numbers from `i` up that satisfies `p`. -/
def lowestFrom (p : Nat → Bool) : Nat → Nat → Option Nat
  | 0, _ => none
  | n + 1, i => if p i then some i else lowestFrom p n (i + 1)

end Sys2Proof.Machine
end

