-- ==== Sys2Proof/Machine/State.lean ====
section
/-! DEFINITION. Everything the spec gives the part, as plain data. Numbers, counts and epochs are `Nat`, quantities with
a sign are `Int`; a field "absent" in the spec is an `Option`. -/

namespace Sys2Proof.Machine

/-! ### The channel directory (chapter 1) -/

/-- The stage of a row in its life (R1). -/
inductive Phase where
  | free | newDraft | newStaged | live | dying | dead
  deriving DecidableEq, Repr

/-- The channels a row covers (R5). -/
structure Span where
  first : Nat
  count : Nat
  deriving DecidableEq, Repr

/-- A row of the row table (R1). Its id is its number in the table. -/
structure Row where
  phase : Phase
  span : Option Span
  born : Option Nat
  dies : Option Nat
  live : Option Nat
  staged : Option Nat
  draft : Option Nat
  /-- The watching links, ascending, no duplicates (R20). -/
  watch : List Nat
  deriving DecidableEq, Repr

/-- A row in phase FREE (R1). -/
def Row.free : Row :=
  { phase := .free, span := none, born := none, dies := none, live := none, staged := none, draft := none, watch := [] }

/-- An item of the span index (R7). -/
structure IndexItem where
  first : Nat
  row : Nat
  deriving DecidableEq, Repr

/-! ### The copy pool (chapter 2) -/

/-- Gain range (R24). -/
inductive Gain where
  | low | mid | high | auto
  deriving DecidableEq, Repr

/-- A trim item (R24). -/
structure Trim where
  offset : Nat
  delta : Int
  deriving DecidableEq, Repr

/-- A record body (R24). -/
structure Body where
  pedestal : Int
  threshold : Nat
  gain : Gain
  enabled : Bool
  profile : Option Nat
  group : Nat
  trims : List Trim
  deriving DecidableEq, Repr

/-- Copy states (R27). -/
inductive CopyState where
  | free | draft | staged | live | superseded
  deriving DecidableEq, Repr

/-- A slot of the copy pool (R27). -/
structure Copy where
  state : CopyState
  owner : Option Nat
  base : Option Nat
  activated : Option Nat
  supersededAt : Option Nat
  fetchPins : Nat
  snapPin : Bool
  body : Option Body
  deriving DecidableEq, Repr

/-- A FREE copy (R27). -/
def Copy.free : Copy :=
  { state := .free, owner := none, base := none, activated := none, supersededAt := none, fetchPins := 0
    snapPin := false, body := none }

/-! ### The profile table (chapter 3) -/

/-- A point of a curve (R45). -/
structure Point where
  input : Nat
  output : Int
  deriving DecidableEq, Repr

/-- Slot states (R45). -/
inductive SlotState where
  | free | pending | staged | active
  deriving DecidableEq, Repr

/-- A profile slot (R45). -/
structure Slot where
  state : SlotState
  activated : Option Nat
  points : Option (List Point)
  refCount : Nat
  readerCount : Nat
  deriving DecidableEq, Repr

/-- A FREE slot (R45). -/
def Slot.free : Slot := { state := .free, activated := none, points := none, refCount := 0, readerCount := 0 }

/-! ### Edit sessions and the epoch controller (chapters 4 and 5) -/

/-- A change item (R62). -/
inductive ChangeItem where
  | insert (row : Nat)
  | amend (row : Nat)
  | retire (row : Nat)
  | defineProfile (slot : Nat)
  deriving DecidableEq, Repr

/-- The open edit session (R58): `timer` is the timeout, in units of 100 ms, that the running idle timer was last started
with (R75, log 7). -/
structure Session where
  owner : Port
  timer : Nat
  items : List ChangeItem
  deriving DecidableEq, Repr

/-- The switch policy (R88). -/
inductive Policy where
  | atMarker | onCommand
  deriving DecidableEq, Repr

/-- The staged set with its policy (R85). -/
structure StagedSet where
  items : List ChangeItem
  policy : Policy
  deriving DecidableEq, Repr

/-- What started a switch (R99). -/
inductive Trigger where
  | marker | command
  deriving DecidableEq, Repr

/-- The switch record (R99). -/
structure SwitchRecord where
  epoch : Nat
  trigger : Trigger
  markerCount : Nat
  madeLive : Nat
  amended : Nat
  retired : Nat
  leftDead : Nat
  profilesActivated : Nat
  copiesFreed : Nat
  postings : Nat
  deriving DecidableEq, Repr

/-! ### Board links (chapters 6, 7 and 8) -/

/-- Link states (R103). -/
inductive LinkState where
  | down | up | quiet
  deriving DecidableEq, Repr

/-- A frame being received: HEAD data, the BODY data kept, and the count of BODY words received (R103). -/
structure RxFrame where
  head : Half
  kept : List Half
  received : Nat
  deriving DecidableEq, Repr

/-- The receiver state (R106). -/
inductive Receiver where
  | outside
  | inFrame (f : RxFrame)
  | discarding
  deriving DecidableEq, Repr

/-- The error counters of a link (R103). -/
structure ErrorCounters where
  parity : Nat
  framing : Nat
  check : Nat
  kind : Nat
  stray : Nat
  refusals : Nat
  deriving DecidableEq, Repr

/-- Refusal reasons (R198). -/
inductive Reason where
  | notReady | held | notFound | unknownProfile | queueFull | watchLimit | badRequest
  deriving DecidableEq, Repr

/-- An item of the prompt refusal list (R120). -/
structure Prompt where
  tag : Tag
  reason : Reason
  deriving DecidableEq, Repr

/-- What a board asks for, with the arguments as the frame carried them (R124). -/
inductive Ask where
  | fetch (channel : Half) (probe : Option Half)
  | fetchProfile (slot first : Half)
  | watch (channel : Half)
  | unwatch (row : Half)
  deriving DecidableEq, Repr

/-- The stage of a request (R124). -/
inductive Stage where
  | waiting | taken | sending
  deriving DecidableEq, Repr

/-- The contents of a WATCHING answer, fixed at taking (R142). -/
structure Watching where
  row : Nat
  first : Nat
  count : Nat
  activated : Nat
  already : Bool
  watchCount : Nat
  deriving DecidableEq, Repr

/-- The contents of an UNWATCHED answer, fixed at taking (R143). -/
structure Unwatched where
  row : Nat
  notWatched : Bool
  watchCount : Nat
  deriving DecidableEq, Repr

/-- A decided answer (R124). A RECORD and a PROFILE are read from the bound copy or slot when their frame begins (R118). -/
inductive Answer where
  | record
  | profile
  | watching (w : Watching)
  | unwatched (u : Unwatched)
  | refusal (reason : Reason)
  deriving DecidableEq, Repr

/-- A request of a request queue (R124). -/
structure Request where
  tag : Tag
  ask : Ask
  stage : Stage
  boundEpoch : Option Nat
  answer : Option Answer
  boundCopy : Option Nat
  boundSlot : Option Nat
  deriving DecidableEq, Repr

/-- The kind of a notice (R145). -/
inductive NoticeKind where
  | changed | retired
  deriving DecidableEq, Repr

/-- A notice; also a posting, which has the same contents (R145, R97). -/
structure Notice where
  row : Nat
  kind : NoticeKind
  epoch : Nat
  deriving DecidableEq, Repr

/-- The resend timer; while it runs it holds the interval, in units of 0.5 ms, that it was started with (R145, R151, log 7). -/
inductive ResendTimer where
  | stopped
  | running (interval : Nat)
  | runOut
  deriving DecidableEq, Repr

/-- The probe outcome of a RECORD or a QUERY (R133). -/
inductive Probe where
  | notAsked
  | value (v : Int)
  | disabled
  | noProfile
  deriving DecidableEq, Repr

/-- The operating state (R186). -/
inductive OpState where
  | cold | restoring | serving | held
  deriving DecidableEq, Repr

/-- The contents of a RECORD (R132). -/
structure Record where
  channel : Nat
  epoch : Nat
  row : Nat
  span : Span
  activated : Nat
  effective : Int
  body : Body
  probe : Probe
  deriving DecidableEq, Repr

/-- The contents of a PROFILE (R135). -/
structure ProfilePart where
  slot : Nat
  epoch : Nat
  activated : Nat
  pointCount : Nat
  firstIndex : Nat
  points : List Point
  deriving DecidableEq, Repr

/-- The contents of a frame the part sends, fixed when its transmission begins (R118, R198). A REFUSAL says whether it
comes from the prompt refusal list (R120). -/
inductive Content where
  | welcome (link epoch : Nat) (op : OpState)
  | record (r : Record)
  | profile (p : ProfilePart)
  | watching (w : Watching) (epoch : Nat)
  | unwatched (u : Unwatched)
  | refusal (reason : Reason) (epoch : Nat) (prompt : Bool)
  | notice (x : Notice)
  | resync (number epoch watchCount : Nat)
  deriving DecidableEq, Repr

/-- The frame a transmitter is sending, with how many of its words are out (R103, R118). -/
structure TxFrame where
  tag : Tag
  content : Content
  position : Nat
  deriving DecidableEq, Repr

/-- A link controller (R103, R145). -/
structure Link where
  state : LinkState
  locked : Bool
  rx : Receiver
  badCount : Nat
  errors : ErrorCounters
  welcome : Option Tag
  prompts : List Prompt
  requests : List Request
  notices : List Notice
  sendCount : Nat
  timer : ResendTimer
  resyncFlag : Bool
  resyncNumber : Nat
  watchCount : Nat
  tx : Option TxFrame
  deriving DecidableEq, Repr

/-- A link controller after hard reset (R103, R145). -/
def Link.reset : Link :=
  { state := .down, locked := false, rx := .outside, badCount := 0
    errors := { parity := 0, framing := 0, check := 0, kind := 0, stray := 0, refusals := 0 }
    welcome := none, prompts := [], requests := [], notices := [], sendCount := 0, timer := .stopped
    resyncFlag := false, resyncNumber := 0, watchCount := 0, tx := none }

/-! ### The snapshot unit and the flash (chapter 9) -/

/-- A snapshot bank (R159). -/
inductive Bank where
  | bankA | bankB
  deriving DecidableEq, Repr

/-- The fields of a valid bank header but for its two fixed ones (R159, log 15). -/
structure BankHeader where
  sequence : Nat
  savedEpoch : Nat
  profileCount : Nat
  recordCount : Nat
  bodyCheck : Word
  deriving DecidableEq, Repr

/-- What the latest save or restore found of a bank's header (R161). -/
inductive Survey where
  | unknown
  | invalid
  | valid (h : BankHeader)
  deriving DecidableEq, Repr

/-- Save phases (R161). -/
inductive SavePhase where
  | idle | erasing | profiles | records | header
  deriving DecidableEq, Repr

/-- Restore phases (R161). -/
inductive RestorePhase where
  | idle | selecting | loading
  deriving DecidableEq, Repr

/-- Where a restore was accepted (R161). -/
inductive Origin where
  | cold | held
  deriving DecidableEq, Repr

/-- An item of the save list (R161). -/
structure SaveItem where
  row : Nat
  copy : Nat
  deriving DecidableEq, Repr

/-- Failure kinds of saves and restores (11.6). -/
inductive FailKind where
  | flashAbsent | eraseTimeout | programTimeout | verifyMismatch | aborted | noSnapshot | corrupt
  deriving DecidableEq, Repr

/-- The last result (R161, R167, R169, R175). -/
inductive LastResult where
  | none
  | saveDone (bank : Bank) (sequence savedEpoch profiles records : Nat)
  | saveFailed (kind : FailKind) (bank : Option Bank) (writePos : Nat)
  | restoreDone (bank : Bank) (sequence savedEpoch newEpoch profiles records : Nat)
  | restoreFailed (kind : FailKind) (triedA triedB : Bool)
  deriving DecidableEq, Repr

/-- The snapshot unit (R161). -/
structure Snapshot where
  savePhase : SavePhase
  saveEpoch : Option Nat
  saveList : List SaveItem
  profileSet : List Nat
  target : Option Bank
  sequence : Option Nat
  writePos : Nat
  restorePhase : RestorePhase
  origin : Option Origin
  surveyA : Survey
  surveyB : Survey
  loading : Option Bank
  triedA : Bool
  triedB : Bool
  targetEpoch : Option Nat
  check : Option Word
  readPos : Option Nat
  last : LastResult
  deriving DecidableEq, Repr

/-- The snapshot unit after hard reset (R161). -/
def Snapshot.reset : Snapshot :=
  { savePhase := .idle, saveEpoch := none, saveList := [], profileSet := [], target := none, sequence := none
    writePos := 0, restorePhase := .idle, origin := none, surveyA := .unknown, surveyB := .unknown
    loading := none, triedA := false, triedB := false, targetEpoch := none, check := none, readPos := none
    last := .none }

/-- The flash operation the snapshot unit waits for (R162). -/
inductive FlashOp where
  | identify
  | read (bank : Bank) (page : Nat)
  | erase (bank : Bank)
  | program (bank : Bank) (page : Nat)
  deriving DecidableEq, Repr

/-- An operation running in the flash device, which an abort or a time-out leaves to finish there (R162, R169). -/
inductive DeviceOp where
  | erase (bank : Bank)
  | program (bank : Bank) (page : Nat) (bytes : List Byte)
  deriving DecidableEq, Repr

/-- The flash interface and the device behind it (R159, R162, log 8). -/
structure Flash where
  cells : List Host.Cell
  device : Option DeviceOp
  op : Option FlashOp
  deriving DecidableEq, Repr

/-- An erased flash with nothing in progress. -/
def Flash.blank : Flash := { cells := [], device := none, op := none }

/-! ### The ports and the command processor (chapter 10) -/

/-- A command in a command FIFO, as far as its words have come. `cut` is the cut mark; `released` says that the
resynchronise request that lets a cut command be taken has come (R184, R185, log 16). -/
structure QueuedCommand where
  words : List Word
  cut : Bool
  released : Bool
  deriving DecidableEq, Repr

/-- A command port (R177). `readData` is the model's own: the word last returned by a read of response out (log 14). -/
structure PortState where
  commands : List QueuedCommand
  responses : List Word
  overflow : Bool
  readData : Word
  deriving DecidableEq, Repr

/-- A port after hard reset (R177). -/
def PortState.reset : PortState := { commands := [], responses := [], overflow := false, readData := 0#32 }

/-- The event set with its cause details (R194). Bit k of `set` is the event at position k of 11.3. -/
structure EventSet where
  set : BitVec 12
  sessionExpired : Option Port
  saveFailed : Option FailKind
  restoreFailed : Option FailKind
  linkUp : Option Nat
  linkDown : Option Nat
  linkQuiet : Option Nat
  noticeOverflow : Option Nat
  cmdOverflow : Option Port
  deriving DecidableEq, Repr

/-- No event pending (R194). -/
def EventSet.reset : EventSet :=
  { set := 0#12, sessionExpired := none, saveFailed := none, restoreFailed := none, linkUp := none
    linkDown := none, linkQuiet := none, noticeOverflow := none, cmdOverflow := none }

/-- The parameters (R193). -/
structure Params where
  editTimeout : Nat
  resendInterval : Nat
  poolWatermark : Nat
  markerEnable : Bool
  deriving DecidableEq, Repr

/-- The defaults (R193). -/
def Params.reset : Params := { editTimeout := 50, resendInterval := 4, poolWatermark := 128, markerEnable := true }

/-- The whole state of the part, the flash behind it, and the queue of commands waiting. -/
structure State where
  /-- Commands waiting, first in first out. -/
  pending : List Instr
  rows : Table Row
  spanIndex : List IndexItem
  copies : Table Copy
  freeCount : Nat
  superseded : List Nat
  /-- The low-watermark detector is armed (R41). -/
  lowArmed : Bool
  slots : Table Slot
  session : Option Session
  epoch : Nat
  staged : Option StagedSet
  markerCount : Nat
  switchRecord : Option SwitchRecord
  links : Table Link
  /-- The round-robin pointer: 0 to 11 for L0 to L11, 12 for HOST, 13 for SERVICE (R127). -/
  engine : Nat
  snap : Snapshot
  flash : Flash
  host : PortState
  service : PortState
  opState : OpState
  eventSet : EventSet
  hostMask : BitVec 12
  serviceMask : BitVec 12
  params : Params
  /-- The model's own counter that the free value is applied to (log 12). -/
  freeTick : Nat
  deriving DecidableEq, Repr

/-- The part right after hard reset with the strap low, over an erased flash (R1, R7, R27, R41, R43, R45, R58, R85, R103,
R127, R161, R177, R186, R193, R194, R196; log 8, log 10). -/
def State.reset : State :=
  { pending := [], rows := [], spanIndex := [], copies := [], freeCount := Config.copies, superseded := []
    lowArmed := true, slots := [], session := none, epoch := 0, staged := none, markerCount := 0
    switchRecord := none, links := [], engine := 0, snap := Snapshot.reset, flash := Flash.blank
    host := PortState.reset, service := PortState.reset, opState := .cold, eventSet := EventSet.reset
    hostMask := 0#12, serviceMask := 0#12, params := Params.reset, freeTick := 0 }

/-- The part has no condition in which it stops: every command of the table has an effect (or none) that the spec gives.
So no fault is ever raised, and there is no constructor. -/
inductive Fault where
  deriving DecidableEq, Repr

/-- Reasons to reject a command. -/
inductive Refusal where
  /-- Raised by an arm of exec whose command has no meaning yet. Safe: a run stops there. No arm raises it. -/
  | notModelled (mnemonic : String)
  deriving DecidableEq, Repr

end Sys2Proof.Machine
end

