-- ==== Sys2Proof/Machine/Ops.lean ====
section
/-! DEFINITION. The named operations over State: one setter per field, the reads and writes of rows, copies, slots,
links, ports and flash bytes. Everything above reads and writes State through these. -/

namespace Sys2Proof.Machine

/-! ### One setter per field -/

/-- The state with its field `pending` replaced. -/
def State.setPending (s : State) (x : List Instr) : State := { s with pending := x }

/-- The state with its field `rows` replaced. -/
def State.setRows (s : State) (x : Table Row) : State := { s with rows := x }

/-- The state with its field `spanIndex` replaced. -/
def State.setSpanIndex (s : State) (x : List IndexItem) : State := { s with spanIndex := x }

/-- The state with its field `copies` replaced. -/
def State.setCopies (s : State) (x : Table Copy) : State := { s with copies := x }

/-- The state with its field `freeCount` replaced. -/
def State.setFreeCount (s : State) (x : Nat) : State := { s with freeCount := x }

/-- The state with its field `superseded` replaced. -/
def State.setSuperseded (s : State) (x : List Nat) : State := { s with superseded := x }

/-- The state with its field `lowArmed` replaced. -/
def State.setLowArmed (s : State) (x : Bool) : State := { s with lowArmed := x }

/-- The state with its field `slots` replaced. -/
def State.setSlots (s : State) (x : Table Slot) : State := { s with slots := x }

/-- The state with its field `session` replaced. -/
def State.setSession (s : State) (x : Option Session) : State := { s with session := x }

/-- The state with its field `epoch` replaced. -/
def State.setEpoch (s : State) (x : Nat) : State := { s with epoch := x }

/-- The state with its field `staged` replaced. -/
def State.setStaged (s : State) (x : Option StagedSet) : State := { s with staged := x }

/-- The state with its field `markerCount` replaced. -/
def State.setMarkerCount (s : State) (x : Nat) : State := { s with markerCount := x }

/-- The state with its field `switchRecord` replaced. -/
def State.setSwitchRecord (s : State) (x : Option SwitchRecord) : State := { s with switchRecord := x }

/-- The state with its field `links` replaced. -/
def State.setLinks (s : State) (x : Table Link) : State := { s with links := x }

/-- The state with its field `engine` replaced. -/
def State.setEngine (s : State) (x : Nat) : State := { s with engine := x }

/-- The state with its field `snap` replaced. -/
def State.setSnap (s : State) (x : Snapshot) : State := { s with snap := x }

/-- The state with its field `flash` replaced. -/
def State.setFlash (s : State) (x : Flash) : State := { s with flash := x }

/-- The state with its field `host` replaced. -/
def State.setHost (s : State) (x : PortState) : State := { s with host := x }

/-- The state with its field `service` replaced. -/
def State.setService (s : State) (x : PortState) : State := { s with service := x }

/-- The state with its field `opState` replaced. -/
def State.setOpState (s : State) (x : OpState) : State := { s with opState := x }

/-- The state with its field `eventSet` replaced. -/
def State.setEventSet (s : State) (x : EventSet) : State := { s with eventSet := x }

/-- The state with its field `hostMask` replaced. -/
def State.setHostMask (s : State) (x : BitVec 12) : State := { s with hostMask := x }

/-- The state with its field `serviceMask` replaced. -/
def State.setServiceMask (s : State) (x : BitVec 12) : State := { s with serviceMask := x }

/-- The state with its field `params` replaced. -/
def State.setParams (s : State) (x : Params) : State := { s with params := x }

/-- The state with its field `freeTick` replaced. -/
def State.setFreeTick (s : State) (x : Nat) : State := { s with freeTick := x }


/-! ### Rows, copies, slots and links by number -/

/-- Row `r` (R1). -/
def State.row (s : State) (r : Nat) : Row := Table.read Row.free s.rows r

/-- Copy `c` (R27). -/
def State.copy (s : State) (c : Nat) : Copy := Table.read Copy.free s.copies c

/-- Profile slot `k` (R45). -/
def State.slot (s : State) (k : Nat) : Slot := Table.read Slot.free s.slots k

/-- Link controller `n` (R103). -/
def State.link (s : State) (n : Nat) : Link := Table.read Link.reset s.links n

/-- Row `r` replaced. -/
def State.putRow (s : State) (r : Nat) (x : Row) : State := s.setRows (Table.write Row.free r x s.rows)

/-- Copy `c` replaced. -/
def State.putCopy (s : State) (c : Nat) (x : Copy) : State := s.setCopies (Table.write Copy.free c x s.copies)

/-- Slot `k` replaced. -/
def State.putSlot (s : State) (k : Nat) (x : Slot) : State := s.setSlots (Table.write Slot.free k x s.slots)

/-- Link `n` replaced. -/
def State.putLink (s : State) (n : Nat) (x : Link) : State := s.setLinks (Table.write Link.reset n x s.links)

/-- A change applied to the state once for each number of a list, in list order. -/
def State.forEach (f : Nat → State → State) : List Nat → State → State
  | [], s => s
  | n :: ns, s => State.forEach f ns (f n s)

/-- The twelve links in ascending order. -/
def allLinks : List Nat := [0, 1, 2, 3, 4, 5, 6, 7, 8, 9, 10, 11]

/-! ### Ports -/

/-- The fields of a port (R177). -/
def State.port (s : State) (p : Port) : PortState :=
  match p with
  | .host => s.host
  | .service => s.service

/-- A port's fields replaced. -/
def State.putPort (s : State) (p : Port) (x : PortState) : State :=
  match p with
  | .host => s.setHost x
  | .service => s.setService x

/-- A port's event mask (R196). -/
def State.mask (s : State) (p : Port) : BitVec 12 :=
  match p with
  | .host => s.hostMask
  | .service => s.serviceMask

/-- A port's event mask replaced whole (R196). -/
def State.putMask (s : State) (p : Port) (m : BitVec 12) : State :=
  match p with
  | .host => s.setHostMask m
  | .service => s.setServiceMask m

/-! ### Flash bytes (R159, 11.7) -/

/-- The first byte address of a page of a bank (11.7). -/
def pageAddress (b : Bank) (page : Nat) : Nat :=
  (match b with | .bankA => 0 | .bankB => Config.bankBytes) + page * Config.pageBytes

/-- The flash byte at an address. -/
def readByte (cells : List Host.Cell) (a : Nat) : Byte := Table.read Config.erased cells a

/-- One flash byte replaced; the flash has no byte outside its addresses. -/
def writeByte (a : Nat) (v : Byte) (cells : List Host.Cell) : List Host.Cell :=
  if a < Config.flashBytes then Table.write Config.erased a v cells else cells

/-- The flash is in its canonical form: addresses rise strictly and lie in the flash, and no byte is listed that reads as
unlisted ones do. -/
def Memory.wf (cells : List Host.Cell) : Bool :=
  Table.wf Config.erased cells && cells.all (fun c => decide (c.1 < Config.flashBytes))

/-- The flash with bytes written from an address up. -/
def writeBytes : Nat → List Byte → List Host.Cell → List Host.Cell
  | _, [], cells => cells
  | a, v :: vs, cells => writeBytes (a + 1) vs (writeByte a v cells)

/-- The flash after bytes were changed from outside the part (R164). -/
def applyChanges : List Host.Cell → List Host.Cell → List Host.Cell
  | [], cells => cells
  | (a, v) :: cs, cells => applyChanges cs (writeByte a v cells)

/-- The `n` flash bytes from an address up. -/
def readBytes (cells : List Host.Cell) : Nat → Nat → List Byte
  | _, 0 => []
  | a, n + 1 => readByte cells a :: readBytes cells (a + 1) n

/-- The 256 bytes of a page (R162). -/
def readPage (cells : List Host.Cell) (b : Bank) (page : Nat) : List Byte :=
  readBytes cells (pageAddress b page) Config.pageBytes

/-- The flash with a bank erased whole: every byte of it reads 255 (R159). -/
def eraseBank (b : Bank) (cells : List Host.Cell) : List Host.Cell :=
  cells.filter (fun c => decide (c.1 < pageAddress b 0) || decide (pageAddress b 0 + Config.bankBytes ≤ c.1))

/-- What a device operation leaves in the flash when it completes (R159, R162). -/
def DeviceOp.effect : DeviceOp → List Host.Cell → List Host.Cell
  | .erase b, cells => eraseBank b cells
  | .program b page bytes, cells => writeBytes (pageAddress b page) bytes cells

end Sys2Proof.Machine
end

