-- ==== Sys2Proof/Machine/Flags.lean ====
section
/-! DEFINITION. The event set, the masks, the interrupt line and the attention indication (10.8). -/

namespace Sys2Proof.Machine

/-- An occurrence of one of the twelve events, with its cause detail where it carries one (R194). -/
inductive Occurrence where
  | switched
  | sessionExpired (p : Port)
  | saveDone
  | saveFailed (k : FailKind)
  | restoreDone
  | restoreFailed (k : FailKind)
  | linkUp (n : Nat)
  | linkDown (n : Nat)
  | linkQuiet (n : Nat)
  | noticeOverflow (n : Nat)
  | poolLow
  | cmdOverflow (p : Port)
  deriving DecidableEq, Repr

/-- The bit of an event in the events word and the masks (11.3). -/
def Occurrence.bit : Occurrence → BitVec 12
  | .switched => 0x001#12
  | .sessionExpired _ => 0x002#12
  | .saveDone => 0x004#12
  | .saveFailed _ => 0x008#12
  | .restoreDone => 0x010#12
  | .restoreFailed _ => 0x020#12
  | .linkUp _ => 0x040#12
  | .linkDown _ => 0x080#12
  | .linkQuiet _ => 0x100#12
  | .noticeOverflow _ => 0x200#12
  | .poolLow => 0x400#12
  | .cmdOverflow _ => 0x800#12

/-- The cause detail of an occurrence put in place of the one held (R194). -/
def EventSet.withDetail (e : EventSet) : Occurrence → EventSet
  | .switched => e
  | .sessionExpired p => { e with sessionExpired := some p }
  | .saveDone => e
  | .saveFailed k => { e with saveFailed := some k }
  | .restoreDone => e
  | .restoreFailed k => { e with restoreFailed := some k }
  | .linkUp n => { e with linkUp := some n }
  | .linkDown n => { e with linkDown := some n }
  | .linkQuiet n => { e with linkQuiet := some n }
  | .noticeOverflow n => { e with noticeOverflow := some n }
  | .poolLow => e
  | .cmdOverflow p => { e with cmdOverflow := some p }

/-- An event raised: pending afterwards, its cause detail the newest (R194). -/
def State.raise (s : State) (o : Occurrence) : State :=
  s.setEventSet { s.eventSet.withDetail o with set := s.eventSet.set ||| o.bit }

/-- Keep a cause detail unless its event's bit is among those cleared (R195). -/
def keepUnless {α : Type} (m : BitVec 12) (b : Nat) (x : Option α) : Option α := if m.getLsbD b then none else x

/-- The event set after the positions of `m` are cleared: not pending, cause details absent (R195). -/
def EventSet.clear (e : EventSet) (m : BitVec 12) : EventSet :=
  { set := e.set &&& ~~~m
    sessionExpired := keepUnless m 1 e.sessionExpired
    saveFailed := keepUnless m 3 e.saveFailed
    restoreFailed := keepUnless m 5 e.restoreFailed
    linkUp := keepUnless m 6 e.linkUp
    linkDown := keepUnless m 7 e.linkDown
    linkQuiet := keepUnless m 8 e.linkQuiet
    noticeOverflow := keepUnless m 9 e.noticeOverflow
    cmdOverflow := keepUnless m 11 e.cmdOverflow }

/-- The level of the host interrupt line: an event is pending and unmasked in the host mask (R196). -/
def State.interruptLine (s : State) : Bool := s.eventSet.set &&& s.hostMask != 0#12

/-- The service port's attention: an event is pending and unmasked in the service mask (R196). -/
def State.attention (s : State) : Bool := s.eventSet.set &&& s.serviceMask != 0#12

end Sys2Proof.Machine
end

