-- ==== Sys2Proof/Machine/Operands.lean ====
section
/-! DEFINITION. The operand forms of 11_formats.md: record bodies, points and selections as commands carry them, the words of
frames the part sends, flash headers and entries both ways, and the code of every named value. -/

namespace Sys2Proof.Machine

/-! ### Codes of named values -/

/-- Gain range codes (11.2). -/
def Gain.code : Gain → Nat
  | .low => 0 | .mid => 1 | .high => 2 | .auto => 3

/-- The gain range a code names (11.2, R42). -/
def Gain.ofCode : Nat → Option Gain
  | 0 => some .low | 1 => some .mid | 2 => some .high | 3 => some .auto | _ => none

/-- Operating state codes (11.2). -/
def OpState.code : OpState → Nat
  | .cold => 0 | .restoring => 1 | .serving => 2 | .held => 3

/-- Row phase codes (11.5). -/
def Phase.code : Phase → Nat
  | .free => 0 | .newDraft => 1 | .newStaged => 2 | .live => 3 | .dying => 4 | .dead => 5

/-- Copy state codes (11.8). -/
def CopyState.code : CopyState → Nat
  | .free => 0 | .draft => 1 | .staged => 2 | .live => 3 | .superseded => 4

/-- Slot state codes (11.8). -/
def SlotState.code : SlotState → Nat
  | .free => 0 | .pending => 1 | .staged => 2 | .active => 3

/-- Link state codes (11.6 word 35). -/
def LinkState.code : LinkState → Nat
  | .down => 0 | .up => 1 | .quiet => 2

/-- Notice kind codes (11.2). -/
def NoticeKind.code : NoticeKind → Nat
  | .changed => 0 | .retired => 1

/-- Refusal reason codes (11.2). -/
def Reason.code : Reason → Nat
  | .notReady => 1 | .held => 2 | .notFound => 3 | .unknownProfile => 4 | .queueFull => 5 | .watchLimit => 6
  | .badRequest => 7

/-- Port codes where a field holds one, 0 being none (11.6). -/
def portCode : Option Port → Nat
  | none => 0 | some .host => 1 | some .service => 2

/-- Policy codes (11.6, 11.8). -/
def Policy.code : Policy → Nat
  | .atMarker => 0 | .onCommand => 1

/-- Trigger codes (11.6). -/
def Trigger.code : Trigger → Nat
  | .marker => 0 | .command => 1

/-- Save phase codes (11.6). -/
def SavePhase.code : SavePhase → Nat
  | .idle => 0 | .erasing => 1 | .profiles => 2 | .records => 3 | .header => 4

/-- Restore phase codes (11.6). -/
def RestorePhase.code : RestorePhase → Nat
  | .idle => 0 | .selecting => 1 | .loading => 2

/-- Restore origin codes (11.6). -/
def originCode : Option Origin → Nat
  | none => 0 | some .cold => 1 | some .held => 2

/-- Bank codes, 0 being none (11.6). -/
def bankCode : Option Bank → Nat
  | none => 0 | some .bankA => 1 | some .bankB => 2

/-- Survey codes (11.6). -/
def Survey.code : Survey → Nat
  | .unknown => 0 | .invalid => 1 | .valid _ => 2

/-- Failure kind codes, 0 being none (11.6). -/
def failCode : Option FailKind → Nat
  | none => 0 | some .flashAbsent => 1 | some .eraseTimeout => 2 | some .programTimeout => 3
  | some .verifyMismatch => 4 | some .aborted => 5 | some .noSnapshot => 6 | some .corrupt => 7

/-- Probe outcome codes (11.2). -/
def Probe.code : Probe → Nat
  | .notAsked => 0 | .value _ => 1 | .disabled => 2 | .noProfile => 3

/-- The probe value field: the value where there is one, else 0 (11.2). -/
def Probe.field : Probe → Int
  | .value v => v
  | .notAsked => 0 | .disabled => 0 | .noProfile => 0

/-- Request kind codes of LINK_STATUS (11.8). -/
def Ask.code : Ask → Nat
  | .fetch _ _ => 0 | .fetchProfile _ _ => 1 | .watch _ => 2 | .unwatch _ => 3

/-- Request stage codes of LINK_STATUS (11.8). -/
def Stage.code : Stage → Nat
  | .waiting => 0 | .taken => 1 | .sending => 2

/-- The kind code of a frame the part sends (R198). -/
def Content.code : Content → Nat
  | .welcome _ _ _ => 0x21 | .record _ => 0x22 | .profile _ => 0x23 | .watching _ _ => 0x24 | .unwatched _ => 0x25
  | .refusal _ _ _ => 0x26 | .notice _ => 0x27 | .resync _ _ _ => 0x28

/-- Result codes (11.4). -/
inductive Code where
  | done | accepted | noSession | editHeld | notOwner | badSpan | spanOverlap | badField | noRow | rowState | rowsFull
  | poolFull | setFull | badProfile | profileState | profileInUse | stagePending | nothingStaged | sessionOpen | notReady
  | saveActive | pinsHeld | epochLimit | badCommand | badLength
  deriving DecidableEq, Repr

/-- The number of a result code; 24 is given to none (11.4). -/
def Code.number : Code → Nat
  | .done => 1 | .accepted => 2 | .noSession => 3 | .editHeld => 4 | .notOwner => 5 | .badSpan => 6 | .spanOverlap => 7
  | .badField => 8 | .noRow => 9 | .rowState => 10 | .rowsFull => 11 | .poolFull => 12 | .setFull => 13
  | .badProfile => 14 | .profileState => 15 | .profileInUse => 16 | .stagePending => 17 | .nothingStaged => 18
  | .sessionOpen => 19 | .notReady => 20 | .saveActive => 21 | .pinsHeld => 22 | .epochLimit => 23
  | .badCommand => 25 | .badLength => 26

/-! ### Packing words -/

/-- A word from (value, lowest bit) pairs; each value fits the field its layout gives it. -/
def packWord : List (Nat × Nat) → Word
  | [] => 0#32
  | (v, lo) :: fs => (BitVec.ofNat 32 v <<< lo) ||| packWord fs

/-- A signed value across 16 bits, two's complement (chapter 11). -/
def signed16 (x : Int) : Nat := (BitVec.ofInt 16 x).toNat

/-- A number as one data word; an epoch is one 32-bit value (chapter 11). -/
def numWord (n : Nat) : Word := BitVec.ofNat 32 n

/-- 1 for true, 0 for false. -/
def flagBit (b : Bool) : Nat := if b then 1 else 0

/-- What is given for a field that may be absent: 0 when it is (11.8). -/
def orZero (x : Option Nat) : Nat := x.getD 0

/-- A response header (11.4). -/
def responseHeader (c : Code) (seq : Half) (dataWords : Nat) : Word :=
  packWord [(c.number, 24), (dataWords, 16), (seq.toNat, 0)]

/-! ### Record bodies in commands (11.5) -/

/-- The span word: first channel in bits 15 to 0, count in bits 24 to 16. -/
def spanWord (sp : Span) : Word := packWord [(sp.first, 0), (sp.count, 16)]

/-- The span an INSERT's span word carries. -/
def spanOfWord (w : Word) : Span := { first := bitsAt w 0 16, count := bitsAt w 16 9 }

/-- Body word A: pedestal, threshold. -/
def bodyWordA (b : Body) : Word := packWord [(signed16 b.pedestal, 0), (b.threshold, 16)]

/-- Body word B: gain range, enabled, profile present and slot, group tag, trim count. -/
def bodyWordB (b : Body) : Word :=
  packWord [(b.gain.code, 0), (flagBit b.enabled, 2), (flagBit b.profile.isSome, 3), (orZero b.profile, 4),
    (b.group, 16), (b.trims.length, 24)]

/-- A trim word of a command: offset, delta. -/
def trimWord (t : Trim) : Word := packWord [(t.offset, 0), (signed16 t.delta, 16)]

/-- The trim a trim word of a command carries. -/
def trimOfWord (w : Word) : Trim := { offset := bitsAt w 0 16, delta := signed16At w 16 }

/-- The gain range of body word B; its two bits carry no code without a meaning. -/
def gainOfWordB (w : Word) : Gain := (Gain.ofCode (bitsAt w 0 2)).getD .low

/-- The profile of body word B; the slot is read only when present. -/
def profileOfWordB (w : Word) : Option Nat := if w.getLsbD 3 then some (bitsAt w 4 5) else none

/-- The trim count of body word B. -/
def trimCountOfWordB (w : Word) : Nat := bitsAt w 24 4

/-- The whole body that INSERT carries. -/
def bodyOfWords (a b : Word) (trims : List Word) : Body :=
  { pedestal := signed16At a 0, threshold := bitsAt a 16 16, gain := gainOfWordB b, enabled := b.getLsbD 2
    profile := profileOfWordB b, group := bitsAt b 16 8, trims := trims.map trimOfWord }

/-- AMEND's field selection is bits 22 to 16 of its second word; at least one must be set (R66). -/
def selectsSome (w : Word) : Bool := bitsAt w 16 7 != 0

/-- AMEND selects the trims (bit 22). -/
def selectsTrims (w : Word) : Bool := w.getLsbD 22

/-- A body with the fields that AMEND selects written over it (R30, R66). -/
def amendBody (w a b : Word) (trims : List Word) (old : Body) : Body :=
  { pedestal := if w.getLsbD 16 then signed16At a 0 else old.pedestal
    threshold := if w.getLsbD 17 then bitsAt a 16 16 else old.threshold
    gain := if w.getLsbD 18 then gainOfWordB b else old.gain
    enabled := if w.getLsbD 19 then b.getLsbD 2 else old.enabled
    profile := if w.getLsbD 20 then profileOfWordB b else old.profile
    group := if w.getLsbD 21 then bitsAt b 16 8 else old.group
    trims := if w.getLsbD 22 then trims.map trimOfWord else old.trims }

/-- A point word: input code, output value. -/
def pointWord (x : Point) : Word := packWord [(x.input, 0), (signed16 x.output, 16)]

/-- The point a point word carries. -/
def pointOfWord (w : Word) : Point := { input := bitsAt w 0 16, output := signed16At w 16 }

/-! ### Frames the part sends (11.2) -/

/-- An epoch as two data words, the high half first (chapter 11). -/
def epochHalves (e : Nat) : List Half := [BitVec.ofNat 16 (e / 65536), BitVec.ofNat 16 e]

/-- The record flags word (11.2). -/
def recordFlags (b : Body) : Half :=
  BitVec.ofNat 16 (b.gain.code * 16384 + flagBit b.enabled * 8192 + flagBit b.profile.isSome * 4096
    + orZero b.profile * 128 + b.trims.length * 8)

/-- A trim word of a RECORD (11.2). -/
def recordTrim (t : Trim) : Half := BitVec.ofNat 16 (t.offset * 256 + (BitVec.ofInt 8 t.delta).toNat)

/-- The body words of a RECORD (11.2, R132). -/
def Record.halves (r : Record) : List Half :=
  [BitVec.ofNat 16 r.channel] ++ epochHalves r.epoch
    ++ [BitVec.ofNat 16 r.row, BitVec.ofNat 16 r.span.first, BitVec.ofNat 16 r.span.count]
    ++ epochHalves r.activated
    ++ [BitVec.ofInt 16 r.effective, BitVec.ofInt 16 r.body.pedestal, BitVec.ofNat 16 r.body.threshold,
      recordFlags r.body, BitVec.ofNat 16 r.body.group, BitVec.ofNat 16 r.probe.code, BitVec.ofInt 16 r.probe.field]
    ++ r.body.trims.map recordTrim

/-- The body words of a PROFILE (11.2, R135). -/
def ProfilePart.halves (p : ProfilePart) : List Half :=
  [BitVec.ofNat 16 p.slot] ++ epochHalves p.epoch ++ epochHalves p.activated
    ++ [BitVec.ofNat 16 p.pointCount, BitVec.ofNat 16 p.firstIndex]
    ++ p.points.flatMap (fun x => [BitVec.ofNat 16 x.input, BitVec.ofInt 16 x.output])

/-- The body words of a frame the part sends (11.2). -/
def Content.halves : Content → List Half
  | .welcome n e op => [BitVec.ofNat 16 n] ++ epochHalves e ++ [BitVec.ofNat 16 op.code]
  | .record r => r.halves
  | .profile p => p.halves
  | .watching w e =>
    [BitVec.ofNat 16 w.row, BitVec.ofNat 16 w.first, BitVec.ofNat 16 w.count] ++ epochHalves e ++ epochHalves w.activated
      ++ [BitVec.ofNat 16 (flagBit w.already), BitVec.ofNat 16 w.watchCount]
  | .unwatched u => [BitVec.ofNat 16 u.row, BitVec.ofNat 16 (flagBit u.notWatched), BitVec.ofNat 16 u.watchCount]
  | .refusal r e _ => [BitVec.ofNat 16 r.code] ++ epochHalves e
  | .notice x => [BitVec.ofNat 16 x.row, BitVec.ofNat 16 x.kind.code] ++ epochHalves x.epoch
  | .resync k e w => [BitVec.ofNat 16 k] ++ epochHalves e ++ [BitVec.ofNat 16 w]

/-- All words of a frame: HEAD, BODY words, TAIL with the frame check, each with correct parity (R105, R118, R199). -/
def TxFrame.wireWords (f : TxFrame) : List WireWord :=
  let body := f.content.halves
  let head := headData f.content.code body.length f.tag
  wireWord .head head :: body.map (wireWord .body) ++ [wireWord .tail (crc16 (head :: body))]

/-- The word a transmitter puts on the wire next: the next word of its frame, or an IDLE word (R104, R118). -/
def Link.lineWord (l : Link) : WireWord :=
  match l.tx with
  | none => wireWord .idle 0#16
  | some f => (f.wireWords[f.position]?).getD (wireWord .idle 0#16)

/-! ### The flash bank (11.7) -/

/-- A value as `n` bytes, most significant first. -/
def bytesOf (v : Nat) : Nat → List Byte
  | 0 => []
  | n + 1 => BitVec.ofNat 8 (v / 256 ^ n) :: bytesOf v n

/-- The value of bytes, most significant first. -/
def valueOf (bs : List Byte) : Nat := bs.foldl (fun v b => v * 256 + b.toNat) 0

/-- The value of `n` bytes of a page or entry from byte `i`. -/
def fieldAt (bs : List Byte) (i n : Nat) : Nat := valueOf ((bs.drop i).take n)

/-- A signed 16-bit field at byte `i`. -/
def signedAt (bs : List Byte) (i : Nat) : Int := (BitVec.ofNat 16 (fieldAt bs i 2)).toInt

/-- Bytes filled up to length `n` with 0xFF. -/
def fillTo (n : Nat) (bs : List Byte) : List Byte := bs ++ List.replicate (n - bs.length) Config.erased

/-- The header page's bytes 0 to 19, over which the header check value is computed (R200). -/
def headerBytes (h : BankHeader) : List Byte :=
  bytesOf Config.magic.toNat 4 ++ bytesOf h.sequence 4 ++ bytesOf h.savedEpoch 4 ++ bytesOf h.profileCount 2
    ++ bytesOf h.recordCount 2 ++ bytesOf h.bodyCheck.toNat 4

/-- A whole header page (11.7). -/
def headerPage (h : BankHeader) : List Byte :=
  fillTo Config.pageBytes (headerBytes h ++ bytesOf (crc32From crc32Start (headerBytes h)).toNat 4)

/-- The header a page holds, when its magic and its header check value are right (R160). -/
def headerOfPage (bs : List Byte) : Option BankHeader :=
  if fieldAt bs 0 4 = Config.magic.toNat ∧ fieldAt bs 20 4 = (crc32From crc32Start (bs.take 20)).toNat then
    some { sequence := fieldAt bs 4 4, savedEpoch := fieldAt bs 8 4, profileCount := fieldAt bs 12 2
           recordCount := fieldAt bs 14 2, bodyCheck := BitVec.ofNat 32 (fieldAt bs 16 4) }
  else none

/-- A profile entry of 128 bytes (11.7). -/
def profileEntry (k : Nat) (pts : List Point) : List Byte :=
  fillTo 128 (bytesOf k 1 ++ bytesOf pts.length 1 ++ [Config.erased, Config.erased]
    ++ pts.flatMap (fun x => bytesOf x.input 2 ++ bytesOf (signed16 x.output) 2))

/-- The points of a profile entry, as many as its point count says. -/
def entryPoints (bs : List Byte) : List Point :=
  (List.range (fieldAt bs 1 1)).map (fun j => { input := fieldAt bs (4 + 4 * j) 2, output := signedAt bs (6 + 4 * j) })

/-- A record entry of 64 bytes (11.7). -/
def recordEntry (r : Nat) (sp : Span) (b : Body) : List Byte :=
  fillTo 64 (fillTo 16 (bytesOf r 2 ++ bytesOf sp.first 2 ++ bytesOf sp.count 2 ++ bytesOf (signed16 b.pedestal) 2
    ++ bytesOf b.threshold 2 ++ bytesOf b.gain.code 1 ++ bytesOf (flagBit b.enabled + 2 * flagBit b.profile.isSome) 1
    ++ bytesOf (orZero b.profile) 1 ++ bytesOf b.group 1 ++ bytesOf b.trims.length 1)
    ++ b.trims.flatMap (fun t => bytesOf t.offset 1 ++ bytesOf (BitVec.ofInt 8 t.delta).toNat 1))

/-- The span a record entry holds. -/
def entrySpan (bs : List Byte) : Span := { first := fieldAt bs 2 2, count := fieldAt bs 4 2 }

/-- The trims a record entry holds, as many as its trim count says. -/
def entryTrims (bs : List Byte) : List Trim :=
  (List.range (fieldAt bs 14 1)).map
    (fun j => { offset := fieldAt bs (16 + 2 * j) 1, delta := (BitVec.ofNat 8 (fieldAt bs (17 + 2 * j) 1)).toInt })

/-- The body a record entry holds; none for a gain range code above 3 or a set bit of byte 11 without a meaning (R42).
A trim count above 8 is left to the check of R25. DESIGN CHOICE (log 30): byte 12, the profile slot, is not looked at while the
profile present bit is clear, so another value than 0 there fails no check. -/
def entryBody (bs : List Byte) : Option Body :=
  match Gain.ofCode (fieldAt bs 10 1) with
  | none => none
  | some g =>
    if 4 ≤ fieldAt bs 11 1 then none
    else some { pedestal := signedAt bs 6, threshold := fieldAt bs 8 2, gain := g
                enabled := fieldAt bs 11 1 % 2 == 1
                profile := if 2 ≤ fieldAt bs 11 1 then some (fieldAt bs 12 1) else none
                group := fieldAt bs 13 1, trims := entryTrims bs }

/-- The `j`-th entry of `n` bytes on a page. -/
def entryOf (n j : Nat) (page : List Byte) : List Byte := (page.drop (n * j)).take n

end Sys2Proof.Machine
end

