-- ==== Sys2Proof/Machine/Directory.lean ====
section
/-! DEFINITION. The channel directory (chapter 1): spans, visibility, the span index, lookup, rows claimed and freed,
watch sets. -/

namespace Sys2Proof.Machine

/-- The last channel of a span (R5). -/
def Span.last (sp : Span) : Nat := sp.first + sp.count - 1

/-- A span that INSERT or a restore may give (R5). -/
def Span.valid (sp : Span) : Bool :=
  decide (sp.first < Config.channels) && decide (1 ≤ sp.count) && decide (sp.count ≤ Config.spanMax)
    && decide (sp.last < Config.channels)

/-- Two spans share a channel (R5). -/
def Span.overlaps (a b : Span) : Bool := decide (a.first ≤ b.last) && decide (b.first ≤ a.last)

/-- A channel of the span (R5). -/
def Span.contains (sp : Span) (c : Nat) : Bool := decide (sp.first ≤ c) && decide (c ≤ sp.last)

/-- The row is visible at epoch `e` (R3). -/
def Row.visibleAt (x : Row) (e : Nat) : Bool :=
  match x.born with
  | none => false
  | some b => decide (b ≤ e) && (match x.dies with | none => true | some d => decide (e < d))

/-- The row's span contains the channel. -/
def Row.covers (x : Row) (c : Nat) : Bool :=
  match x.span with
  | none => false
  | some sp => sp.contains c

/-- The row that covers channel `c` at epoch `e`, if any (R9). The index items whose first channel is from
`c - 255` to `c` are examined. -/
def State.lookup (s : State) (c e : Nat) : Option Nat :=
  (s.spanIndex.find? (fun it =>
    decide (c ≤ it.first + 255) && decide (it.first ≤ c) && (s.row it.row).covers c && (s.row it.row).visibleAt e)).map
      IndexItem.row

/-- An item joins the span index in its place (R7, R8). -/
def indexInsert (x : IndexItem) : List IndexItem → List IndexItem
  | [] => [x]
  | y :: ys =>
    if x.first < y.first ∨ (x.first = y.first ∧ x.row < y.row) then x :: y :: ys else y :: indexInsert x ys

/-- The lowest FREE row id (R11). -/
def State.lowestFreeRow (s : State) : Option Nat :=
  lowestFrom (fun r => decide ((s.row r).phase = .free)) Config.rows 0

/-- A link joins a watch set, kept ascending without duplicates (R20). -/
def watchAdd (n : Nat) : List Nat → List Nat
  | [] => [n]
  | m :: ms => if n < m then n :: m :: ms else if n = m then m :: ms else m :: watchAdd n ms

/-- Link `n`'s watch count falls by one, as the directory reports a removal (R20, R144). -/
def State.watchFalls (n : Nat) (s : State) : State :=
  s.putLink n { s.link n with watchCount := (s.link n).watchCount - 1 }

/-- A row's watch set is emptied and each removal reported (R20). -/
def State.emptyWatchSet (r : Nat) (s : State) : State :=
  State.forEach State.watchFalls (s.row r).watch (s.putRow r { s.row r with watch := [] })

/-- Row `r` returns to FREE and its item leaves the span index (R1, R8). -/
def State.freeRow (r : Nat) (s : State) : State :=
  let t := s.emptyWatchSet r
  (t.putRow r Row.free).setSpanIndex (t.spanIndex.filter (fun it => decide (it.row ≠ r)))

/-- Row `r` leaves FREE with contents `x` and its item joins the span index (R8). -/
def State.claimRow (r : Nat) (sp : Span) (x : Row) (s : State) : State :=
  (s.putRow r x).setSpanIndex (indexInsert { first := sp.first, row := r } s.spanIndex)

/-- Some copy is owned by row `r` (R28). -/
def State.ownsCopy (s : State) (r : Nat) : Bool :=
  s.copies.keys.any (fun c => decide ((s.copy c).owner = some r))

/-- A DEAD row that owns no copy any more returns to FREE (R18). -/
def State.reapRow (r : Nat) (s : State) : State :=
  if (s.row r).phase = .dead ∧ s.ownsCopy r = false then s.freeRow r else s

/-- Link `n` leaves every watch set (R21). -/
def State.leaveWatchSets (n : Nat) (s : State) : State :=
  s.setRows (Table.mapValues (fun x => { x with watch := x.watch.filter (fun m => decide (m ≠ n)) }) s.rows)

/-- The change set holds a RETIRE item for row `r`. -/
def hasRetire (items : List ChangeItem) (r : Nat) : Bool := items.contains (.retire r)

/-- The overlap check considers row `r` (R6). -/
def State.considered (s : State) (items : List ChangeItem) (r : Nat) : Bool :=
  match (s.row r).phase with
  | .live => !hasRetire items r
  | .newStaged => !hasRetire items r
  | .newDraft => true
  | .free => false
  | .dying => false
  | .dead => false

/-- The span overlaps that of row `r`. -/
def State.overlapsRow (s : State) (sp : Span) (r : Nat) : Bool :=
  match (s.row r).span with
  | none => false
  | some sp' => sp.overlaps sp'

/-- The overlap check of an INSERT fails (R6). -/
def State.overlapFound (s : State) (items : List ChangeItem) (sp : Span) : Bool :=
  s.rows.keys.any (fun r => s.considered items r && s.overlapsRow sp r)

end Sys2Proof.Machine
end

