-- ==== Sys2Proof/Machine/Pool.lean ====
section
/-! DEFINITION. The copy pool (chapter 2): bodies, allocation and freeing, pins, the superseded list, the low-watermark
detector. -/

namespace Sys2Proof.Machine

/-- The trim offsets are strictly ascending and below `n` (R25). -/
def trimsOrdered (n : Nat) : List Trim → Bool
  | [] => true
  | t :: [] => decide (t.offset < n)
  | t :: u :: ts => decide (t.offset < n) && decide (t.offset < u.offset) && trimsOrdered n (u :: ts)

/-- Every field of the body but the profile is within its range (R24). -/
def Body.inRange (b : Body) : Bool :=
  decide (-2048 ≤ b.pedestal) && decide (b.pedestal ≤ 2047) && decide (b.threshold ≤ 4095) && decide (b.group ≤ 255)
    && decide (b.trims.length ≤ Config.trimsMax)
    && b.trims.all (fun t => decide (-128 ≤ t.delta) && decide (t.delta ≤ 127))

/-- The profile, if present, names a slot that is not FREE (R25). -/
def State.profileUsable (s : State) (k : Option Nat) : Bool :=
  match k with
  | none => true
  | some k => decide (k < Config.slots) && decide ((s.slot k).state ≠ .free)

/-- The body is valid for a row whose span has count `n` (R25). -/
def State.bodyValid (s : State) (n : Nat) (b : Body) : Bool :=
  b.inRange && trimsOrdered n b.trims && s.profileUsable b.profile

/-- A sum held to the range of a pedestal (R26). -/
def saturate (x : Int) : Int := if x < -2048 then -2048 else if 2047 < x then 2047 else x

/-- The effective pedestal of channel `c` of a row whose first channel is `first` (R26). -/
def Body.effective (b : Body) (first c : Nat) : Int :=
  match b.trims.find? (fun t => decide (t.offset = c - first)) with
  | some t => saturate (b.pedestal + t.delta)
  | none => saturate b.pedestal

/-- A slot's reference count rises by one (R48). -/
def State.addRef (k : Option Nat) (s : State) : State :=
  match k with
  | none => s
  | some k => s.putSlot k { s.slot k with refCount := (s.slot k).refCount + 1 }

/-- A slot's reference count falls by one (R48). -/
def State.dropRef (k : Option Nat) (s : State) : State :=
  match k with
  | none => s
  | some k => s.putSlot k { s.slot k with refCount := (s.slot k).refCount - 1 }

/-- The low-watermark check at an allocation (R41). -/
def State.checkLow (s : State) : State :=
  if s.freeCount < s.params.poolWatermark ∧ s.lowArmed = true then (s.setLowArmed false).raise .poolLow else s

/-- The low-watermark check at a freeing: the detector is armed again at or above the watermark (R41). -/
def State.checkArm (s : State) : State :=
  if s.params.poolWatermark ≤ s.freeCount then s.setLowArmed true else s

/-- The lowest FREE copy id (R29). -/
def State.lowestFreeCopy (s : State) : Option Nat :=
  lowestFrom (fun c => decide ((s.copy c).state = .free)) Config.copies 0

/-- The profile that a copy's body names (R48). -/
def Copy.profile (x : Copy) : Option Nat := x.body.bind Body.profile

/-- Copy `c`, FREE until now, is allocated with contents `x` (R29). -/
def State.allocCopy (c : Nat) (x : Copy) (s : State) : State :=
  (((s.putCopy c x).addRef x.profile).setFreeCount (s.freeCount - 1)).checkLow

/-- Copy `c` is freed: FREE values, its reference released, its place in the superseded list given up, the free count up by
one, and the check made (R27, R29, R39). -/
def State.freeCopy (c : Nat) (s : State) : State :=
  let t := (s.putCopy c Copy.free).dropRef (s.copy c).profile
  ((t.setSuperseded (t.superseded.filter (fun d => decide (d ≠ c)))).setFreeCount (t.freeCount + 1)).checkArm

/-- The copy holds neither pin (R34, R38). -/
def Copy.unpinned (x : Copy) : Bool := decide (x.fetchPins = 0) && !x.snapPin

/-- After a release: a SUPERSEDED copy left without a pin is freed, and a DEAD row left without a copy returns to FREE
(R38, R18). -/
def State.settleCopy (c : Nat) (s : State) : State :=
  if (s.copy c).state = .superseded ∧ (s.copy c).unpinned = true then
    match (s.copy c).owner with
    | none => s.freeCopy c
    | some r => (s.freeCopy c).reapRow r
  else s

/-- A fetch pin is placed (R36). -/
def State.addFetchPin (c : Nat) (s : State) : State :=
  s.putCopy c { s.copy c with fetchPins := (s.copy c).fetchPins + 1 }

/-- A fetch pin is released (R36, R38). -/
def State.dropFetchPin (c : Nat) (s : State) : State :=
  (s.putCopy c { s.copy c with fetchPins := (s.copy c).fetchPins - 1 }).settleCopy c

/-- A snapshot pin is set (R37). -/
def State.setSnapPin (c : Nat) (s : State) : State := s.putCopy c { s.copy c with snapPin := true }

/-- A snapshot pin is cleared (R37, R38). -/
def State.clearSnapPin (c : Nat) (s : State) : State :=
  if (s.copy c).snapPin then (s.putCopy c { s.copy c with snapPin := false }).settleCopy c else s

/-- The total pin count: fetch pins of all copies plus copies with the snapshot pin set (R40). -/
def State.totalPins (s : State) : Nat :=
  (s.copies.keys.map (fun c => (s.copy c).fetchPins + if (s.copy c).snapPin then 1 else 0)).sum

/-- The sum of the reader counts of all slots (R56). -/
def State.totalReaders (s : State) : Nat := (s.slots.keys.map (fun k => (s.slot k).readerCount)).sum

end Sys2Proof.Machine
end

