-- ==== Sys2Proof/Machine/Profiles.lean ====
section
/-! DEFINITION. Conversion profiles (chapter 3): point lists, evaluation of probe codes, readers. -/

namespace Sys2Proof.Machine

/-- The input codes are strictly ascending (R47). -/
def inputsAscending : List Point → Bool
  | [] => true
  | _ :: [] => true
  | x :: y :: ps => decide (x.input < y.input) && inputsAscending (y :: ps)

/-- A point list that DEFINE_PROFILE or a restore may give (R47). -/
def pointsValid (ps : List Point) : Bool :=
  decide (2 ≤ ps.length) && decide (ps.length ≤ 17)
    && ps.all (fun x => decide (x.input ≤ 4095) && decide (-32768 ≤ x.output) && decide (x.output ≤ 32767))
    && inputsAscending ps

/-- The curve at `x` from point `p` on, where `x` is not below `p`'s input code (R54 steps 3 and 4). -/
def curveFrom (p : Point) : List Point → Int → Int
  | [], _ => p.output
  | q :: ps, x =>
    if x < q.input then
      p.output + ((q.output - p.output) * (x - p.input)).tdiv ((q.input : Int) - p.input)
    else curveFrom q ps x

/-- The curve at offset input `x` (R54 steps 2 to 4). -/
def curve : List Point → Int → Int
  | [], _ => 0
  | p :: ps, x => if x < p.input then p.output else curveFrom p ps x

/-- The points of a slot; none while they are absent. -/
def State.pointsOf (s : State) (k : Nat) : List Point := (s.slot k).points.getD []

/-- The probe outcome for channel `c` and an optional probe code, from a bound body on a row whose first channel is `first`
(R133, R54, R55). -/
def State.probeOutcome (s : State) (b : Body) (first c : Nat) (probe : Option Nat) : Probe :=
  match probe with
  | none => .notAsked
  | some p =>
    if b.enabled = false then .disabled
    else match b.profile with
      | none => .noProfile
      | some k => .value (curve (s.pointsOf k) (p - b.effective first c))

/-- A slot's reader count rises by one (R53). -/
def State.addReader (k : Nat) (s : State) : State :=
  s.putSlot k { s.slot k with readerCount := (s.slot k).readerCount + 1 }

/-- A slot's reader count falls by one (R53). -/
def State.dropReader (k : Nat) (s : State) : State :=
  s.putSlot k { s.slot k with readerCount := (s.slot k).readerCount - 1 }

end Sys2Proof.Machine
end

