-- ==== Sys2Proof/Machine/Notices.lean ====
section
/-! DEFINITION. The notice machinery of a link (chapter 8): postings, merging, overflow, acknowledgements, the resync flag, the
resend timer. -/

namespace Sys2Proof.Machine

/-- The resync flag is set, with everything that belongs to it (R155). -/
def Link.setResync (l : Link) : Link :=
  { l with resyncFlag := true, resyncNumber := (l.resyncNumber + 1) % 65536, notices := [], sendCount := 0
           timer := .stopped }

/-- A RESYNC or the head notice is due as far as its sends go (R148). -/
def Link.due (l : Link) : Bool :=
  decide (l.sendCount = 0) || (decide (l.timer = .runOut) && decide (l.sendCount < Config.sendLimit))

/-- The kind of a notice after a posting merges into it (R146). -/
def NoticeKind.merge (old new : NoticeKind) : NoticeKind :=
  if old = .retired ∨ new = .retired then .retired else .changed

/-- The queue after a posting merges into the notice it holds for the same row (R146). -/
def mergeNotice (x : Notice) (q : List Notice) : List Notice :=
  q.map (fun y => if y.row = x.row then { y with epoch := x.epoch, kind := y.kind.merge x.kind } else y)

/-- The head of the queue is a notice for row `r`. -/
def headIsFor (q : List Notice) (r : Nat) : Bool :=
  match q with
  | [] => false
  | y :: _ => decide (y.row = r)

/-- A link takes a posting (R146, R147). The second part says whether the queue overflowed. -/
def Link.takePosting (l : Link) (x : Notice) : Link × Bool :=
  if l.state = .down then (l, false)
  else if l.notices.any (fun y => decide (y.row = x.row)) then
    if l.resyncFlag = false ∧ headIsFor l.notices x.row = true ∧ 0 < l.sendCount then
      ({ l with notices := mergeNotice x l.notices, sendCount := 0, timer := .stopped }, false)
    else ({ l with notices := mergeNotice x l.notices }, false)
  else if l.notices.length < Config.noticesMax then ({ l with notices := l.notices ++ [x] }, false)
  else (l.setResync, true)

/-- The postings of one switch taken in the order given, each a link and a notice; the links that overflowed are collected,
ascending (R97, R146). -/
def State.takePostings : List (Nat × Notice) → List Nat → State → State × List Nat
  | [], flooded, s => (s, flooded)
  | (n, x) :: ps, flooded, s =>
    let r := (s.link n).takePosting x
    State.takePostings ps (if r.2 then watchAdd n flooded else flooded) (s.putLink n r.1)

/-- NOTICE_OVERFLOW raised for the links that overflowed in one event (R147). With several, the one whose number stays as the
cause detail is a free value among them (log 12). -/
def State.raiseOverflows (flooded : List Nat) (s : State) : State :=
  match flooded with
  | [] => s
  | [n] => s.raise (.noticeOverflow n)
  | n :: ms =>
    (s.raise (.noticeOverflow ((n :: ms).getD (Config.overflowPick s.freeTick % (n :: ms).length) n))).setFreeTick
      (s.freeTick + 1)

/-- A counter of 16 bits that stays at its largest value (R103). -/
def bump16 (x : Nat) : Nat := if x < Config.maxU16 then x + 1 else x

/-- A stray acknowledgement is counted (R152). -/
def Link.countStray (l : Link) : Link := { l with errors := { l.errors with stray := bump16 l.errors.stray } }

/-- A REFUSAL whose transmission ended is counted (R121). -/
def Link.countRefusal (l : Link) : Link := { l with errors := { l.errors with refusals := bump16 l.errors.refusals } }

/-- An ACK_NOTICE on an UP link (R152). -/
def Link.ackNotice (l : Link) (row epoch : Nat) : Link :=
  match l.notices with
  | [] => l.countStray
  | y :: ys =>
    if l.resyncFlag = false ∧ y.row = row ∧ y.epoch = epoch then
      { l with notices := ys, sendCount := 0, timer := .stopped }
    else l.countStray

/-- An ACK_RESYNC on an UP link (R153). -/
def Link.ackResync (l : Link) (number : Nat) : Link :=
  if l.resyncFlag = true ∧ l.resyncNumber = number then
    { l with resyncFlag := false, sendCount := 0, timer := .stopped }
  else l.countStray

/-- The link controller's part of the end of a NOTICE's transmission (R149). -/
def Link.noticeEnded (l : Link) (x : Notice) (interval : Nat) : Link :=
  if l.resyncFlag = false ∧ l.notices.head? = some x then
    { l with sendCount := l.sendCount + 1, timer := .running interval }
  else l

/-- The link controller's part of the end of a RESYNC's transmission (R149). -/
def Link.resyncEnded (l : Link) (number : Nat) (interval : Nat) : Link :=
  if l.resyncFlag = true ∧ l.resyncNumber = number then
    { l with sendCount := l.sendCount + 1, timer := .running interval }
  else l

/-- The resync flag set on every UP or QUIET link, as CLEAR_ALL and RESTORE_DONE do (R123, R155). -/
def State.resyncUpLinks (s : State) : State :=
  State.forEach (fun n s => if (s.link n).state = .down then s else s.putLink n (s.link n).setResync) allLinks s

end Sys2Proof.Machine
end

