-- ==== Sys2Proof/Machine/Links.lean ====
section
/-! DEFINITION. Board links (chapter 6): the transmitter, link reset, the receiver, admission; and the commands of the table
that are link events. -/

namespace Sys2Proof.Machine

/-! ### The transmitter (6.6) -/

/-- A body with nothing in it; stands where an owned copy's body would be absent, which no reachable state has (R28, log 27). -/
def Body.none : Body :=
  { pedestal := 0, threshold := 0, gain := .low, enabled := false, profile := .none, group := 0, trims := [] }

/-- A span with nothing in it; stands where a row's span would be absent (R2, log 27). -/
def Span.none : Span := { first := 0, count := 0 }

/-- The span of row `r`. -/
def State.spanOf (s : State) (r : Nat) : Span := (s.row r).span.getD Span.none

/-- The body of copy `c`. -/
def State.bodyOf (s : State) (c : Nat) : Body := (s.copy c).body.getD Body.none

/-- The contents of a RECORD for a channel and optional probe code, bound to copy `c` and epoch `e` (R132). -/
def State.recordOf (s : State) (channel : Nat) (probe : Option Nat) (c e : Nat) : Record :=
  let r := orZero (s.copy c).owner
  let sp := s.spanOf r
  let b := s.bodyOf c
  { channel := channel, epoch := e, row := r, span := sp, activated := orZero (s.copy c).activated
    effective := b.effective sp.first channel, body := b, probe := s.probeOutcome b sp.first channel probe }

/-- The contents of a PROFILE for slot `k` from point index `i`, bound to epoch `e` (R135). -/
def State.profilePartOf (s : State) (k i e : Nat) : ProfilePart :=
  { slot := k, epoch := e, activated := orZero (s.slot k).activated, pointCount := (s.pointsOf k).length
    firstIndex := i, points := ((s.pointsOf k).drop i).take 8 }

/-- The channel and probe code of a request. -/
def Ask.fetchArgs : Ask → Nat × Option Nat
  | .fetch ch p => (ch.toNat, p.map BitVec.toNat)
  | .fetchProfile _ _ => (0, none)
  | .watch ch => (ch.toNat, none)
  | .unwatch _ => (0, none)

/-- The first point index of a request. -/
def Ask.firstIndex : Ask → Nat
  | .fetchProfile _ i => i.toNat
  | .fetch _ _ => 0
  | .watch _ => 0
  | .unwatch _ => 0

/-- The frame contents that a TAKEN request's decided answer has when its transmission begins (R118). -/
def State.answerContent (s : State) (q : Request) : Content :=
  let e := orZero q.boundEpoch
  match q.answer with
  | some .record => .record (s.recordOf q.ask.fetchArgs.1 q.ask.fetchArgs.2 (orZero q.boundCopy) e)
  | some .profile => .profile (s.profilePartOf (orZero q.boundSlot) q.ask.firstIndex e)
  | some (.watching w) => .watching w e
  | some (.unwatched u) => .unwatched u
  | some (.refusal r) => .refusal r e false
  | none => .refusal .badRequest e false

/-- The oldest TAKEN request becomes SENDING (R119). -/
def markSending : List Request → List Request
  | [] => []
  | q :: qs => if q.stage = .taken then { q with stage := .sending } :: qs else q :: markSending qs

/-- The frame that an idle transmitter of link `n` begins, by rank, with the link as the beginning leaves it (R119). -/
def State.nextFrame (s : State) (n : Nat) : Option (TxFrame × Link) :=
  let l := s.link n
  match l.welcome with
  | some tag => some ({ tag := tag, content := .welcome n s.epoch s.opState, position := 0 }, l)
  | none =>
    if l.state = .up ∧ l.resyncFlag = true ∧ l.due = true then
      some ({ tag := 0#2, content := .resync l.resyncNumber s.epoch l.watchCount, position := 0 }, l)
    else
      match (if l.state = .up ∧ l.resyncFlag = false ∧ l.due = true then l.notices.head? else none) with
      | some x => some ({ tag := 0#2, content := .notice x, position := 0 }, l)
      | none =>
        match l.requests.find? (fun q => decide (q.stage = .taken)) with
        | some q =>
          some ({ tag := q.tag, content := s.answerContent q, position := 0 },
            { l with requests := markSending l.requests })
        | none =>
          match l.prompts.head? with
          | some p => some ({ tag := p.tag, content := .refusal p.reason s.epoch true, position := 0 }, l)
          | none => none

/-- A frame boundary of link `n`: an idle transmitter begins the first eligible frame (R118, R119, log 26). -/
def State.kick (n : Nat) (s : State) : State :=
  if (s.link n).tx = none then
    match s.nextFrame n with
    | some (f, l) => s.putLink n { l with tx := some f }
    | none => s
  else s

/-- A frame boundary of every link whose transmitter is idle. -/
def State.kickAll (s : State) : State := State.forEach State.kick allLinks s

/-- The transmitter of link `n` is idle again, and chooses (R121). -/
def State.frameEnds (n : Nat) (s : State) : State := State.kick n (s.putLink n { s.link n with tx := none })

/-- One word of the frame in progress has gone out (R118, log 6). -/
def TxFrame.advance (f : TxFrame) : TxFrame :=
  { f with position := if f.position < f.wireWords.length then f.position + 1 else f.position }

/-- One word time on a link (log 6). -/
def Link.advance (l : Link) : Link := { l with tx := l.tx.map TxFrame.advance }

/-! ### Link reset (6.5) -/

/-- What a request holds is given up: its fetch pin (R36) and its reader count (R53). A WAITING request holds nothing. -/
def State.releaseRequest (q : Request) (s : State) : State :=
  let t := match q.boundCopy with
    | some c => s.dropFetchPin c
    | none => s
  match q.boundSlot with
  | some k => t.dropReader k
  | none => t

/-- Requests given up in queue order (R138). -/
def State.releaseRequests : List Request → State → State
  | [], s => s
  | q :: qs, s => State.releaseRequests qs (s.releaseRequest q)

/-- A link controller after link reset (R114). -/
def Link.afterReset (l : Link) : Link :=
  { l with state := .down, rx := .outside, badCount := 0, welcome := none, prompts := [], requests := [], notices := []
           sendCount := 0, timer := .stopped, resyncFlag := false, watchCount := 0, tx := none }

/-- Link reset of link `n`, but for the LINK_DOWN event (R114). -/
def State.resetLink (n : Nat) (s : State) : State :=
  let t := State.releaseRequests (s.link n).requests (s.leaveWatchSets n)
  t.putLink n (t.link n).afterReset

/-- Link reset that leaves the link DOWN; LINK_DOWN is raised if it was UP or QUIET (R114). -/
def State.resetLinkDown (n : Nat) (s : State) : State :=
  if (s.link n).state = .down then s.resetLink n else (s.resetLink n).raise (.linkDown n)

/-! ### Bad frames (R108) -/

/-- The errors a bad frame is counted under (R108). -/
inductive FrameError where
  | parity | framing | check | kind
  deriving DecidableEq, Repr

/-- One error counter raised, saturating (R103, R108). -/
def ErrorCounters.count (e : ErrorCounters) : FrameError → ErrorCounters
  | .parity => { e with parity := bump16 e.parity }
  | .framing => { e with framing := bump16 e.framing }
  | .check => { e with check := bump16 e.check }
  | .kind => { e with kind := bump16 e.kind }

/-- A bad frame, found after the receiver's move to `rx`: counted once, and at the eighth in a row on an UP or QUIET link
the link resets (R108). -/
def State.badFrame (e : FrameError) (rx : Receiver) (n : Nat) (s : State) : State :=
  let l := s.link n
  let t := s.putLink n { l with rx := rx, errors := l.errors.count e
                                badCount := if l.badCount < Config.badFrameLimit then l.badCount + 1 else l.badCount }
  if l.state ≠ .down ∧ Config.badFrameLimit ≤ l.badCount + 1 then t.resetLinkDown n else t

/-! ### Good frames (R109) -/

/-- A board-to-part frame that has passed every check (R107). -/
inductive BoardFrame where
  | hello (level : Nat)
  | ask (a : Ask)
  | ackNotice (row epoch : Nat)
  | ackResync (number : Nat)
  deriving DecidableEq, Repr

/-- An item joins the prompt refusal list, or is lost when the list is full (R120). -/
def Link.addPrompt (l : Link) (tag : Tag) (r : Reason) : Link :=
  if l.prompts.length < Config.promptsMax then { l with prompts := l.prompts ++ [{ tag := tag, reason := r }] } else l

/-- A HELLO on a link that is DOWN, or has just been reset (R110). -/
def State.answerHello (n : Nat) (tag : Tag) (level : Nat) (s : State) : State :=
  if level = 1 then
    (s.putLink n { (s.link n).setResync with state := .up, welcome := some tag }).raise (.linkUp n)
  else s.putLink n ((s.link n).addPrompt tag .badRequest)

/-- A good HELLO (R110, R111). -/
def State.takeHello (n : Nat) (tag : Tag) (level : Nat) (s : State) : State :=
  if (s.link n).state = .down then s.answerHello n tag level
  else if level = 1 then (s.resetLink n).answerHello n tag level
  else ((s.resetLink n).raise (.linkDown n)).answerHello n tag level

/-- A request frame arrives at the request queue (R125). -/
def Link.arrive (l : Link) (tag : Tag) (a : Ask) : Link :=
  if l.requests.length < Config.requestsMax then
    { l with requests := l.requests ++ [{ tag := tag, ask := a, stage := .waiting, boundEpoch := none, answer := none
                                          boundCopy := none, boundSlot := none }] }
  else l.addPrompt tag .queueFull

/-- A QUIET link returns to UP by a good frame other than HELLO (R113). -/
def Link.returnUp (l : Link) : Link := if l.state = .quiet then { l.setResync with state := .up } else l

/-- A good frame other than HELLO is handed on (R109); on a QUIET link it first returns the link to UP (R113). An ACK_RESYNC that
brings a link out of QUIET never matches, whatever number it carries, so it is stray (R153). -/
def Link.handOn (l : Link) (tag : Tag) : BoardFrame → Link
  | .hello _ => l
  | .ask a => if l.state = .down then l else l.returnUp.arrive tag a
  | .ackNotice r e => if l.state = .down then l else l.returnUp.ackNotice r e
  | .ackResync k =>
    match l.state with
    | .down => l
    | .quiet => l.returnUp.countStray
    | .up => l.ackResync k

/-- A good frame closes on link `n`: the receiver goes OUTSIDE, the consecutive bad frame count becomes 0, and the frame is
handed on (R107, R108, R109). -/
def State.goodFrame (n : Nat) (tag : Tag) (f : BoardFrame) (s : State) : State :=
  let t := s.putLink n { s.link n with rx := .outside, badCount := 0 }
  State.kick n (match f with
    | .hello level => t.takeHello n tag level
    | .ask a => t.putLink n ((t.link n).handOn tag (.ask a))
    | .ackNotice r e => t.putLink n ((t.link n).handOn tag (.ackNotice r e))
    | .ackResync k => t.putLink n ((t.link n).handOn tag (.ackResync k)))

/-- A good frame as a command of the table: taken only while the receiver is locked (R104, R115, log 4). -/
def State.receiveFrame (n : Nat) (tag : Tag) (f : BoardFrame) (s : State) : State :=
  if (s.link n).locked then s.goodFrame n tag f else s

/-! ### The receiver (R106, R107) -/

/-- Body word `i` of a frame. -/
def halfAt (body : List Half) (i : Nat) : Half := body.getD i 0#16

/-- The frame that a kind and a body of a permitted length spell (11.2). -/
def frameOf (k : BoardKind) (body : List Half) : BoardFrame :=
  match k with
  | .hello => .hello (halfAt body 0).toNat
  | .fetch => .ask (.fetch (halfAt body 0) (if body.length = 2 then some (halfAt body 1) else none))
  | .fetchProfile => .ask (.fetchProfile (halfAt body 0) (halfAt body 1))
  | .watch => .ask (.watch (halfAt body 0))
  | .unwatch => .ask (.unwatch (halfAt body 0))
  | .ackNotice => .ackNotice (halfAt body 0).toNat ((halfAt body 1).toNat * 65536 + (halfAt body 2).toNat)
  | .ackResync => .ackResync (halfAt body 0).toNat

/-- The checks on a frame that a TAIL closes: the error of the first that fails, or the good frame (R107). -/
def RxFrame.checked (f : RxFrame) (tail : Half) : FrameError ⊕ BoardFrame :=
  if f.received ≠ headLength f.head then .inl .check
  else if crc16 (f.head :: f.kept) ≠ tail then .inl .check
  else match BoardKind.ofCode (headKind f.head) with
    | none => .inl .kind
    | some k =>
      if headReserved f.head ≠ 0 then .inl .kind
      else if k.permits (headLength f.head) = false then .inl .kind
      else .inr (frameOf k f.kept)

/-- A BODY word inside a frame: counted, and kept if fewer than 30 have been (R106). -/
def RxFrame.addBody (f : RxFrame) (d : Half) : RxFrame :=
  { f with kept := if f.kept.length < 30 then f.kept ++ [d] else f.kept, received := f.received + 1 }

/-- A frame begins with a HEAD (R106). -/
def Receiver.begun (d : Half) : Receiver := .inFrame { head := d, kept := [], received := 0 }

/-- The receiver's move with the bad frame counted, if the word found one. -/
def State.moveTo (rx : Receiver) (n : Nat) (s : State) : State := s.putLink n { s.link n with rx := rx }

/-- A word with bad parity (R106). -/
def State.badWord (n : Nat) (s : State) : State :=
  match (s.link n).rx with
  | .outside => s.badFrame .parity .discarding n
  | .inFrame _ => s.badFrame .parity .discarding n
  | .discarding => s

/-- A HEAD word (R106). -/
def State.headWord (d : Half) (n : Nat) (s : State) : State :=
  match (s.link n).rx with
  | .outside => s.moveTo (Receiver.begun d) n
  | .inFrame _ => s.badFrame .framing (Receiver.begun d) n
  | .discarding => s.moveTo (Receiver.begun d) n

/-- A BODY word (R106). -/
def State.bodyWord (d : Half) (n : Nat) (s : State) : State :=
  match (s.link n).rx with
  | .outside => s.badFrame .framing .discarding n
  | .inFrame f => s.moveTo (.inFrame (f.addBody d)) n
  | .discarding => s

/-- A TAIL word (R106, R107). -/
def State.tailWord (d : Half) (n : Nat) (s : State) : State :=
  match (s.link n).rx with
  | .outside => s.badFrame .framing .outside n
  | .inFrame f =>
    match f.checked d with
    | .inl e => s.badFrame e .outside n
    | .inr g => s.goodFrame n (headTag f.head) g
  | .discarding => s.moveTo .outside n

/-- A link word at a locked receiver (R104, R106, R197). -/
def State.receiveWord (w : WireWord) (n : Nat) (s : State) : State :=
  if parityGood w = false then s.badWord n
  else match wireMarker w with
    | .idle => s
    | .head => s.headWord (wireData w) n
    | .body => s.bodyWord (wireData w) n
    | .tail => s.tailWord (wireData w) n

/-! ### The commands of the table -/

/-- LINK_WORD (R106): no words are taken while the receiver is unlocked (R115). -/
def execLinkWord (n : LinkId) (w : WireWord) (s : State) : Host.Outcome State Fault Refusal :=
  .next (if (s.link n).locked then s.receiveWord w n else s)

/-- RECEIVER_LOCK_GAINED (R115). -/
def execReceiverLockGained (n : LinkId) (s : State) : Host.Outcome State Fault Refusal :=
  .next (if (s.link n).locked then s else s.putLink n { s.link n with locked := true, rx := .outside })

/-- The receiver's own part of a loss of lock, and the link reset it is on an UP or QUIET link (R115). -/
def State.loseLock (n : Nat) (s : State) : State :=
  let t := s.putLink n { s.link n with locked := false, rx := .outside }
  if (s.link n).state = .down then t else t.resetLinkDown n

/-- RECEIVER_LOCK_LOST (R115). -/
def execReceiverLockLost (n : LinkId) (s : State) : Host.Outcome State Fault Refusal :=
  .next (if (s.link n).locked then s.loseLock n else s)

/-- HELLO (R110, R111). -/
def execHello (n : LinkId) (tag : Tag) (level : Half) (s : State) : Host.Outcome State Fault Refusal :=
  .next (s.receiveFrame n tag (.hello level.toNat))

/-- FETCH (R125). -/
def execFetch (n : LinkId) (tag : Tag) (channel : Half) (probe : Option Half) (s : State) :
    Host.Outcome State Fault Refusal :=
  .next (s.receiveFrame n tag (.ask (.fetch channel probe)))

/-- FETCH_PROFILE (R125). -/
def execFetchProfile (n : LinkId) (tag : Tag) (slot first : Half) (s : State) : Host.Outcome State Fault Refusal :=
  .next (s.receiveFrame n tag (.ask (.fetchProfile slot first)))

/-- WATCH (R125). -/
def execWatch (n : LinkId) (tag : Tag) (channel : Half) (s : State) : Host.Outcome State Fault Refusal :=
  .next (s.receiveFrame n tag (.ask (.watch channel)))

/-- UNWATCH (R125). -/
def execUnwatch (n : LinkId) (tag : Tag) (row : Half) (s : State) : Host.Outcome State Fault Refusal :=
  .next (s.receiveFrame n tag (.ask (.unwatch row)))

/-- ACK_NOTICE (R152). The frame's tag is not used. -/
def execAckNotice (n : LinkId) (row : Half) (epoch : Word) (s : State) : Host.Outcome State Fault Refusal :=
  .next (s.receiveFrame n 0#2 (.ackNotice row.toNat epoch.toNat))

/-- ACK_RESYNC (R153). The frame's tag is not used. -/
def execAckResync (n : LinkId) (number : Half) (s : State) : Host.Outcome State Fault Refusal :=
  .next (s.receiveFrame n 0#2 (.ackResync number.toNat))

/-- What the transmitter of link `n` is sending. -/
def State.sendingOn (s : State) (n : Nat) : Option Content := (s.link n).tx.map TxFrame.content

/-- WELCOME_END (R112, R121). -/
def execWelcomeEnd (n : LinkId) (s : State) : Host.Outcome State Fault Refusal :=
  .next (match s.sendingOn n with
    | some (.welcome _ _ _) => (s.putLink n { s.link n with welcome := none }).frameEnds n
    | _ => s)

/-- The frame answers a request of the queue (R121). -/
def Content.isAnswer : Content → Bool
  | .record _ => true
  | .profile _ => true
  | .watching _ _ => true
  | .unwatched _ => true
  | .refusal _ _ prompt => !prompt
  | .welcome _ _ _ => false
  | .notice _ => false
  | .resync _ _ _ => false

/-- The frame is a REFUSAL (R121). -/
def Content.isRefusal : Content → Bool
  | .refusal _ _ _ => true
  | .record _ => false
  | .profile _ => false
  | .watching _ _ => false
  | .unwatched _ => false
  | .welcome _ _ _ => false
  | .notice _ => false
  | .resync _ _ _ => false

/-- The queue without its SENDING request. -/
def dropSending : List Request → List Request
  | [] => []
  | q :: qs => if q.stage = .sending then qs else q :: dropSending qs

/-- The refusals sent counter rises if the frame that ended is a REFUSAL (R121, R137). -/
def Link.endCount (l : Link) (c : Content) : Link := if c.isRefusal then l.countRefusal else l

/-- The answered request leaves the queue and gives up what it holds (R137). -/
def State.completeRequest (n : Nat) (s : State) : State :=
  match (s.link n).requests.find? (fun q => decide (q.stage = .sending)) with
  | some q => (s.putLink n { s.link n with requests := dropSending (s.link n).requests }).releaseRequest q
  | none => s

/-- The end of an answer's transmission (R137). -/
def State.answerEnds (n : Nat) (c : Content) (s : State) : State :=
  let t := s.completeRequest n
  (t.putLink n ((t.link n).endCount c)).frameEnds n

/-- ANSWER_END (R137, R121). -/
def execAnswerEnd (n : LinkId) (s : State) : Host.Outcome State Fault Refusal :=
  .next (match s.sendingOn n with
    | some c => if c.isAnswer then s.answerEnds n c else s
    | none => s)

/-- PROMPT_REFUSAL_END (R120, R121). -/
def execPromptRefusalEnd (n : LinkId) (s : State) : Host.Outcome State Fault Refusal :=
  .next (match s.sendingOn n with
    | some (.refusal _ _ true) =>
      (s.putLink n { (s.link n).countRefusal with prompts := (s.link n).prompts.drop 1 }).frameEnds n
    | _ => s)

/-- NOTICE_END (R149). -/
def execNoticeEnd (n : LinkId) (s : State) : Host.Outcome State Fault Refusal :=
  .next (match s.sendingOn n with
    | some (.notice x) => (s.putLink n ((s.link n).noticeEnded x s.params.resendInterval)).frameEnds n
    | _ => s)

/-- RESYNC_END (R149). -/
def execResyncEnd (n : LinkId) (s : State) : Host.Outcome State Fault Refusal :=
  .next (match s.sendingOn n with
    | some (.resync k _ _) => (s.putLink n ((s.link n).resyncEnded k s.params.resendInterval)).frameEnds n
    | _ => s)

/-- The expiry of a running resend timer (R150, R113). -/
def State.timerRunsOut (n : Nat) (s : State) : State :=
  let l := s.link n
  if l.sendCount < Config.sendLimit then State.kick n (s.putLink n { l with timer := .runOut })
  else if l.state = .up then (s.putLink n { l with timer := .runOut, state := .quiet }).raise (.linkQuiet n)
  else s.putLink n { l with timer := .runOut }

/-- RESEND_TIMER_EXPIRY (R150). A timer that is not running does not expire. -/
def execResendTimerExpiry (n : LinkId) (s : State) : Host.Outcome State Fault Refusal :=
  .next (match (s.link n).timer with
    | .running _ => s.timerRunsOut n
    | .stopped => s
    | .runOut => s)

end Sys2Proof.Machine
end

