-- ==== Sys2Proof/Machine/Intake.lean ====
section
/-! DEFINITION. Command intake (10.2): the words of a command FIFO as commands, the checks of form, room for the response, and
the placing of responses. -/

namespace Sys2Proof.Machine

/-- What a command answers: its result code and data words (R183). -/
structure Reply where
  code : Code
  data : List Word
  deriving DecidableEq, Repr

/-- A reply without data. -/
def Reply.bare (c : Code) : Reply := { code := c, data := [] }

/-- The header word of a command (R180). -/
def QueuedCommand.header (q : QueuedCommand) : Word := q.words.getD 0 0#32

/-- The argument words that have come (R180). -/
def QueuedCommand.args (q : QueuedCommand) : List Word := q.words.drop 1

/-- The command a header names, if any. -/
def QueuedCommand.kind (q : QueuedCommand) : Option CmdKind := CmdKind.ofCode (headerKind q.header)

/-- Every word the header declares has come (R181). -/
def QueuedCommand.whole (q : QueuedCommand) : Bool := decide (headerCount q.header ≤ q.words.length)

/-- The command still waits for words of its own (R184). -/
def QueuedCommand.incomplete (q : QueuedCommand) : Bool := !q.cut && !q.whole

/-- The command may be taken, room apart: whole, or cut and let go by a resynchronise request (R181, R184, R185, log 16). -/
def QueuedCommand.ready (q : QueuedCommand) : Bool := if q.cut then q.released else q.whole

/-- Argument word `i`. -/
def argAt (args : List Word) (i : Nat) : Word := args.getD i 0#32

/-- The word count is one that the kind permits, and agrees with the number of items an argument gives (R182 step 2, 11.4). -/
def lengthOk (k : CmdKind) (args : List Word) : Bool :=
  match k with
  | .insert => decide (args.length = 3 + trimCountOfWordB (argAt args 2))
  | .amend =>
    decide (args.length = 3 + if selectsTrims (argAt args 0) then trimCountOfWordB (argAt args 2) else 0)
  | .defineProfile => decide (args.length = 1 + bitsAt (argAt args 0) 16 8)
  | .query => decide (args.length = 1) || decide (args.length = 2)
  | .readRow | .readCopy | .readProfile | .listSpans | .linkStatus | .retire | .retireGroup | .dropProfile
  | .sealSession | .resetLink | .setParam => decide (args.length = 1)
  | .readStatus | .openEdit | .abandon | .touch | .switch | .withdraw | .save | .abortSave | .restore | .startEmpty
  | .hold | .resume | .clearAll => decide (args.length = 0)

/-- The number a one-argument command names, in bits 15 to 0 (11.4). -/
def namedBy (args : List Word) : Nat := bitsAt (argAt args 0) 0 16

/-- The value is in the range of the parameter the selector names (R193). -/
def paramOk (selector value : Nat) : Bool :=
  match selector with
  | 1 => decide (1 ≤ value) && decide (value ≤ 255)
  | 2 => decide (1 ≤ value) && decide (value ≤ 16)
  | 3 => decide (value ≤ Config.copies)
  | 4 => decide (value ≤ 1)
  | _ => false

/-- The arguments checked for range at form step 3 are in range (R182). -/
def rangeOk (k : CmdKind) (args : List Word) : Bool :=
  match k with
  | .readRow | .amend | .retire => decide (namedBy args < Config.rows)
  | .readCopy => decide (namedBy args < Config.copies)
  | .readProfile | .defineProfile | .dropProfile => decide (namedBy args < Config.slots)
  | .linkStatus | .resetLink => decide (namedBy args < Config.links)
  | .listSpans => decide (namedBy args < Config.channels)
  | .query =>
    decide (namedBy args < Config.channels) && (decide (args.length = 1) || decide (bitsAt (argAt args 1) 0 16 ≤ 4095))
  | .sealSession => decide ((argAt args 0).toNat ≤ 1)
  | .setParam => paramOk (bitsAt (argAt args 0) 24 8) (bitsAt (argAt args 0) 0 16)
  | .readStatus | .openEdit | .insert | .retireGroup | .abandon | .touch | .switch | .withdraw | .save | .abortSave
  | .restore | .startEmpty | .hold | .resume | .clearAll => true

/-- The refusal of the first form check that a command taken fails, if any (R182). -/
def QueuedCommand.formError (q : QueuedCommand) : Option Code :=
  match q.kind with
  | none => some .badCommand
  | some k =>
    if q.cut = true ∨ q.words.length ≠ headerCount q.header ∨ lengthOk k q.args = false then some .badLength
    else if rangeOk k q.args = false then some .badField
    else none

/-- The words the largest response to a command takes: one for a kind the part does not know (R181). -/
def QueuedCommand.roomNeeded (q : QueuedCommand) : Nat :=
  match q.kind with
  | none => 1
  | some k => 1 + k.maxData

/-- The response FIFO has room for the command's largest response (R181). -/
def PortState.hasRoom (x : PortState) (q : QueuedCommand) : Bool :=
  decide (x.responses.length + q.roomNeeded ≤ Config.fifoWords)

/-- The number of words in a command FIFO (R177). -/
def PortState.wordCount (x : PortState) : Nat := (x.commands.map (fun q => q.words.length)).sum

/-- The response is placed whole behind those already there (R183). -/
def State.respond (p : Port) (seq : Half) (r : Reply) (s : State) : State :=
  s.putPort p { s.port p with
    responses := (s.port p).responses ++ responseHeader r.code seq r.data.length :: r.data }

/-- The front command's words leave the command FIFO (R181). -/
def State.popCommand (p : Port) (s : State) : State :=
  s.putPort p { s.port p with commands := (s.port p).commands.drop 1 }

/-- The command at the front of a port is a QUERY that has passed its checks of form and has room: the port offers it to the
lookup engine (R127, R181). -/
def State.portOffers (s : State) (p : Port) : Option QueuedCommand :=
  match (s.port p).commands.head? with
  | none => none
  | some q =>
    if q.kind = some .query ∧ q.ready = true ∧ (s.port p).hasRoom q = true ∧ q.formError = none then some q else none

end Sys2Proof.Machine
end

