-- ==== Sys2Proof/Machine/Fetch.lean ====
section
/-! DEFINITION. The lookup engine and what it decides (chapters 7 and 8.1): selection in rotation, the gate, FETCH, FETCH_PROFILE,
WATCH, UNWATCH, and the response of QUERY. -/

namespace Sys2Proof.Machine

/-- The request that link `n` offers: the WAITING request nearest the head (R127). -/
def State.linkOffer (s : State) (n : Nat) : Option Request :=
  (s.link n).requests.find? (fun q => decide (q.stage = .waiting))

/-- The port that is requester 12 or 13 (R127). -/
def requesterPort (k : Nat) : Port := if k = 12 then .host else .service

/-- Requester `k` offers something (R127). -/
def State.offers (s : State) (k : Nat) : Bool :=
  if k < Config.links then (s.linkOffer k).isSome else (s.portOffers (requesterPort k)).isSome

/-- The requester the engine takes next: the first that offers, in cyclic order from the pointer (R128). -/
def State.selected (s : State) : Option Nat :=
  (lowestFrom (fun j => s.offers ((s.engine + j) % Config.requesters)) Config.requesters 0).map
    (fun j => (s.engine + j) % Config.requesters)

/-- The pointer after requester `k` was taken (R128). -/
def State.passEngine (k : Nat) (s : State) : State := s.setEngine ((k + 1) % Config.requesters)

/-- Another request of the link with the tag stands nearer the head than the request offered (R131 step 1). -/
def State.tagInUse (s : State) (n : Nat) (tag : Tag) : Bool :=
  ((s.link n).requests.takeWhile (fun q => decide (q.stage ≠ .waiting))).any (fun q => decide (q.tag = tag))

/-- The gate of the operating state: the reason it refuses a FETCH, FETCH_PROFILE or WATCH with, if any (R130). -/
def OpState.gate : OpState → Option Reason
  | .serving => none
  | .held => some .held
  | .cold => some .notReady
  | .restoring => some .notReady

/-- What the engine decides for a request: the answer, the copy it pins, the slot it reads (R129). -/
structure Decision where
  answer : Answer
  copy : Option Nat
  slot : Option Nat
  deriving DecidableEq, Repr

/-- A refusal decided at taking (R129). -/
def Decision.refuse (r : Reason) : Decision := { answer := .refusal r, copy := none, slot := none }

/-- The probe code is absent or in range (R131). -/
def probeInRange (p : Option Half) : Bool :=
  match p with
  | none => true
  | some p => decide (p.toNat ≤ 4095)

/-- A FETCH at its taking (R130, R131). -/
def State.decideFetch (s : State) (n : Nat) (tag : Tag) (ch : Half) (probe : Option Half) : Decision :=
  match s.opState.gate with
  | some r => .refuse r
  | none =>
    if Config.channels ≤ ch.toNat ∨ probeInRange probe = false ∨ s.tagInUse n tag = true then .refuse .badRequest
    else match s.lookup ch.toNat s.epoch with
      | none => .refuse .notFound
      | some r => { answer := .record, copy := (s.row r).live, slot := none }

/-- A FETCH_PROFILE at its taking (R130, R134). -/
def State.decideFetchProfile (s : State) (n : Nat) (tag : Tag) (slot first : Half) : Decision :=
  match s.opState.gate with
  | some r => .refuse r
  | none =>
    if Config.slots ≤ slot.toNat ∨ 16 < first.toNat ∨ s.tagInUse n tag = true then .refuse .badRequest
    else if (s.slot slot.toNat).state ≠ .active then .refuse .unknownProfile
    else { answer := .profile, copy := none, slot := some slot.toNat }

/-- The checks of a WATCH: the row it will watch, or the reason it is refused with (R130, R142). -/
def State.checkWatch (s : State) (n : Nat) (tag : Tag) (ch : Half) : Reason ⊕ Nat :=
  match s.opState.gate with
  | some r => .inl r
  | none =>
    if Config.channels ≤ ch.toNat ∨ s.tagInUse n tag = true then .inl .badRequest
    else match s.lookup ch.toNat s.epoch with
      | none => .inl .notFound
      | some r =>
        if (s.row r).watch.contains n = false ∧ Config.watchMax ≤ (s.link n).watchCount then .inl .watchLimit else .inr r

/-- Link `n` is added to the watch set of row `r`, and its watch count rises, unless it is there already (R20, R142). -/
def State.addWatch (n r : Nat) (s : State) : State :=
  if (s.row r).watch.contains n then s
  else (s.putRow r { s.row r with watch := watchAdd n (s.row r).watch }).putLink n
    { s.link n with watchCount := (s.link n).watchCount + 1 }

/-- The row has a watch set that UNWATCH can change: it is LIVE or DYING (R20). -/
def Row.watchable (x : Row) : Bool := decide (x.phase = .live) || decide (x.phase = .dying)

/-- Link `n` is in the watch set of row `r`, which is LIVE or DYING (R20, R143). -/
def State.watches (s : State) (n r : Nat) : Bool := (s.row r).watchable && (s.row r).watch.contains n

/-- Link `n` is removed from the watch set of row `r`, and its watch count falls (R20, R143). -/
def State.removeWatch (n r : Nat) (s : State) : State :=
  if s.watches n r then
    State.watchFalls n (s.putRow r { s.row r with watch := (s.row r).watch.filter (fun m => decide (m ≠ n)) })
  else s

/-- The answer to a WATCH of row `r` by link `n` (R142). -/
def State.watchingAnswer (s : State) (n r : Nat) : Answer :=
  .watching { row := r, first := (s.spanOf r).first, count := (s.spanOf r).count
              activated := orZero (s.copy (orZero (s.row r).live)).activated
              already := (s.row r).watch.contains n
              watchCount := if (s.row r).watch.contains n then (s.link n).watchCount else (s.link n).watchCount + 1 }

/-- The answer to an UNWATCH of row `r` by link `n` (R143). -/
def State.unwatchedAnswer (s : State) (n r : Nat) : Answer :=
  .unwatched { row := r, notWatched := !s.watches n r
               watchCount := if s.watches n r then (s.link n).watchCount - 1 else (s.link n).watchCount }

/-- The first WAITING request becomes TAKEN with its decision and bound epoch (R129). -/
def markTaken (d : Decision) (e : Nat) : List Request → List Request
  | [] => []
  | q :: qs =>
    if q.stage = .waiting then
      { q with stage := .taken, boundEpoch := some e, answer := some d.answer, boundCopy := d.copy, boundSlot := d.slot } :: qs
    else q :: markTaken d e qs

/-- The pin and the reader count that a decision places (R129 step 4). -/
def State.placeHolds (d : Decision) (s : State) : State :=
  let t := match d.copy with
    | some c => s.addFetchPin c
    | none => s
  match d.slot with
  | some k => t.addReader k
  | none => t

/-- The decision is written into link `n`'s request, the pointer moves on, and the transmitter may begin the answer
(R128, R129, R118). -/
def State.takeRequest (n : Nat) (d : Decision) (s : State) : State :=
  let t := s.placeHolds d
  State.kick n ((t.putLink n { t.link n with requests := markTaken d s.epoch (t.link n).requests }).passEngine n)

/-- The link whose request the engine takes next, with that request; none if it takes nothing or a QUERY (R128). -/
def State.selectedLink (s : State) : Option (Nat × Request) :=
  match s.selected with
  | none => none
  | some k => if k < Config.links then (s.linkOffer k).map (fun q => (k, q)) else none

/-- FETCH_TAKEN (R131): a taking event in which the engine selects a FETCH (log 3). -/
def execFetchTaken (s : State) : Host.Outcome State Fault Refusal :=
  .next (match s.selectedLink with
    | some (n, q) => (match q.ask with
      | .fetch ch p => s.takeRequest n (s.decideFetch n q.tag ch p)
      | .fetchProfile _ _ => s
      | .watch _ => s
      | .unwatch _ => s)
    | none => s)

/-- FETCH_PROFILE_TAKEN (R134, log 3). -/
def execFetchProfileTaken (s : State) : Host.Outcome State Fault Refusal :=
  .next (match s.selectedLink with
    | some (n, q) => (match q.ask with
      | .fetchProfile k i => s.takeRequest n (s.decideFetchProfile n q.tag k i)
      | .fetch _ _ => s
      | .watch _ => s
      | .unwatch _ => s)
    | none => s)

/-- A WATCH at its taking (R142). -/
def State.takeWatch (n : Nat) (tag : Tag) (ch : Half) (s : State) : State :=
  match s.checkWatch n tag ch with
  | .inl r => s.takeRequest n (.refuse r)
  | .inr r => (s.addWatch n r).takeRequest n { answer := s.watchingAnswer n r, copy := none, slot := none }

/-- WATCH_TAKEN (R142, log 3). -/
def execWatchTaken (s : State) : Host.Outcome State Fault Refusal :=
  .next (match s.selectedLink with
    | some (n, q) => (match q.ask with
      | .watch ch => s.takeWatch n q.tag ch
      | .fetch _ _ => s
      | .fetchProfile _ _ => s
      | .unwatch _ => s)
    | none => s)

/-- An UNWATCH at its taking, in every operating state (R143). -/
def State.takeUnwatch (n : Nat) (tag : Tag) (row : Half) (s : State) : State :=
  if Config.rows ≤ row.toNat ∨ s.tagInUse n tag = true then s.takeRequest n (.refuse .badRequest)
  else (s.removeWatch n row.toNat).takeRequest n
    { answer := s.unwatchedAnswer n row.toNat, copy := none, slot := none }

/-- UNWATCH_TAKEN (R143, log 3). -/
def execUnwatchTaken (s : State) : Host.Outcome State Fault Refusal :=
  .next (match s.selectedLink with
    | some (n, q) => (match q.ask with
      | .unwatch r => s.takeUnwatch n q.tag r
      | .fetch _ _ => s
      | .fetchProfile _ _ => s
      | .watch _ => s)
    | none => s)

/-- The reply of a QUERY for a channel and optional probe code (R140, R141, 11.5). -/
def State.queryReply (s : State) (ch : Nat) (probe : Option Nat) : Reply :=
  match s.lookup ch s.epoch with
  | none => { code := .noRow, data := [numWord s.epoch] }
  | some r =>
    let c := orZero (s.row r).live
    let sp := s.spanOf r
    let b := s.bodyOf c
    let out := s.probeOutcome b sp.first ch probe
    { code := .done
      data := [numWord s.epoch, packWord [(r, 0), ((s.row r).phase.code, 16)], spanWord sp, numWord c,
        numWord (orZero (s.copy c).activated), packWord [(signed16 (b.effective sp.first ch), 0)], bodyWordA b, bodyWordB b,
        packWord [(out.code, 0), (signed16 out.field, 16)]] ++ b.trims.map trimWord }

/-- The probe code of a QUERY's argument words (11.5, log 18). -/
def queryProbe (args : List Word) : Option Nat :=
  if args.length = 2 then some (bitsAt (argAt args 1) 0 16) else none

end Sys2Proof.Machine
end

