-- ==== Sys2Proof/Machine/Edit.lean ====
section
/-! DEFINITION. The edit controller (chapter 4): what each edit command does and answers once its form is right, the end of a
session by abandonment, and the idle timer's expiry. -/

namespace Sys2Proof.Machine

/-- The change set of the open session; empty while none is open (R58). -/
def State.items (s : State) : List ChangeItem :=
  match s.session with
  | none => []
  | some x => x.items

/-- The change set replaced, in the open session. -/
def State.putItems (l : List ChangeItem) (s : State) : State :=
  match s.session with
  | none => s
  | some x => s.setSession (some { x with items := l })

/-- The number of items in the change set, as a data word (R84). -/
def State.itemCountWord (s : State) : Word := packWord [(s.items.length, 0)]

/-- An edit command from the owner port of the open session restarts the idle timer, whatever its result (R59, R75). -/
def State.restartTimer (p : Port) (s : State) : State :=
  match s.session with
  | none => s
  | some x => if x.owner = p then s.setSession (some { x with timer := s.params.editTimeout }) else s

/-- The refusal of an edit command other than OPEN_EDIT by the operating state or the lock, if any (R59 steps 2 and 3). -/
def State.editRefusal (s : State) (p : Port) : Option Code :=
  if s.opState = .cold ∨ s.opState = .restoring then some .notReady
  else match s.session with
    | none => some .noSession
    | some x => if x.owner = p then none else some .notOwner

/-- An edit command's own part, after the checks of operating state and lock (R59). -/
def State.guardEdit (p : Port) (act : State → State × Reply) (s : State) : State × Reply :=
  match s.editRefusal p with
  | some c => (s, .bare c)
  | none => act s

/-! ### OPEN_EDIT and TOUCH -/

/-- OPEN_EDIT (R59, R60). -/
def State.takeOpenEdit (p : Port) (s : State) : State × Reply :=
  if s.opState = .cold ∨ s.opState = .restoring then (s, .bare .notReady)
  else match s.session with
    | none => (s.setSession (some { owner := p, timer := s.params.editTimeout, items := [] }), .bare .done)
    | some x => if x.owner = p then (s, .bare .sessionOpen) else (s, .bare .editHeld)

/-- TOUCH (R80); the restart is R59's. -/
def State.takeTouch (p : Port) (s : State) : State × Reply :=
  s.guardEdit p (fun s => (s, { code := .done, data := [s.itemCountWord] }))

/-! ### INSERT -/

/-- A NEW_DRAFT row with its span and draft (R11). -/
def Row.newDraft (sp : Span) (c : Nat) : Row := { Row.free with phase := .newDraft, span := some sp, draft := some c }

/-- A DRAFT copy of row `r` (R30). -/
def Copy.newDraft (r : Nat) (base : Option Nat) (b : Body) : Copy :=
  { Copy.free with state := .draft, owner := some r, base := base, body := some b }

/-- The refusal of INSERT by its steps 1 to 4, if any (R64). -/
def State.insertRefusal (s : State) (sp : Span) (b : Body) : Option Code :=
  if sp.valid = false then some .badSpan
  else if s.bodyValid sp.count b = false then some .badField
  else if s.overlapFound s.items sp then some .spanOverlap
  else if Config.changeMax ≤ s.items.length then some .setFull
  else none

/-- Row `r` and copy `c` are claimed for an INSERT, and its item joins the change set (R65). -/
def State.insertRow (r c : Nat) (sp : Span) (b : Body) (s : State) : State :=
  let t := (s.claimRow r sp (Row.newDraft sp c)).allocCopy c (Copy.newDraft r none b)
  t.putItems (t.items ++ [.insert r])

/-- INSERT of a span and a body (R64, R65). -/
def State.insertSpan (sp : Span) (b : Body) (s : State) : State × Reply :=
  match s.insertRefusal sp b with
  | some c => (s, .bare c)
  | none =>
    match s.lowestFreeRow with
    | none => (s, .bare .rowsFull)
    | some r =>
      match s.lowestFreeCopy with
      | none => (s, .bare .poolFull)
      | some c =>
        let t := s.insertRow r c sp b
        (t, { code := .done, data := [packWord [(r, 0), (c, 16)], t.itemCountWord] })

/-- INSERT as its argument words carry it (11.5). -/
def State.takeInsert (p : Port) (args : List Word) (s : State) : State × Reply :=
  s.guardEdit p
    (State.insertSpan (spanOfWord (argAt args 0)) (bodyOfWords (argAt args 1) (argAt args 2) (args.drop 3)))

/-! ### AMEND -/

/-- The change set holds an INSERT or AMEND item for row `r`: the row has a draft of the session (R62). -/
def hasDraftItem (items : List ChangeItem) (r : Nat) : Bool := items.contains (.insert r) || items.contains (.amend r)

/-- The copy that an amend draft of the row is cloned from: its staged copy if it has one, else its live copy (R30). -/
def Row.base (x : Row) : Option Nat :=
  match x.staged with
  | some c => some c
  | none => x.live

/-- The copy that AMEND writes over: the draft if the row has one, else the base (R67 step 3). -/
def Row.amendSource (x : Row) : Option Nat :=
  match x.draft with
  | some c => some c
  | none => x.base

/-- A draft is rewritten; a change of its profile moves one reference (R30, R48). -/
def State.rewriteBody (c : Nat) (b : Body) (s : State) : State :=
  let t := s.putCopy c { s.copy c with body := some b }
  if (s.copy c).profile = b.profile then t else (t.dropRef (s.copy c).profile).addRef b.profile

/-- A first AMEND of a row: the draft is allocated and its item joins the change set (R68). -/
def State.startAmend (r c : Nat) (b : Body) (s : State) : State :=
  let t := (s.putRow r { s.row r with draft := some c }).allocCopy c (Copy.newDraft r (s.row r).base b)
  t.putItems (t.items ++ [.amend r])

/-- The refusal of AMEND by its steps 1 to 3, if any; `b` is the body that would result (R67). -/
def State.amendRefusal (s : State) (r : Nat) (selected : Bool) (b : Body) : Option Code :=
  if (s.row r).phase = .free ∨ (s.row r).phase = .dead then some .noRow
  else if (s.row r).phase = .dying ∨ hasRetire s.items r = true then some .rowState
  else if selected = false ∨ s.bodyValid (s.spanOf r).count b = false then some .badField
  else none

/-- The reply of an AMEND that writes draft `c` (R68). -/
def State.amendReply (s : State) (c : Nat) : Reply := { code := .done, data := [numWord c, s.itemCountWord] }

/-- AMEND of row `r`; `f` writes the selected values over a body (R67, R68). -/
def State.amendRow (r : Nat) (selected : Bool) (f : Body → Body) (s : State) : State × Reply :=
  let b := f (s.bodyOf (orZero (s.row r).amendSource))
  match s.amendRefusal r selected b with
  | some c => (s, .bare c)
  | none =>
    if hasDraftItem s.items r then
      let c := orZero (s.row r).draft
      let t := s.rewriteBody c b
      (t, t.amendReply c)
    else if Config.changeMax ≤ s.items.length then (s, .bare .setFull)
    else match s.lowestFreeCopy with
      | none => (s, .bare .poolFull)
      | some c =>
        let t := s.startAmend r c b
        (t, t.amendReply c)

/-- AMEND as its argument words carry it (11.5). -/
def State.takeAmend (p : Port) (args : List Word) (s : State) : State × Reply :=
  s.guardEdit p
    (State.amendRow (namedBy args) (selectsSome (argAt args 0))
      (amendBody (argAt args 0) (argAt args 1) (argAt args 2) (args.drop 3)))

/-! ### RETIRE and RETIRE_GROUP -/

/-- What a RETIRE did (R70). -/
inductive RetireOutcome where
  | added | converted | removed
  deriving DecidableEq, Repr

/-- The code of a RETIRE outcome (11.8). -/
def RetireOutcome.code : RetireOutcome → Nat
  | .added => 0 | .converted => 1 | .removed => 2

/-- The refusal of RETIRE by the row and its item, room apart, if any (R70). -/
def State.retireRefusal (s : State) (r : Nat) : Option Code :=
  match (s.row r).phase with
  | .free => some .noRow
  | .dead => some .noRow
  | .dying => some .rowState
  | .newDraft => if hasRetire s.items r then some .rowState else none
  | .newStaged => if hasRetire s.items r then some .rowState else none
  | .live => if hasRetire s.items r then some .rowState else none

/-- What a RETIRE of the row does (R70). -/
def State.retireOutcome (s : State) (r : Nat) : RetireOutcome :=
  if (s.row r).phase = .newDraft then .removed else if s.items.contains (.amend r) then .converted else .added

/-- The row's draft is freed (R31). -/
def State.freeDraft (r : Nat) (s : State) : State :=
  match (s.row r).draft with
  | none => s
  | some c => (s.putRow r { s.row r with draft := none }).freeCopy c

/-- A RETIRE that passed its checks takes effect (R70, R13). -/
def State.retireEffect (r : Nat) (s : State) : State :=
  match s.retireOutcome r with
  | .removed =>
    let t := (s.freeDraft r).freeRow r
    t.putItems (t.items.filter (fun i => decide (i ≠ .insert r)))
  | .converted =>
    let t := s.freeDraft r
    t.putItems (t.items.map (fun i => if i = .amend r then .retire r else i))
  | .added => s.putItems (s.items ++ [.retire r])

/-- RETIRE of row `r` (R70). -/
def State.retireRow (r : Nat) (s : State) : State × Reply :=
  match s.retireRefusal r with
  | some c => (s, .bare c)
  | none =>
    if s.retireOutcome r = .added ∧ Config.changeMax ≤ s.items.length then (s, .bare .setFull)
    else
      let t := s.retireEffect r
      (t, { code := .done, data := [packWord [(t.items.length, 0), ((s.retireOutcome r).code, 16)]] })

/-- RETIRE as its argument word carries it (11.4). -/
def State.takeRetire (p : Port) (args : List Word) (s : State) : State × Reply :=
  s.guardEdit p (State.retireRow (namedBy args))

/-- The newest body of a row: its draft's, else its staged copy's, else its live copy's (R72). -/
def State.newestBody (s : State) (r : Nat) : Body := s.bodyOf (orZero (s.row r).amendSource)

/-- Row `r` matches a RETIRE_GROUP of the tag (R72). -/
def State.groupMatches (s : State) (g r : Nat) : Bool :=
  (decide ((s.row r).phase = .live) || decide ((s.row r).phase = .newStaged))
    && decide ((s.newestBody r).group = g) && !hasRetire s.items r

/-- The matching rows, in ascending row id (R72, R73). -/
def State.groupRows (s : State) (g : Nat) : List Nat := s.rows.keys.filter (fun r => s.groupMatches g r)

/-- RETIRE_GROUP of a tag, whole or not at all (R73). -/
def State.retireGroup (g : Nat) (s : State) : State × Reply :=
  let rs := s.groupRows g
  let fresh := rs.filter (fun r => !s.items.contains (.amend r))
  if Config.changeMax < s.items.length + fresh.length then (s, .bare .setFull)
  else
    let t := State.forEach State.retireEffect rs s
    (t, { code := .done, data := [packWord [(rs.length, 0), (rs.length - fresh.length, 16)], t.itemCountWord] })

/-- RETIRE_GROUP as its argument word carries it: the tag in bits 7 to 0 (11.4, log 29). -/
def State.takeRetireGroup (p : Port) (args : List Word) (s : State) : State × Reply :=
  s.guardEdit p (State.retireGroup (bitsAt (argAt args 0) 0 8))

/-! ### DEFINE_PROFILE and DROP_PROFILE -/

/-- DEFINE_PROFILE of slot `k` (R49). -/
def State.defineProfile (k : Nat) (pts : List Point) (s : State) : State × Reply :=
  match (s.slot k).state with
  | .staged => (s, .bare .profileState)
  | .active => (s, .bare .profileState)
  | .free =>
    if pointsValid pts = false then (s, .bare .badProfile)
    else if Config.changeMax ≤ s.items.length then (s, .bare .setFull)
    else
      let t := s.putSlot k { s.slot k with state := .pending, points := some pts }
      let t := t.putItems (t.items ++ [.defineProfile k])
      (t, { code := .done, data := [t.itemCountWord] })
  | .pending =>
    if pointsValid pts = false then (s, .bare .badProfile)
    else
      let t := s.putSlot k { s.slot k with points := some pts }
      (t, { code := .done, data := [t.itemCountWord] })

/-- DEFINE_PROFILE as its argument words carry it (11.5). -/
def State.takeDefineProfile (p : Port) (args : List Word) (s : State) : State × Reply :=
  s.guardEdit p (State.defineProfile (namedBy args) ((args.drop 1).map pointOfWord))

/-- A save is running (R163). -/
def State.saving (s : State) : Bool := decide (s.snap.savePhase ≠ .idle)

/-- DROP_PROFILE of slot `k` (R50). -/
def State.dropProfile (k : Nat) (s : State) : State × Reply :=
  if s.saving then (s, .bare .saveActive)
  else match (s.slot k).state with
    | .free => (s, .bare .profileState)
    | .staged => (s, .bare .profileState)
    | .pending =>
      if 0 < (s.slot k).refCount then (s, .bare .profileInUse)
      else
        let t := s.putSlot k Slot.free
        (t.putItems (t.items.filter (fun i => decide (i ≠ .defineProfile k))), .bare .done)
    | .active =>
      if 0 < (s.slot k).refCount ∨ 0 < (s.slot k).readerCount then (s, .bare .profileInUse)
      else (s.putSlot k Slot.free, .bare .done)

/-- DROP_PROFILE as its argument word carries it (11.4). -/
def State.takeDropProfile (p : Port) (args : List Word) (s : State) : State × Reply :=
  s.guardEdit p (State.dropProfile (namedBy args))

/-! ### The end of a session -/

/-- The session closes: no owner, no timer, no items, the lock free (R58). -/
def State.closeSession (s : State) : State := s.setSession none

/-- What abandonment does to one item's row (R78). -/
def State.abandonRow (s : State) : ChangeItem → State
  | .insert r => (s.freeDraft r).freeRow r
  | .amend r => s.freeDraft r
  | .retire _ => s
  | .defineProfile _ => s

/-- What abandonment does to one item's slot (R52, R78). -/
def State.abandonSlot (s : State) : ChangeItem → State
  | .insert _ => s
  | .amend _ => s
  | .retire _ => s
  | .defineProfile k => s.putSlot k Slot.free

/-- The session's work is discarded and the session closes (R78, R79). -/
def State.abandonSession (s : State) : State :=
  (s.items.foldl State.abandonSlot (s.items.foldl State.abandonRow s)).closeSession

/-- ABANDON (R78). -/
def State.takeAbandon (p : Port) (s : State) : State × Reply :=
  s.guardEdit p (fun s => (s.abandonSession, { code := .done, data := [s.itemCountWord] }))

/-- What the seal does to one item's row (R15). -/
def State.sealRow (s : State) : ChangeItem → State
  | .insert r => s.putRow r { s.row r with phase := .newStaged, staged := (s.row r).draft, draft := none }
  | .amend r => s.putRow r { s.row r with staged := (s.row r).draft, draft := none }
  | .retire r => s.putRow r { s.row r with phase := .dying }
  | .defineProfile _ => s

/-- A DRAFT copy becomes STAGED; other copies stay (R32). -/
def Copy.sealed (x : Copy) : Copy := if x.state = .draft then { x with state := .staged, base := none } else x

/-- A PENDING slot becomes STAGED; other slots stay (R51). -/
def Slot.sealed (x : Slot) : Slot := if x.state = .pending then { x with state := .staged } else x

/-- The session is sealed: its change set becomes the staged set (R82). -/
def State.sealSession (pol : Policy) (s : State) : State :=
  let t := s.items.foldl State.sealRow s
  let t := (t.setCopies (Table.mapValues Copy.sealed t.copies)).setSlots (Table.mapValues Slot.sealed t.slots)
  (t.setStaged (some { items := s.items, policy := pol })).closeSession

/-- The policy a SEAL carries (11.4). -/
def policyOfWord (w : Word) : Policy := if w = 0#32 then .atMarker else .onCommand

/-- The reply of a SEAL: the item count handed over, with the policy (11.8, log 17). -/
def sealReply (n : Nat) (pol : Policy) : Reply := { code := .done, data := [packWord [(n, 0), (pol.code, 16)]] }

/-- SEAL with a policy (R81). -/
def State.sealWith (pol : Policy) (s : State) : State × Reply :=
  if s.staged.isSome then (s, .bare .stagePending)
  else if s.items = [] then (s.closeSession, sealReply 0 pol)
  else (s.sealSession pol, sealReply s.items.length pol)

/-- SEAL as its argument word carries it. -/
def State.takeSeal (p : Port) (args : List Word) (s : State) : State × Reply :=
  s.guardEdit p (State.sealWith (policyOfWord (argAt args 0)))

/-- IDLE_TIMER_EXPIRY: the open session is abandoned and SESSION_EXPIRED raised; with no session the timer is stopped and does
not expire (R76). -/
def execIdleTimerExpiry (s : State) : Host.Outcome State Fault Refusal :=
  .next (match s.session with
    | none => s
    | some x => s.abandonSession.raise (.sessionExpired x.owner))

end Sys2Proof.Machine
end

