-- ==== Sys2Proof/Machine/Epochs.lean ====
section
/-! DEFINITION. The epoch controller (chapter 5): the switch, the marker arrival, SWITCH, WITHDRAW. -/

namespace Sys2Proof.Machine

/-- A STAGED copy becomes LIVE at the switch to epoch `e`; other copies stay (R33). -/
def Copy.activate (e : Nat) (x : Copy) : Copy :=
  if x.state = .staged then { x with state := .live, activated := some e } else x

/-- A STAGED slot becomes ACTIVE at the switch to epoch `e`; other slots stay (R51). -/
def Slot.activate (e : Nat) (x : Slot) : Slot :=
  if x.state = .staged then { x with state := .active, activated := some e } else x

/-- The row an item names, if it names one (R62). -/
def ChangeItem.row? : ChangeItem → Option Nat
  | .insert r => some r
  | .amend r => some r
  | .retire r => some r
  | .defineProfile _ => none

/-- The postings that one item of the staged set makes, by the row's watch set (R97, log 28). -/
def State.postingsOf (s : State) (e : Nat) : ChangeItem → List (Nat × Notice)
  | .insert _ => []
  | .amend r => (s.row r).watch.map (fun n => (n, { row := r, kind := .changed, epoch := e }))
  | .retire r => (s.row r).watch.map (fun n => (n, { row := r, kind := .retired, epoch := e }))
  | .defineProfile _ => []

/-- The live copy that a switch supersedes for row `r`: of a LIVE row with a staged copy, and of a DYING row (R34). -/
def Row.supersedes (x : Row) : Option Nat :=
  match x.phase with
  | .live => if x.staged.isSome then x.live else none
  | .dying => x.live
  | .free => none
  | .newDraft => none
  | .newStaged => none
  | .dead => none

/-- A row of the staged set at the switch to epoch `e`, before the fate of a dying row is decided (R16, R17). -/
def Row.switched (e : Nat) (x : Row) : Row :=
  match x.phase with
  | .newStaged => { x with phase := .live, born := some e, live := x.staged, staged := none }
  | .live => if x.staged.isSome then { x with live := x.staged, staged := none } else x
  | .dying => { x with live := none }
  | .free => x
  | .newDraft => x
  | .dead => x

/-- Row `r` of the staged set at the switch to epoch `e` (R16, R17). -/
def State.switchRow (e r : Nat) (s : State) : State := s.putRow r ((s.row r).switched e)

/-- Copy `c` is superseded at the switch to epoch `e`; unpinned it is freed at once (R34). -/
def State.supersede (e c : Nat) (s : State) : State :=
  let x := { s.copy c with state := .superseded, supersededAt := some e }
  let t := s.putCopy c x
  if x.unpinned then t.freeCopy c else t

/-- A number in its place in an ascending list. -/
def insertAscending (n : Nat) : List Nat → List Nat
  | [] => [n]
  | m :: ms => if n ≤ m then n :: m :: ms else m :: insertAscending n ms

/-- The numbers in ascending order. -/
def sortAscending : List Nat → List Nat
  | [] => []
  | n :: ns => insertAscending n (sortAscending ns)

/-- The end of a dying row after the switch's supersessions and frees: its watch set is emptied, and it becomes DEAD with dies
epoch `e` while a copy of it remains, else it returns to FREE (R17). -/
def State.buryRow (e r : Nat) (s : State) : State :=
  if (s.row r).phase = .dying then
    let t := s.emptyWatchSet r
    if t.ownsCopy r then t.putRow r { t.row r with phase := .dead, dies := some e } else t.freeRow r
  else s

/-- The number of items that a predicate picks. -/
def countItems (p : ChangeItem → Bool) (l : List ChangeItem) : Nat := l.countP p

/-- The item is an INSERT. -/
def ChangeItem.isInsert : ChangeItem → Bool
  | .insert _ => true | .amend _ => false | .retire _ => false | .defineProfile _ => false

/-- The item is an AMEND. -/
def ChangeItem.isAmend : ChangeItem → Bool
  | .insert _ => false | .amend _ => true | .retire _ => false | .defineProfile _ => false

/-- The item is a RETIRE. -/
def ChangeItem.isRetire : ChangeItem → Bool
  | .insert _ => false | .amend _ => false | .retire _ => true | .defineProfile _ => false

/-- The item is a DEFINE_PROFILE. -/
def ChangeItem.isDefine : ChangeItem → Bool
  | .insert _ => false | .amend _ => false | .retire _ => false | .defineProfile _ => true

/-- The stores' part of the switch of `items` to epoch `e`: copies and slots activated, rows changed, copies superseded and
those still pinned put on the superseded list in ascending copy id, dying rows ended (R92 to R96, R34). -/
def State.switchStores (e : Nat) (items : List ChangeItem) (s : State) : State :=
  let rs := items.filterMap ChangeItem.row?
  let old := sortAscending (rs.filterMap (fun r => (s.row r).supersedes))
  let t := (s.setCopies (Table.mapValues (Copy.activate e) s.copies)).setSlots (Table.mapValues (Slot.activate e) s.slots)
  let t := State.forEach (State.switchRow e) rs t
  let t := State.forEach (State.supersede e) old t
  let t := t.setSuperseded (t.superseded ++ old.filter (fun c => decide ((t.copy c).state = .superseded)))
  State.forEach (State.buryRow e) rs t

/-- The switch record of a switch (R99); `before` and `after` are the state before it and after its stores changed. -/
def switchRecordOf (trig : Trigger) (items : List ChangeItem) (postings : Nat) (before after : State) : SwitchRecord :=
  { epoch := before.epoch + 1, trigger := trig, markerCount := before.markerCount
    madeLive := countItems ChangeItem.isInsert items, amended := countItems ChangeItem.isAmend items
    retired := countItems ChangeItem.isRetire items
    leftDead := (items.filterMap ChangeItem.row?).countP
      (fun r => decide ((before.row r).phase = .dying) && decide ((after.row r).phase = .dead))
    profilesActivated := countItems ChangeItem.isDefine items
    copiesFreed := ((items.filterMap ChangeItem.row?).filterMap (fun r => (before.row r).supersedes)).countP
      (fun c => decide ((after.copy c).state = .free))
    postings := postings }

/-- The switch event for a staged set (R92). -/
def State.switchSet (trig : Trigger) (st : StagedSet) (s : State) : State :=
  let e := s.epoch + 1
  let ps := st.items.flatMap (s.postingsOf e)
  let t := (s.setEpoch e).switchStores e st.items
  let t := t.setSwitchRecord (some (switchRecordOf trig st.items ps.length s t))
  let r := State.takePostings ps [] (t.setStaged none)
  ((r.1.raiseOverflows r.2).raise .switched).kickAll

/-- MARKER_ARRIVAL (R89): counted always; a waiting AT_MARKER set is switched with marker enable on, below the epoch limit. -/
def execMarkerArrival (s : State) : Host.Outcome State Fault Refusal :=
  let t := s.setMarkerCount ((s.markerCount + 1) % 4294967296)
  .next (match s.staged with
    | none => t
    | some st =>
      if st.policy = .atMarker ∧ s.params.markerEnable = true ∧ s.epoch < Config.maxU32 then t.switchSet .marker st else t)

/-- The data words that SWITCH answers with, from the record the switch wrote (R91, 11.8). -/
def SwitchRecord.words (x : SwitchRecord) : List Word :=
  [numWord x.epoch, packWord [(x.madeLive, 0), (x.amended, 8), (x.retired, 16), (x.leftDead, 24)],
    packWord [(x.profilesActivated, 0), (x.copiesFreed, 8)], packWord [(x.postings, 0)]]

/-- The operating state is SERVING or HELD. -/
def OpState.working : OpState → Bool
  | .serving => true
  | .held => true
  | .cold => false
  | .restoring => false

/-- SWITCH (R91). -/
def State.takeSwitch (s : State) : State × Reply :=
  if s.opState.working = false then (s, .bare .notReady)
  else match s.staged with
    | none => (s, .bare .nothingStaged)
    | some st =>
      if Config.maxU32 ≤ s.epoch then (s, .bare .epochLimit)
      else
        let t := s.switchSet .command st
        (t, { code := .done, data := match t.switchRecord with | some x => x.words | none => [] })

/-- What a withdraw does to one item's row (R19). -/
def State.withdrawRow (r : Nat) (s : State) : State :=
  match (s.row r).phase with
  | .newStaged =>
    match (s.row r).staged with
    | some c => ((s.putRow r { s.row r with staged := none }).freeCopy c).freeRow r
    | none => s.freeRow r
  | .live =>
    match (s.row r).staged with
    | some c => (s.putRow r { s.row r with staged := none }).freeCopy c
    | none => s
  | .dying => s.putRow r { s.row r with phase := .live }
  | .free => s
  | .newDraft => s
  | .dead => s

/-- The slot of a DEFINE_PROFILE item returns to FREE at a withdraw (R52). -/
def State.withdrawSlot (s : State) : ChangeItem → State
  | .insert _ => s
  | .amend _ => s
  | .retire _ => s
  | .defineProfile k => s.putSlot k Slot.free

/-- The staged set is discarded whole (R101). -/
def State.withdrawSet (st : StagedSet) (s : State) : State :=
  (st.items.foldl State.withdrawSlot (State.forEach State.withdrawRow (st.items.filterMap ChangeItem.row?) s)).setStaged none

/-- WITHDRAW (R101). -/
def State.takeWithdraw (s : State) : State × Reply :=
  if s.opState.working = false then (s, .bare .notReady)
  else match s.staged with
    | none => (s, .bare .nothingStaged)
    | some st =>
      if s.session.isSome then (s, .bare .sessionOpen)
      else (s.withdrawSet st, { code := .done, data := [packWord [(st.items.length, 0)]] })

end Sys2Proof.Machine
end

