-- ==== Sys2Proof/Machine/SnapshotStore.lean ====
section
/-! DEFINITION. The snapshot store (chapter 9): SAVE, ABORT_SAVE, RESTORE, and the completions and time-outs of flash
operations. -/

namespace Sys2Proof.Machine

/-! ### Issuing flash operations (R162) -/

/-- An identification begins. -/
def State.beginIdentify (s : State) : State := s.setFlash { s.flash with op := some .identify }

/-- A page read begins. -/
def State.beginRead (bk : Bank) (page : Nat) (s : State) : State := s.setFlash { s.flash with op := some (.read bk page) }

/-- A bank erase begins; it runs in the device from here on. -/
def State.beginErase (bk : Bank) (s : State) : State :=
  s.setFlash { s.flash with op := some (.erase bk), device := some (.erase bk) }

/-- A page program begins; it runs in the device from here on. -/
def State.beginProgram (bk : Bank) (page : Nat) (bytes : List Byte) (s : State) : State :=
  s.setFlash { s.flash with op := some (.program bk page), device := some (.program bk page bytes) }

/-- The device has finished whatever ran in it. -/
def Flash.settled (f : Flash) : Flash :=
  match f.device with
  | none => f
  | some d => { f with cells := d.effect f.cells, device := none }

/-! ### The survey and the choice of banks (R160, R161, R164) -/

/-- What a header page shows of its bank (R160). -/
def surveyOfPage (page : List Byte) : Survey :=
  match headerOfPage page with
  | none => .invalid
  | some h => .valid h

/-- The survey of a bank (R161). -/
def Snapshot.survey (x : Snapshot) : Bank → Survey
  | .bankA => x.surveyA
  | .bankB => x.surveyB

/-- The survey of a bank replaced. -/
def Snapshot.putSurvey (x : Snapshot) (bk : Bank) (v : Survey) : Snapshot :=
  match bk with
  | .bankA => { x with surveyA := v }
  | .bankB => { x with surveyB := v }

/-- The bank survey records what a header page read shows (R164, R172). -/
def State.survey (bk : Bank) (page : List Byte) (s : State) : State :=
  s.setSnap (s.snap.putSurvey bk (surveyOfPage page))

/-- The target bank of a save and the sequence to write, before the limit is looked at (R164). -/
def chooseTarget (a b : Survey) : Bank × Nat :=
  match a, b with
  | .valid x, .valid y =>
    if x.sequence < y.sequence then (.bankA, y.sequence + 1) else (.bankB, x.sequence + 1)
  | .valid x, .unknown => (.bankB, x.sequence + 1)
  | .valid x, .invalid => (.bankB, x.sequence + 1)
  | .unknown, .valid y => (.bankA, y.sequence + 1)
  | .invalid, .valid y => (.bankA, y.sequence + 1)
  | .unknown, .unknown => (.bankA, 1)
  | .unknown, .invalid => (.bankA, 1)
  | .invalid, .unknown => (.bankA, 1)
  | .invalid, .invalid => (.bankA, 1)

/-- The newest valid bank, with its header (R160). -/
def newestValid (a b : Survey) : Option (Bank × BankHeader) :=
  match a, b with
  | .valid x, .valid y => if x.sequence < y.sequence then some (.bankB, y) else some (.bankA, x)
  | .valid x, .unknown => some (.bankA, x)
  | .valid x, .invalid => some (.bankA, x)
  | .unknown, .valid y => some (.bankB, y)
  | .invalid, .valid y => some (.bankB, y)
  | .unknown, .unknown => none
  | .unknown, .invalid => none
  | .invalid, .unknown => none
  | .invalid, .invalid => none

/-! ### The end of a save -/

/-- The save fields at their IDLE values (R161). DESIGN CHOICE (log 31): the write position is then 0 after a completed save too; R167
does not name it among what the completing event empties. -/
def Snapshot.idleSave (x : Snapshot) : Snapshot :=
  { x with savePhase := .idle, saveEpoch := none, saveList := [], profileSet := [], target := none, sequence := none
           writePos := 0, check := none }

/-- Every snapshot pin still set on a listed copy is cleared (R37, R169). -/
def State.clearListedPins (l : List SaveItem) (s : State) : State := State.forEach State.clearSnapPin (l.map SaveItem.copy) s

/-- The bank survey at a save ended early: the target, whose erase had been issued, is invalid (R169). -/
def Snapshot.spoilTarget (x : Snapshot) : Snapshot :=
  match x.target with
  | none => x
  | some bk => x.putSurvey bk .invalid

/-- A save ends early with a failure kind (R169). A flash operation in progress is left to finish in the device. -/
def State.endSave (k : FailKind) (s : State) : State :=
  let x := s.snap
  let t := s.clearListedPins x.saveList
  let t := t.setSnap { x.spoilTarget.idleSave with last := .saveFailed k x.target x.writePos }
  (t.setFlash { t.flash with op := none }).raise (.saveFailed k)

/-! ### Writing a bank (R164 to R167) -/

/-- The number of profile pages of `n` profiles, two to a page (R159). -/
def profilePages (n : Nat) : Nat := (n + 1) / 2

/-- The number of record pages of `n` records, four to a page (R159). -/
def recordPages (n : Nat) : Nat := (n + 3) / 4

/-- The profile entries of the slots on one page (R165). -/
def State.profileBytes (s : State) (ks : List Nat) : List Byte := ks.flatMap (fun k => profileEntry k (s.pointsOf k))

/-- The record entries of the items on one page (R166). -/
def State.recordBytes (s : State) (l : List SaveItem) : List Byte :=
  l.flatMap (fun i => recordEntry i.row (s.spanOf i.row) (s.bodyOf i.copy))

/-- The slots written on page `page` of the profile area, which begins at page 1. -/
def Snapshot.profilesOn (x : Snapshot) (page : Nat) : List Nat := (x.profileSet.drop (2 * (page - 1))).take 2

/-- The items of the next record page: the write position says how many have been written. -/
def Snapshot.nextItems (x : Snapshot) : List SaveItem := (x.saveList.drop x.writePos).take 4

/-- The header a save writes (R167). -/
def Snapshot.header (x : Snapshot) : BankHeader :=
  { sequence := orZero x.sequence, savedEpoch := orZero x.saveEpoch, profileCount := x.profileSet.length
    recordCount := x.saveList.length, bodyCheck := x.check.getD crc32Start }

/-- The bank being written. -/
def Snapshot.bank (x : Snapshot) : Bank := x.target.getD .bankA

/-- The save goes to HEADER and programs the header page (R167). -/
def State.enterHeader (s : State) : State :=
  (s.setSnap { s.snap with savePhase := .header }).beginProgram s.snap.bank 0 (headerPage s.snap.header)

/-- The next record page is begun, or HEADER entered when every listed item is written (R166). -/
def State.nextRecordPage (page : Nat) (s : State) : State :=
  if s.snap.nextItems = [] then s.enterHeader
  else (s.setSnap { s.snap with savePhase := .records }).beginProgram s.snap.bank page
    (fillTo Config.pageBytes (s.recordBytes s.snap.nextItems))

/-- The next profile page is begun, or RECORDS entered when every profile is written (R165). -/
def State.nextProfilePage (page : Nat) (s : State) : State :=
  if s.snap.profilesOn page = [] then s.nextRecordPage page
  else (s.setSnap { s.snap with savePhase := .profiles }).beginProgram s.snap.bank page
    (fillTo Config.pageBytes (s.profileBytes (s.snap.profilesOn page)))

/-- The running body check value goes on over the entries of a page that matched (R165, R166, log 21). -/
def State.extendCheck (bytes : List Byte) (s : State) : State :=
  s.setSnap { s.snap with check := some (crc32From (s.snap.check.getD crc32Start) bytes) }

/-- The read-back of a profile page matched (R165). -/
def State.profilePageMatched (page : Nat) (s : State) : State :=
  (s.extendCheck (s.profileBytes (s.snap.profilesOn page))).nextProfilePage (page + 1)

/-- The read-back of a record page matched: its pins are cleared, the write position rises, the next page begins (R166). -/
def State.recordPageMatched (page : Nat) (s : State) : State :=
  let l := s.snap.nextItems
  let t := (s.extendCheck (s.recordBytes l)).clearListedPins l
  (t.setSnap { t.snap with writePos := t.snap.writePos + l.length }).nextRecordPage (page + 1)

/-- The read-back of the header page matched: the save is complete (R167). -/
def State.saveCompletes (s : State) : State :=
  let x := s.snap
  let h := x.header
  let done := LastResult.saveDone x.bank h.sequence h.savedEpoch h.profileCount h.recordCount
  (s.setSnap { (x.putSurvey x.bank (.valid h)).idleSave with last := done }).raise .saveDone

/-- Both headers are read in ERASING: the target is chosen and its erase issued, or the save ends for want of a sequence
number (R164, log 19). -/
def State.chooseAndErase (s : State) : State :=
  let c := chooseTarget s.snap.surveyA s.snap.surveyB
  if Config.maxU32 < c.2 then s.endSave .aborted
  else (s.setSnap { s.snap with target := some c.1, sequence := some c.2 }).beginErase c.1

/-! ### SAVE and ABORT_SAVE -/

/-- The rows visible at the current epoch with their LIVE copies, in ascending row id (R163). -/
def State.saveItems (s : State) : List SaveItem :=
  (s.rows.keys.filter (fun r => (s.row r).visibleAt s.epoch)).map (fun r => { row := r, copy := orZero (s.row r).live })

/-- The ACTIVE slots in ascending slot id (R163). -/
def State.activeSlots (s : State) : List Nat := s.slots.keys.filter (fun k => decide ((s.slot k).state = .active))

/-- A save begins (R163). -/
def State.beginSave (s : State) : State :=
  let l := s.saveItems
  let t := State.forEach State.setSnapPin (l.map SaveItem.copy) s
  (t.setSnap { t.snap with
    savePhase := .erasing, saveEpoch := some s.epoch, saveList := l, profileSet := s.activeSlots, target := none
    sequence := none, writePos := 0, check := some crc32Start }).beginIdentify

/-- SAVE (R163). -/
def State.takeSave (s : State) : State × Reply :=
  if s.saving then (s, .bare .saveActive)
  else if s.opState.working = false then (s, .bare .notReady)
  else
    (s.beginSave, { code := .accepted
                    data := [numWord s.epoch, packWord [(s.saveItems.length, 0), (s.activeSlots.length, 16)]] })

/-- The data word of ABORT_SAVE: outcome, phase and write position at the taking (11.8). -/
def State.abortWord (s : State) (outcome : Nat) : Word :=
  packWord [(outcome, 0), (s.snap.savePhase.code, 4), (s.snap.writePos, 16)]

/-- ABORT_SAVE (R169). -/
def State.takeAbortSave (s : State) : State × Reply :=
  match s.snap.savePhase with
  | .idle => (s, { code := .done, data := [s.abortWord 0] })
  | .header => (s, { code := .done, data := [s.abortWord 2] })
  | .erasing => (s.endSave .aborted, { code := .done, data := [s.abortWord 1] })
  | .profiles => (s.endSave .aborted, { code := .done, data := [s.abortWord 1] })
  | .records => (s.endSave .aborted, { code := .done, data := [s.abortWord 1] })

/-! ### Restoring (R171 to R175) -/

/-- A restore is accepted with its origin: RESTORING, SELECTING, and the identification begins (R171, R172). -/
def State.beginRestore (o : Origin) (s : State) : State :=
  ((s.setSnap { s.snap with restorePhase := .selecting, origin := some o, triedA := false, triedB := false }).setOpState
    .restoring).beginIdentify

/-- Every row is FREE. -/
def State.allRowsFree (s : State) : Bool := s.rows.keys.all (fun r => decide ((s.row r).phase = .free))

/-- The origin a restore would have, if the operating state and the stores allow one (R171 step 3). -/
def State.restoreOrigin (s : State) : Option Origin :=
  match s.opState with
  | .cold => some .cold
  | .held =>
    if s.allRowsFree = true ∧ s.session = none ∧ s.staged = none ∧ s.totalReaders = 0 then some .held else none
  | .serving => none
  | .restoring => none

/-- RESTORE (R171). -/
def State.takeRestore (s : State) : State × Reply :=
  if s.saving then (s, .bare .saveActive)
  else match s.restoreOrigin with
    | none => (s, .bare .notReady)
    | some o => if Config.maxU32 ≤ s.epoch then (s, .bare .epochLimit) else (s.beginRestore o, .bare .accepted)

/-- The restore fields at their IDLE values (R161). -/
def Snapshot.idleRestore (x : Snapshot) : Snapshot :=
  { x with restorePhase := .idle, origin := none, loading := none, triedA := false, triedB := false, targetEpoch := none
           check := none, readPos := none }

/-- The operating state a failed restore returns to (R175). -/
def originState : Option Origin → OpState
  | some .held => .held
  | some .cold => .cold
  | none => .cold

/-- A restore ends with a failure (R175). -/
def State.restoreFails (k : FailKind) (s : State) : State :=
  let x := s.snap
  let t := (s.setOpState (originState x.origin)).setSnap
    { x.idleRestore with last := .restoreFailed k x.triedA x.triedB }
  (t.setFlash { t.flash with op := none }).raise (.restoreFailed k)

/-- The header of the bank being loaded. -/
def Snapshot.loadingHeader (x : Snapshot) : Option (Bank × BankHeader) :=
  match x.loading with
  | none => none
  | some bk =>
    match x.survey bk with
    | .valid h => some (bk, h)
    | .unknown => none
    | .invalid => none

/-- A restore succeeds with the bank being loaded (R175). -/
def State.restoreSucceeds (bk : Bank) (h : BankHeader) (s : State) : State :=
  let e := orZero s.snap.targetEpoch
  let t := ((s.setEpoch e).setOpState .serving).resyncUpLinks
  let t := t.setSnap { t.snap.idleRestore with
    last := .restoreDone bk h.sequence h.savedEpoch e h.profileCount h.recordCount }
  ((t.setFlash { t.flash with op := none }).raise .restoreDone).kickAll

/-- The directory, the pool and the profile table emptied (R174). Each freeing makes the low-watermark check; the last one
decides. -/
def State.emptyStores (s : State) : State :=
  (((((s.setRows []).setSpanIndex []).setCopies []).setSuperseded []).setSlots []).setFreeCount Config.copies |>.checkArm

/-- A bank has been loaded from or begun by this restore (R161). -/
def Snapshot.tried (x : Snapshot) : Bank → Bool
  | .bankA => x.triedA
  | .bankB => x.triedB

/-- A bank added to the banks tried. -/
def Snapshot.markTried (x : Snapshot) : Bank → Snapshot
  | .bankA => { x with triedA := true }
  | .bankB => { x with triedB := true }

/-- The bank, with its header, that is valid and not among the banks tried (R174). -/
def Snapshot.untried (x : Snapshot) : Option (Bank × BankHeader) :=
  match x.surveyA, x.surveyB with
  | .valid h, .valid h' => if x.triedA = false then some (.bankA, h) else if x.triedB = false then some (.bankB, h') else none
  | .valid h, .unknown => if x.triedA = false then some (.bankA, h) else none
  | .valid h, .invalid => if x.triedA = false then some (.bankA, h) else none
  | .unknown, .valid h' => if x.triedB = false then some (.bankB, h') else none
  | .invalid, .valid h' => if x.triedB = false then some (.bankB, h') else none
  | .unknown, .unknown => none
  | .unknown, .invalid => none
  | .invalid, .unknown => none
  | .invalid, .invalid => none

/-- The pages that a bank's entries take (R159). -/
def BankHeader.pages (h : BankHeader) : Nat := profilePages h.profileCount + recordPages h.recordCount

/-- The count and epoch checks of a bank header (R173, R102). -/
def BankHeader.loadable (h : BankHeader) : Bool :=
  decide (h.profileCount ≤ Config.slots) && decide (h.recordCount ≤ Config.rows) && decide (h.savedEpoch < Config.maxU32)

/-- The target epoch of a bank, when one can be formed (R102). -/
def targetEpochOf (epoch saved : Nat) : Option Nat := if saved < Config.maxU32 then some (max epoch saved + 1) else none

/-- The event in which loading of a bank begins, before its checks (R173): the first bank of a restore frees every slot. -/
def State.beginLoading (bk : Bank) (h : BankHeader) (s : State) : State :=
  let t := if s.snap.triedA = false ∧ s.snap.triedB = false then s.setSlots [] else s
  t.setSnap { t.snap.markTried bk with
    restorePhase := .loading, loading := some bk, targetEpoch := targetEpochOf s.epoch h.savedEpoch
    check := some crc32Start, readPos := some 0 }

/-- A bank is begun, and so far as this event decides it, ended: a failed check of the header discards and tries the other bank,
a bank without entries is compared at once, and any other has its first page read (R173, R174, R175). `fuel` bounds the banks
still to be tried. -/
def State.tryBank : Nat → Bank → BankHeader → State → State
  | fuel, bk, h, s =>
    let t := s.beginLoading bk h
    if h.loadable = true ∧ 0 < h.pages then t.beginRead bk 1
    else if h.loadable = true ∧ h.bodyCheck = crc32Start then t.restoreSucceeds bk h
    else
      let t := t.emptyStores
      match fuel, t.snap.untried with
      | 0, _ => t.restoreFails .corrupt
      | _ + 1, none => t.restoreFails .corrupt
      | n + 1, some (bk', h') => State.tryBank n bk' h' t

/-- A failed load check while a bank is loaded: everything loaded is discarded, and the other bank is begun or the restore ends
(R174). -/
def State.loadFails (s : State) : State :=
  let t := s.emptyStores
  match t.snap.untried with
  | none => t.restoreFails .corrupt
  | some (bk, h) => State.tryBank 1 bk h t

/-- Both headers are read in SELECTING (R172). -/
def State.selectBank (s : State) : State :=
  match newestValid s.snap.surveyA s.snap.surveyB with
  | none => s.restoreFails .noSnapshot
  | some (bk, h) => State.tryBank 1 bk h s

/-- A profile entry is loaded, unless one of its checks fails (R57). -/
def State.loadProfile (e : Nat) (entry : List Byte) (s : State) : Option State :=
  let k := fieldAt entry 0 1
  let pts := entryPoints entry
  if k < Config.slots ∧ (s.slot k).state = .free ∧ pointsValid pts = true then
    some (s.putSlot k { state := .active, activated := some e, points := some pts, refCount := 0, readerCount := 0 })
  else none

/-- The saved span overlaps that of a row already loaded from the bank (R23). -/
def State.loadOverlaps (s : State) (sp : Span) : Bool := s.rows.keys.any (fun r => s.overlapsRow sp r)

/-- A record entry is loaded, unless one of its checks fails (R23, R42). -/
def State.loadRecord (e : Nat) (entry : List Byte) (s : State) : Option State :=
  let r := fieldAt entry 0 2
  let sp := entrySpan entry
  match entryBody entry, s.lowestFreeCopy with
  | some b, some c =>
    if r < Config.rows ∧ (s.row r).phase = .free ∧ sp.valid = true ∧ s.loadOverlaps sp = false
        ∧ s.bodyValid sp.count b = true then
      some ((s.claimRow r sp { Row.free with phase := .live, span := some sp, born := some e, live := some c }).allocCopy c
        { Copy.free with state := .live, owner := some r, activated := some e, body := some b })
    else none
  | some _, none => none
  | none, some _ => none
  | none, none => none

/-- Entries loaded in order, each added to the running body check value (R173). The second part says whether all passed; if one
is refused, the first part is the state with the entries before it loaded, the checks of R41 made at their allocations
included. -/
def State.loadEntries (load : List Byte → State → Option State) : List (List Byte) → State → State × Bool
  | [], s => (s, true)
  | en :: ens, s =>
    match load en (s.extendCheck en) with
    | some t => State.loadEntries load ens t
    | none => (s, false)

/-- The profile entries on the `i`-th page read of a bank (R159). -/
def profileEntriesOn (h : BankHeader) (i : Nat) (page : List Byte) : List (List Byte) :=
  (List.range (min 2 (h.profileCount - 2 * i))).map (fun j => entryOf 128 j page)

/-- The record entries on the `i`-th record page read of a bank (R159). -/
def recordEntriesOn (h : BankHeader) (i : Nat) (page : List Byte) : List (List Byte) :=
  (List.range (min 4 (h.recordCount - 4 * i))).map (fun j => entryOf 64 j page)

/-- A page of the bank being loaded has its entries loaded, up to the first that is refused; `i` pages had been read before
(R173). -/
def State.loadPage (h : BankHeader) (i : Nat) (page : List Byte) (s : State) : State × Bool :=
  let e := orZero s.snap.targetEpoch
  if i < profilePages h.profileCount then State.loadEntries (State.loadProfile e) (profileEntriesOn h i page) s
  else State.loadEntries (State.loadRecord e) (recordEntriesOn h (i - profilePages h.profileCount) page) s

/-- A page read completes in LOADING (R173, R174, R175). When an entry is refused, the discard starts from the state that the
entries before it left: an event their allocations raised stays pending (R41, R42). -/
def State.pageLoaded (page : List Byte) (s : State) : State :=
  match s.snap.loadingHeader with
  | none => s
  | some (bk, h) =>
    let i := orZero s.snap.readPos
    let r := s.loadPage h i page
    if r.2 = false then r.1.loadFails
    else
      let t := r.1.setSnap { r.1.snap with readPos := some (i + 1) }
      if i + 1 < h.pages then t.beginRead bk (i + 2)
      else if t.snap.check = some h.bodyCheck then t.restoreSucceeds bk h
      else t.loadFails

/-! ### The commands of the table -/

/-- IDENTIFICATION_DONE: the device is ready, so whatever ran in it has finished, and the header of bank A is read next
(R162, R164, R172). -/
def execIdentificationDone (s : State) : Host.Outcome State Fault Refusal :=
  .next (if s.flash.op = some .identify then (s.setFlash s.flash.settled).beginRead .bankA 0 else s)

/-- FLASH_ABSENT: no answer within 4 s ends the save or the restore (R162, R169, R172). -/
def execFlashAbsent (s : State) : Host.Outcome State Fault Refusal :=
  .next (if s.flash.op = some .identify then
      if s.saving then s.endSave .flashAbsent else s.restoreFails .flashAbsent
    else s)

/-- A header page has been read: the survey records it, and the other header is read or the choice made (R164, R172). -/
def State.headerRead (bk : Bank) (page : List Byte) (s : State) : State :=
  let t := s.survey bk page
  match bk with
  | .bankA => t.beginRead .bankB 0
  | .bankB => if t.saving then t.chooseAndErase else t.selectBank

/-- A page read of the unit completes with the page's bytes (R162). -/
def State.readCompletes (bk : Bank) (page : Nat) (s : State) : State :=
  let bytes := readPage s.flash.cells bk page
  let t := s.setFlash { s.flash with op := none }
  if page = 0 then t.headerRead bk bytes else t.pageLoaded bytes

/-- PAGE_READ_DONE (R162, R164, R172, R173). With no page read in progress there is nothing to complete. -/
def execPageReadDone (changes : List Host.Cell) (s : State) : Host.Outcome State Fault Refusal :=
  .next (match s.flash.op with
    | some (.read bk page) => (s.setFlash { s.flash with cells := applyChanges changes s.flash.cells }).readCompletes bk page
    | some .identify => s
    | some (.erase _) => s
    | some (.program _ _) => s
    | none => s)

/-- BANK_ERASE_DONE: the bank is erased, and the save that waits for it goes to PROFILES (R162, R164). An erase left running by
a save that has ended completes in the device only (R169). -/
def execBankEraseDone (s : State) : Host.Outcome State Fault Refusal :=
  .next (match s.flash.device with
    | some (.erase _) =>
      let t := s.setFlash s.flash.settled
      (match s.flash.op with
        | some (.erase _) =>
          (t.setFlash { t.flash with op := none }).setSnap { t.snap with savePhase := .profiles } |>.nextProfilePage 1
        | some .identify => t
        | some (.read _ _) => t
        | some (.program _ _) => t
        | none => t)
    | some (.program _ _ _) => s
    | none => s)

/-- ERASE_TIMEOUT (R162, R169). -/
def execEraseTimeout (s : State) : Host.Outcome State Fault Refusal :=
  .next (match s.flash.op with
    | some (.erase _) => s.endSave .eraseTimeout
    | some .identify => s
    | some (.read _ _) => s
    | some (.program _ _) => s
    | none => s)

/-- The read-back of a page matched what was programmed, by the phase of the save (R165, R166, R167). -/
def State.pageMatched (page : Nat) (s : State) : State :=
  match s.snap.savePhase with
  | .profiles => s.profilePageMatched page
  | .records => s.recordPageMatched page
  | .header => s.saveCompletes
  | .erasing => s
  | .idle => s

/-- PAGE_PROGRAM_DONE: the page holds the bytes, changes from outside apart; the read-back decides for the save that waits for it
(R162, R165 to R167). A program left running by a save that has ended completes in the device only (R169). -/
def execPageProgramDone (changes : List Host.Cell) (s : State) : Host.Outcome State Fault Refusal :=
  .next (match s.flash.device with
    | some (.program bk page bytes) =>
      let f := s.flash.settled
      let t := s.setFlash { f with cells := applyChanges changes f.cells }
      (match s.flash.op with
        | some (.program _ _) =>
          if readPage t.flash.cells bk page = bytes then (t.setFlash { t.flash with op := none }).pageMatched page
          else t.endSave .verifyMismatch
        | some .identify => t
        | some (.read _ _) => t
        | some (.erase _) => t
        | none => t)
    | some (.erase _) => s
    | none => s)

/-- PROGRAM_TIMEOUT (R162, R169). -/
def execProgramTimeout (s : State) : Host.Outcome State Fault Refusal :=
  .next (match s.flash.op with
    | some (.program _ _) => s.endSave .programTimeout
    | some .identify => s
    | some (.read _ _) => s
    | some (.erase _) => s
    | none => s)

end Sys2Proof.Machine
end

