-- ==== Sys2Proof/Machine/Reports.lean ====
section
/-! DEFINITION. What the read commands report (10.6, 11.6, 11.8) and what the port words read as (11.3). A field that is
absent reads 0 (11.8, log 20). -/

namespace Sys2Proof.Machine

/-! ### Counts -/

/-- Rows in a phase, out of all 1,024 (R191). -/
def State.rowCount (s : State) (ph : Phase) : Nat :=
  if ph = .free then Config.rows - Table.count (fun x => decide (x.phase ≠ .free)) s.rows
  else Table.count (fun x => decide (x.phase = ph)) s.rows

/-- Copies in a state, out of all 2,560 (R40). -/
def State.copyCount (s : State) (st : CopyState) : Nat :=
  if st = .free then Config.copies - Table.count (fun x => decide (x.state ≠ .free)) s.copies
  else Table.count (fun x => decide (x.state = st)) s.copies

/-- Slots in a state, out of all 32 (R191). -/
def State.slotCount (s : State) (st : SlotState) : Nat :=
  if st = .free then Config.slots - Table.count (fun x => decide (x.state ≠ .free)) s.slots
  else Table.count (fun x => decide (x.state = st)) s.slots

/-- The items of the staged set; none while it is absent. -/
def State.stagedItems (s : State) : List ChangeItem :=
  match s.staged with
  | none => []
  | some st => st.items

/-- The counts of INSERT, AMEND, RETIRE and DEFINE_PROFILE items in bytes 0 to 3 (11.6 word 5). -/
def itemCounts (l : List ChangeItem) : Word :=
  packWord [(countItems ChangeItem.isInsert l, 0), (countItems ChangeItem.isAmend l, 8),
    (countItems ChangeItem.isRetire l, 16), (countItems ChangeItem.isDefine l, 24)]

/-! ### READ_STATUS (R191, 11.6) -/

/-- Words 1 to 5: publication and session. -/
def State.statusPublication (s : State) : List Word :=
  [packWord [(s.opState.code, 0), (portCode (s.session.map Session.owner), 4), (s.items.length, 16)],
    numWord s.epoch, numWord s.markerCount,
    (match s.staged with
      | none => 0#32
      | some st => packWord [(1, 31), (st.policy.code, 30), (st.items.length, 0)]),
    itemCounts s.stagedItems]

/-- Words 6 to 10: the switch record, all 0 while it is absent. -/
def State.statusSwitch (s : State) : List Word :=
  match s.switchRecord with
  | none => [0#32, 0#32, 0#32, 0#32, 0#32]
  | some x =>
    [packWord [(1, 31), (x.trigger.code, 30), (x.postings, 0)], numWord x.epoch, numWord x.markerCount,
      packWord [(x.madeLive, 0), (x.amended, 8), (x.retired, 16), (x.leftDead, 24)],
      packWord [(x.profilesActivated, 0), (x.copiesFreed, 8)]]

/-- Words 11 to 20: directory, copy pool, profile table. -/
def State.statusStores (s : State) : List Word :=
  let head := s.copy (s.superseded.headD 0)
  let listed := !s.superseded.isEmpty
  [packWord [(s.rowCount .free, 0), (s.rowCount .newDraft, 16)],
    packWord [(s.rowCount .newStaged, 0), (s.rowCount .live, 16)],
    packWord [(s.rowCount .dying, 0), (s.rowCount .dead, 16)],
    packWord [(s.copyCount .free, 0), (s.copyCount .draft, 16)],
    packWord [(s.copyCount .staged, 0), (s.copyCount .live, 16)],
    packWord [(s.copyCount .superseded, 0), (s.totalPins, 16)],
    packWord [(s.superseded.length, 0), (s.superseded.headD 0, 16)],
    packWord [(if listed then orZero head.owner else 0, 0), (s.totalReaders, 16)],
    numWord (if listed then orZero head.supersededAt else 0),
    packWord [(s.slotCount .free, 0), (s.slotCount .pending, 8), (s.slotCount .staged, 16), (s.slotCount .active, 24)]]

/-- The sequence number and saved epoch of a surveyed bank, as two words (11.6 words 26 to 29). -/
def Survey.words : Survey → List Word
  | .unknown => [0#32, 0#32]
  | .invalid => [0#32, 0#32]
  | .valid h => [numWord h.sequence, numWord h.savedEpoch]

/-- The last result (11.6 words 30 to 34). -/
def LastResult.words : LastResult → List Word
  | .none => [0#32, 0#32, 0#32, 0#32, 0#32]
  | .saveDone bk q e p r =>
    [packWord [(1, 0), (bankCode (some bk), 12)], numWord q, numWord e, 0#32, packWord [(p, 0), (r, 16)]]
  | .saveFailed k bk w => [packWord [(2, 0), (failCode (some k), 8), (bankCode bk, 12)], 0#32, 0#32, numWord w, 0#32]
  | .restoreDone bk q e n p r =>
    [packWord [(3, 0), (bankCode (some bk), 12)], numWord q, numWord e, numWord n, packWord [(p, 0), (r, 16)]]
  | .restoreFailed k a b =>
    [packWord [(4, 0), (failCode (some k), 8), (flagBit a, 16), (flagBit b, 17)], 0#32, 0#32, 0#32, 0#32]

/-- Words 21 to 34: the snapshot unit. -/
def Snapshot.statusWords (x : Snapshot) : List Word :=
  [packWord [(x.savePhase.code, 0), (x.restorePhase.code, 4), (originCode x.origin, 6), (bankCode x.target, 8),
      (bankCode x.loading, 10), (flagBit x.triedA, 12), (flagBit x.triedB, 13), (x.surveyA.code, 16), (x.surveyB.code, 18)],
    numWord (orZero x.saveEpoch), packWord [(x.saveList.length, 0), (x.profileSet.length, 16)],
    numWord (orZero x.sequence), numWord x.writePos]
    ++ x.surveyA.words ++ x.surveyB.words ++ x.last.words

/-- A link-number cause detail: 15 while its event is not pending (11.6). -/
def linkDetail (x : Option Nat) : Nat := x.getD 15

/-- Words 35 to 40: links, parameters, events. -/
def State.statusEvents (s : State) : List Word :=
  [packWord (allLinks.map (fun n => ((s.link n).state.code, 2 * n))),
    packWord [(s.params.editTimeout, 0), (s.params.resendInterval, 8), (s.params.poolWatermark, 16),
      (flagBit s.params.markerEnable, 31)],
    packWord [(s.eventSet.set.toNat, 0), (s.hostMask.toNat, 16)],
    packWord [(s.serviceMask.toNat, 0), (flagBit s.interruptLine, 16), (flagBit s.attention, 17)],
    packWord [(portCode s.eventSet.sessionExpired, 0), (failCode s.eventSet.saveFailed, 4),
      (failCode s.eventSet.restoreFailed, 8), (portCode s.eventSet.cmdOverflow, 12)],
    packWord [(linkDetail s.eventSet.linkUp, 0), (linkDetail s.eventSet.linkDown, 4), (linkDetail s.eventSet.linkQuiet, 8),
      (linkDetail s.eventSet.noticeOverflow, 12)]]

/-- The forty data words of READ_STATUS. -/
def State.statusWords (s : State) : List Word :=
  s.statusPublication ++ s.statusSwitch ++ s.statusStores ++ s.snap.statusWords ++ s.statusEvents

/-- READ_STATUS (R191). -/
def State.readStatus (s : State) : Reply := { code := .done, data := s.statusWords }

/-! ### READ_ROW, READ_COPY, READ_PROFILE, LIST_SPANS (11.8) -/

/-- The watch set as bits (11.8). -/
def watchBits : List Nat → Nat
  | [] => 0
  | n :: ns => 2 ^ n + watchBits ns

/-- The span word of a row; 0 when the span is absent. -/
def spanWordOf (x : Option Span) : Word :=
  match x with
  | none => 0#32
  | some sp => spanWord sp

/-- READ_ROW (R10). -/
def State.readRow (s : State) (r : Nat) : Reply :=
  let x := s.row r
  { code := .done
    data := [packWord [(r, 0), (x.phase.code, 16), (flagBit x.span.isSome, 24), (flagBit x.born.isSome, 25),
        (flagBit x.dies.isSome, 26), (flagBit x.live.isSome, 27), (flagBit x.staged.isSome, 28), (flagBit x.draft.isSome, 29)],
      spanWordOf x.span, numWord (orZero x.born), numWord (orZero x.dies), numWord (orZero x.live),
      numWord (orZero x.staged), numWord (orZero x.draft), numWord (watchBits x.watch)] }

/-- The body words of a copy, with its trim words; both 0 when the body is absent. -/
def bodyWordsOf (x : Option Body) : List Word :=
  match x with
  | none => [0#32, 0#32]
  | some b => [bodyWordA b, bodyWordB b] ++ b.trims.map trimWord

/-- READ_COPY (R44). -/
def State.readCopy (s : State) (c : Nat) : Reply :=
  let x := s.copy c
  { code := .done
    data := [packWord [(c, 0), (x.state.code, 16), (flagBit x.owner.isSome, 24), (flagBit x.base.isSome, 25),
        (flagBit x.activated.isSome, 26), (flagBit x.supersededAt.isSome, 27), (flagBit x.body.isSome, 28),
        (flagBit x.snapPin, 31)],
      packWord [(orZero x.owner, 0), (orZero x.base, 16)], numWord (orZero x.activated), numWord (orZero x.supersededAt),
      numWord x.fetchPins] ++ bodyWordsOf x.body }

/-- READ_PROFILE (R56). -/
def State.readProfile (s : State) (k : Nat) : Reply :=
  let x := s.slot k
  let pts := s.pointsOf k
  { code := .done
    data := [packWord [(k, 0), (x.state.code, 8), (flagBit x.activated.isSome, 12), (pts.length, 16)],
      numWord (orZero x.activated), numWord x.refCount, numWord x.readerCount] ++ pts.map pointWord }

/-- The items that LIST_SPANS reports from a channel (R10). -/
def State.spansFrom (s : State) (c : Nat) : List IndexItem :=
  (s.spanIndex.dropWhile (fun it => decide (it.first < c))).take 16

/-- The two words of one reported item: the row's span, then its id and phase. -/
def State.spanItemWords (s : State) (it : IndexItem) : List Word :=
  [spanWordOf (s.row it.row).span, packWord [(it.row, 0), ((s.row it.row).phase.code, 16)]]

/-- LIST_SPANS (R10). -/
def State.listSpans (s : State) (c : Nat) : Reply :=
  { code := .done, data := numWord (s.spansFrom c).length :: (s.spansFrom c).flatMap s.spanItemWords }

/-! ### LINK_STATUS (R122, 11.8) -/

/-- The word of one request queue position. -/
def requestWord (x : Option Request) : Word :=
  match x with
  | none => 0#32
  | some q => packWord [(1, 31), (q.tag.toNat, 0), (q.ask.code, 2), (q.stage.code, 4)]

/-- The two words of the head notice: row id and kind, then epoch; 0 when the queue is empty. -/
def noticeWords (x : Option Notice) : List Word :=
  match x with
  | none => [0#32, 0#32]
  | some y => [packWord [(y.row, 0), (y.kind.code, 16)], numWord y.epoch]

/-- The kind code of the frame in progress; 0 while the transmitter is idle. -/
def Link.sendingCode (l : Link) : Nat :=
  match l.tx with
  | none => 0
  | some f => f.content.code

/-- The twelve data words of LINK_STATUS. -/
def Link.statusWords (l : Link) : List Word :=
  [packWord [(l.state.code, 0), (flagBit l.locked, 2), (flagBit l.welcome.isSome, 3), (l.badCount, 4),
      (l.prompts.length, 8), (flagBit l.resyncFlag, 12), (l.watchCount, 16)],
    packWord [(l.errors.parity, 0), (l.errors.framing, 16)], packWord [(l.errors.check, 0), (l.errors.kind, 16)],
    packWord [(l.errors.stray, 0), (l.errors.refusals, 16)],
    requestWord l.requests[0]?, requestWord l.requests[1]?, requestWord l.requests[2]?, requestWord l.requests[3]?,
    packWord [(l.notices.length, 0), (l.sendCount, 8)]]
    ++ noticeWords l.notices.head?
    ++ [packWord [(l.resyncNumber, 0), (flagBit l.tx.isSome, 16), (l.sendingCode, 24)]]

/-- The six error counters at 0 (R122). -/
def Link.clearErrors (l : Link) : Link := { l with errors := Link.reset.errors }

/-- LINK_STATUS of link `n`: the counters are cleared, if asked for, after the report is built (R122). -/
def State.linkStatus (n : Nat) (clear : Bool) (s : State) : State × Reply :=
  (if clear then s.putLink n (s.link n).clearErrors else s, { code := .done, data := (s.link n).statusWords })

/-! ### The port words as read (R178, R179, 11.3, log 24) -/

/-- Port status: the interrupt line level is always 0 on the service port. -/
def State.portStatusWord (s : State) (p : Port) : Word :=
  packWord [((s.port p).wordCount, 0), ((s.port p).responses.length, 8), (flagBit (s.port p).overflow, 16),
    (match p with | .host => flagBit s.interruptLine | .service => 0, 17)]

/-- The events word, the same on both ports. -/
def State.eventsWord (s : State) : Word := s.eventSet.set.zeroExtend 32

/-- A port's event mask word. -/
def State.maskWord (s : State) (p : Port) : Word := (s.mask p).zeroExtend 32

/-- What a read of a port word returns. A read of response out also removes the word (row RESPONSE_OUT). -/
def State.readPortWord (s : State) (p : Port) : PortWord → Word
  | .commandIn => 0#32
  | .responseOut => (s.port p).responses.headD 0#32
  | .portStatus => s.portStatusWord p
  | .events => s.eventsWord
  | .eventMask => s.maskWord p

end Sys2Proof.Machine
end

