-- ==== Sys2Proof/Machine/Control.lean ====
section
/-! DEFINITION. The commands that the command processor owns beside the reads (10.4, 10.5, 10.7, 6.5): START_EMPTY, HOLD, RESUME,
CLEAR_ALL, RESET_LINK, SET_PARAM; and the hard reset. -/

namespace Sys2Proof.Machine

/-! ### Operating states (10.4) -/

/-- START_EMPTY (R187). -/
def State.takeStartEmpty (s : State) : State × Reply :=
  if s.opState = .cold then (s.setOpState .serving, { code := .done, data := [numWord s.epoch] })
  else (s, .bare .notReady)

/-- The operating state that HOLD and RESUME report (R188, 11.8). -/
def State.opWord (s : State) : Word := packWord [(s.opState.code, 0)]

/-- HOLD and RESUME, which go to `target` from SERVING and from HELD (R188). -/
def State.takeGate (target : OpState) (s : State) : State × Reply :=
  if s.opState.working then (s.setOpState target, { code := .done, data := [s.opWord] })
  else (s, { code := .notReady, data := [s.opWord] })

/-- HOLD (R188). -/
def State.takeHold (s : State) : State × Reply := s.takeGate .held

/-- RESUME (R188). -/
def State.takeResume (s : State) : State × Reply := s.takeGate .serving

/-! ### CLEAR_ALL (10.5) -/

/-- The refusal of CLEAR_ALL by its steps 2 to 5, if any (R189). -/
def State.clearRefusal (s : State) : Option Code :=
  if s.saving then some .saveActive
  else if s.opState ≠ .held then some .notReady
  else if s.session.isSome then some .sessionOpen
  else if s.totalPins ≠ 0 ∨ s.totalReaders ≠ 0 then some .pinsHeld
  else none

/-- A link controller at CLEAR_ALL (R190, R123, R155). -/
def Link.cleared (l : Link) : Link :=
  let e := { l with notices := [], sendCount := 0, timer := .stopped, watchCount := 0 }
  if l.state = .down then e else e.setResync

/-- Every link at CLEAR_ALL (R190). -/
def State.clearLinks (s : State) : State := State.forEach (fun n s => s.putLink n (s.link n).cleared) allLinks s

/-- CLEAR_ALL's effect (R190): the detector is armed whatever the watermark (R43). -/
def State.clearStores (s : State) : State := (((s.emptyStores.setLowArmed true).setStaged none).clearLinks).kickAll

/-- The data words of CLEAR_ALL: rows and copies freed, slots freed and staged items discarded (R190, 11.8). -/
def State.clearWords (s : State) : List Word :=
  [packWord [(Config.rows - s.rowCount .free, 0), (Config.copies - s.copyCount .free, 16)],
    packWord [(Config.slots - s.slotCount .free, 0), (s.stagedItems.length, 16)]]

/-- CLEAR_ALL (R189, R190). -/
def State.takeClearAll (s : State) : State × Reply :=
  match s.clearRefusal with
  | some c => (s, .bare c)
  | none => (s.clearStores, { code := .done, data := s.clearWords })

/-! ### RESET_LINK and SET_PARAM -/

/-- RESET_LINK of link `n`; the response gives the state before it (R116). -/
def State.takeResetLink (n : Nat) (s : State) : State × Reply :=
  (s.resetLinkDown n, { code := .done, data := [packWord [((s.link n).state.code, 0)]] })

/-- The value of the parameter a selector names (R193, 11.4). -/
def Params.value (x : Params) (selector : Nat) : Nat :=
  match selector with
  | 1 => x.editTimeout
  | 2 => x.resendInterval
  | 3 => x.poolWatermark
  | 4 => flagBit x.markerEnable
  | _ => 0

/-- The parameter a selector names replaced (R193, 11.4). -/
def Params.replace (x : Params) (selector value : Nat) : Params :=
  match selector with
  | 1 => { x with editTimeout := value }
  | 2 => { x with resendInterval := value }
  | 3 => { x with poolWatermark := value }
  | 4 => { x with markerEnable := value == 1 }
  | _ => x

/-- SET_PARAM: a change of the watermark may arm the detector (R193, R41). -/
def State.takeSetParam (selector value : Nat) (s : State) : State × Reply :=
  let t := s.setParams (s.params.replace selector value)
  (if selector = 3 then t.checkArm else t,
    { code := .done, data := [packWord [(s.params.value selector, 0), (t.params.value selector, 16)]] })

/-! ### Hard reset -/

/-- HARD_RESET: every block takes its hard reset values; with the strap high a restore from COLD begins (R176, R186). What the
flash holds stays, and an operation running in it goes on if it stays powered (R170, log 9). The queue of commands and the free
value's counter are the model's own and stay (log 22). -/
def execHardReset (strap flashPowered : Bool) (s : State) : Host.Outcome State Fault Refusal :=
  let f : Flash := { cells := s.flash.cells, device := if flashPowered then s.flash.device else none, op := none }
  let t := ((State.reset.setPending s.pending).setFlash f).setFreeTick s.freeTick
  .next (if strap then t.beginRestore .cold else t)

end Sys2Proof.Machine
end

