-- ==== Sys2Proof/Machine/Ports.lean ====
section
/-! DEFINITION. The two ports (chapter 10): what a command taken does by its kind, the takings that follow a port event, the five
port words, and the commands of the table that come in through a port. -/

namespace Sys2Proof.Machine

/-! ### Taking the front command (R181 to R183) -/

/-- What a command of kind `k` does and answers once its form is right (10.2). -/
def State.perform (p : Port) (k : CmdKind) (args : List Word) (s : State) : State × Reply :=
  match k with
  | .readStatus => (s, s.readStatus)
  | .readRow => (s, s.readRow (namedBy args))
  | .readCopy => (s, s.readCopy (namedBy args))
  | .readProfile => (s, s.readProfile (namedBy args))
  | .listSpans => (s, s.listSpans (namedBy args))
  | .query => (s, s.queryReply (namedBy args) (queryProbe args))
  | .linkStatus => s.linkStatus (namedBy args) ((argAt args 0).getLsbD 16)
  | .openEdit => s.takeOpenEdit p
  | .insert => s.takeInsert p args
  | .amend => s.takeAmend p args
  | .retire => s.takeRetire p args
  | .retireGroup => s.takeRetireGroup p args
  | .defineProfile => s.takeDefineProfile p args
  | .dropProfile => s.takeDropProfile p args
  | .sealSession => s.takeSeal p args
  | .abandon => s.takeAbandon p
  | .touch => s.takeTouch p
  | .switch => s.takeSwitch
  | .withdraw => s.takeWithdraw
  | .save => s.takeSave
  | .abortSave => s.takeAbortSave
  | .restore => s.takeRestore
  | .startEmpty => s.takeStartEmpty
  | .hold => s.takeHold
  | .resume => s.takeResume
  | .clearAll => s.takeClearAll
  | .resetLink => s.takeResetLink (namedBy args)
  | .setParam => s.takeSetParam (bitsAt (argAt args 0) 24 8) (bitsAt (argAt args 0) 0 16)

/-- An edit command taken from the owner port restarts the idle timer, a refusal of form included (R59, R182, R185). -/
def State.restartFor (p : Port) (q : QueuedCommand) (s : State) : State :=
  match q.kind with
  | none => s
  | some k => if k.isEdit then s.restartTimer p else s

/-- The command's effect and its reply: its form is checked first (R182). -/
def State.carryOut (p : Port) (q : QueuedCommand) (s : State) : State × Reply :=
  match q.formError, q.kind with
  | some c, _ => (s, .bare c)
  | none, some k => s.perform p k q.args
  | none, none => (s, .bare .badCommand)

/-- Command `q`, at the front of port `p`, is taken: its words leave, it is checked and carried out, and its response is placed
(R181, R183). -/
def State.takeCommand (p : Port) (q : QueuedCommand) (s : State) : State :=
  let r := ((s.popCommand p).restartFor p q).carryOut p q
  r.1.respond p (headerSeq q.header) r.2

/-- The front command of a port if it is to be taken now: ready, with room for its response, and not a QUERY that waits for the
lookup engine (R181). -/
def PortState.takeable (x : PortState) : Option QueuedCommand :=
  match x.commands.head? with
  | none => none
  | some q =>
    if q.ready = true ∧ x.hasRoom q = true ∧ ¬(q.kind = some .query ∧ q.formError = none) then some q else none

/-- The takings that follow one event at a port, each front command in its turn (R181, log 2). -/
def State.takings : Nat → Port → State → State
  | 0, _, s => s
  | n + 1, p, s =>
    match (s.port p).takeable with
    | none => s
    | some q => State.takings n p (s.takeCommand p q)

/-- Every command of the port that can be taken now is taken. -/
def State.takeAll (p : Port) (s : State) : State := State.takings (s.port p).commands.length p s

/-! ### Words into the command FIFO (R184, R185) -/

/-- A word joins the FIFO: the next word of an incomplete command at the tail, else the header of a new command. -/
def joinWord (w : Word) : List QueuedCommand → List QueuedCommand
  | [] => [{ words := [w], cut := false, released := false }]
  | q :: [] =>
    if q.incomplete then [{ q with words := q.words ++ [w] }]
    else [q, { words := [w], cut := false, released := false }]
  | q :: r :: qs => q :: joinWord w (r :: qs)

/-- The tail command takes the cut mark if it is incomplete. -/
def cutTail : List QueuedCommand → List QueuedCommand
  | [] => []
  | q :: [] => [if q.incomplete then { q with cut := true } else q]
  | q :: r :: qs => q :: cutTail (r :: qs)

/-- A word is offered to the command FIFO (R184). -/
def State.offerWord (p : Port) (w : Word) (s : State) : State :=
  let x := s.port p
  if x.overflow then s
  else if x.wordCount < Config.fifoWords then s.putPort p { x with commands := joinWord w x.commands }
  else (s.putPort p { x with overflow := true, commands := cutTail x.commands }).raise (.cmdOverflow p)

/-- A write to command in, with the takings it makes possible (R184, R181). -/
def State.writeCommandIn (p : Port) (w : Word) (s : State) : State := (s.offerWord p w).takeAll p

/-- A cut command may be taken once a resynchronise request has come (R184, R185). -/
def QueuedCommand.release (q : QueuedCommand) : QueuedCommand := if q.cut then { q with released := true } else q

/-- A resynchronise request (R185). -/
def State.resynchronise (p : Port) (s : State) : State :=
  let x := s.port p
  (s.putPort p { x with overflow := false, commands := (cutTail x.commands).map QueuedCommand.release }).takeAll p

/-- The words of a command written to command in, one event each. -/
def State.writeWords (p : Port) : List Word → State → State
  | [], s => s
  | w :: ws, s => State.writeWords p ws (s.writeCommandIn p w)

/-- A whole command written at a port: its header, then its argument words (R180, log 1). -/
def State.deliver (p : Port) (kind : Byte) (seq : Half) (args : List Word) (s : State) : State :=
  s.writeWords p (headerWord kind (args.length + 1) seq :: args)

/-! ### The port words as commands of the table -/

/-- COMMAND_IN (R184). -/
def execCommandIn (p : Port) (w : Word) (s : State) : Host.Outcome State Fault Refusal := .next (s.writeCommandIn p w)

/-- A read of response out: the oldest word leaves and room may let a command be taken; with the FIFO empty the idle value is read.
The word read is left in `readData` (R178, log 14). -/
def State.readResponse (p : Port) (s : State) : State :=
  match (s.port p).responses with
  | [] => s.putPort p { s.port p with readData := 0#32 }
  | w :: ws => (s.putPort p { s.port p with responses := ws, readData := w }).takeAll p

/-- RESPONSE_OUT (R178). -/
def execResponseOut (p : Port) (s : State) : Host.Outcome State Fault Refusal := .next (s.readResponse p)

/-- PORT_STATUS (R185): whatever the value written. -/
def execPortStatus (p : Port) (_w : Word) (s : State) : Host.Outcome State Fault Refusal := .next (s.resynchronise p)

/-- EVENTS (R195): the set is shared, whichever port writes; bits 31 to 12 are ignored (11.3). -/
def execEvents (_p : Port) (w : Word) (s : State) : Host.Outcome State Fault Refusal :=
  .next (s.setEventSet (s.eventSet.clear (w.extractLsb' 0 12)))

/-- EVENT_MASK (R196): bits 31 to 12 are ignored (11.3). -/
def execEventMask (p : Port) (w : Word) (s : State) : Host.Outcome State Fault Refusal :=
  .next (s.putMask p (w.extractLsb' 0 12))

/-- REGISTER_WRITE_IGNORED (R178): a write to response out changes nothing. -/
def execRegisterWriteIgnored (_p : Port) (_w : Word) (s : State) : Host.Outcome State Fault Refusal := .next s

/-! ### Service port transactions (R179, 11.3) -/

/-- One whole word of a transaction: a read or a write of a port word. -/
inductive WordEvent where
  | read (w : PortWord)
  | write (w : PortWord) (v : Word)
  deriving DecidableEq, Repr

/-- The row of the table that a word event is. A read of a word other than response out changes nothing and has no row
(R178, log 24). -/
def WordEvent.row? (p : Port) : WordEvent → Option Instr
  | .read .responseOut => some (.responseOut p)
  | .read .commandIn => none
  | .read .portStatus => none
  | .read .events => none
  | .read .eventMask => none
  | .write .commandIn v => some (.commandIn p v)
  | .write .responseOut v => some (.registerWriteIgnored p v)
  | .write .portStatus v => some (.portStatus p v)
  | .write .events v => some (.events p v)
  | .write .eventMask v => some (.eventMask p v)

/-- The number that bits spell, the most significant first (11.3). -/
def ofBits (bs : List Bool) : Nat := bs.foldl (fun v b => 2 * v + flagBit b) 0

/-- The whole words among the bits clocked after the first byte, `got` being the bits of the word in transfer; a word cut short by
the release of the chip select is discarded (R179). -/
def wholeWords : List Bool → List Bool → List Word
  | _, [] => []
  | got, b :: bs =>
    if got.length = 31 then BitVec.ofNat 32 (ofBits (got ++ [b])) :: wholeWords [] bs else wholeWords (got ++ [b]) bs

/-- The word events of a transaction, from all the bits clocked in between assertion and release of the chip select: none when it
ends within its first byte or that byte names no word (R179). -/
def serviceEvents (bits : List Bool) : List WordEvent :=
  if bits.length < 8 then []
  else match serviceFirstByte (BitVec.ofNat 8 (ofBits (bits.take 8))) with
    | none => []
    | some (w, true) => (wholeWords [] (bits.drop 8)).map (fun _ => .read w)
    | some (w, false) => (wholeWords [] (bits.drop 8)).map (.write w)

/-- A word event at a port: the state after it, and the word it shifts out if it is a read (R178, R179). -/
def State.wordEvent (p : Port) (s : State) : WordEvent → State × List Word
  | .read .responseOut => (s.readResponse p, [s.readPortWord p .responseOut])
  | .read .commandIn => (s, [s.readPortWord p .commandIn])
  | .read .portStatus => (s, [s.readPortWord p .portStatus])
  | .read .events => (s, [s.readPortWord p .events])
  | .read .eventMask => (s, [s.readPortWord p .eventMask])
  | .write .commandIn v => (s.writeCommandIn p v, [])
  | .write .responseOut _ => (s, [])
  | .write .portStatus _ => (s.resynchronise p, [])
  | .write .events v => (s.setEventSet (s.eventSet.clear (v.extractLsb' 0 12)), [])
  | .write .eventMask v => (s.putMask p (v.extractLsb' 0 12), [])

/-- Word events in order, with the words they shift out. -/
def State.wordEvents (p : Port) : List WordEvent → State → State × List Word
  | [], s => (s, [])
  | e :: es, s =>
    let a := s.wordEvent p e
    let r := State.wordEvents p es a.1
    (r.1, a.2 ++ r.2)

/-- A service port transaction, when no other event comes between its words: the state after it and the words shifted out
(R179). -/
def State.serviceTransaction (bits : List Bool) (s : State) : State × List Word :=
  State.wordEvents .service (serviceEvents bits) s

/-- A transaction as commands of the table: its rows join the queue in their order, so that other commands may come between
them (R179, log 24). -/
def State.queueTransaction (bits : List Bool) (s : State) : State :=
  s.setPending (s.pending ++ (serviceEvents bits).filterMap (WordEvent.row? .service))

/-! ### Software commands -/

/-- UNKNOWN_COMMAND (R182 step 1). -/
def execUnknownCommand (p : Port) (kind : Byte) (seq : Half) (args : List Word) (s : State) :
    Host.Outcome State Fault Refusal := .next (s.deliver p kind seq args)

/-- READ_STATUS written whole at a port (R191; its taking is `State.perform`). -/
def execReadStatus (p : Port) (seq : Half) (args : List Word) (s : State) : Host.Outcome State Fault Refusal :=
  .next (s.deliver p CmdKind.readStatus.code seq args)

/-- READ_ROW written whole at a port (R10; its taking is `State.perform`). -/
def execReadRow (p : Port) (seq : Half) (args : List Word) (s : State) : Host.Outcome State Fault Refusal :=
  .next (s.deliver p CmdKind.readRow.code seq args)

/-- READ_COPY written whole at a port (R44; its taking is `State.perform`). -/
def execReadCopy (p : Port) (seq : Half) (args : List Word) (s : State) : Host.Outcome State Fault Refusal :=
  .next (s.deliver p CmdKind.readCopy.code seq args)

/-- READ_PROFILE written whole at a port (R56; its taking is `State.perform`). -/
def execReadProfile (p : Port) (seq : Half) (args : List Word) (s : State) : Host.Outcome State Fault Refusal :=
  .next (s.deliver p CmdKind.readProfile.code seq args)

/-- LIST_SPANS written whole at a port (R10; its taking is `State.perform`). -/
def execListSpans (p : Port) (seq : Half) (args : List Word) (s : State) : Host.Outcome State Fault Refusal :=
  .next (s.deliver p CmdKind.listSpans.code seq args)

/-- LINK_STATUS written whole at a port (R122; its taking is `State.perform`). -/
def execLinkStatus (p : Port) (seq : Half) (args : List Word) (s : State) : Host.Outcome State Fault Refusal :=
  .next (s.deliver p CmdKind.linkStatus.code seq args)

/-- OPEN_EDIT written whole at a port (R60; its taking is `State.perform`). -/
def execOpenEdit (p : Port) (seq : Half) (args : List Word) (s : State) : Host.Outcome State Fault Refusal :=
  .next (s.deliver p CmdKind.openEdit.code seq args)

/-- INSERT written whole at a port (R64, R65; its taking is `State.perform`). -/
def execInsert (p : Port) (seq : Half) (args : List Word) (s : State) : Host.Outcome State Fault Refusal :=
  .next (s.deliver p CmdKind.insert.code seq args)

/-- AMEND written whole at a port (R67, R68; its taking is `State.perform`). -/
def execAmend (p : Port) (seq : Half) (args : List Word) (s : State) : Host.Outcome State Fault Refusal :=
  .next (s.deliver p CmdKind.amend.code seq args)

/-- RETIRE written whole at a port (R70; its taking is `State.perform`). -/
def execRetire (p : Port) (seq : Half) (args : List Word) (s : State) : Host.Outcome State Fault Refusal :=
  .next (s.deliver p CmdKind.retire.code seq args)

/-- RETIRE_GROUP written whole at a port (R73; its taking is `State.perform`). -/
def execRetireGroup (p : Port) (seq : Half) (args : List Word) (s : State) : Host.Outcome State Fault Refusal :=
  .next (s.deliver p CmdKind.retireGroup.code seq args)

/-- DEFINE_PROFILE written whole at a port (R49; its taking is `State.perform`). -/
def execDefineProfile (p : Port) (seq : Half) (args : List Word) (s : State) : Host.Outcome State Fault Refusal :=
  .next (s.deliver p CmdKind.defineProfile.code seq args)

/-- DROP_PROFILE written whole at a port (R50; its taking is `State.perform`). -/
def execDropProfile (p : Port) (seq : Half) (args : List Word) (s : State) : Host.Outcome State Fault Refusal :=
  .next (s.deliver p CmdKind.dropProfile.code seq args)

/-- SEAL written whole at a port (R81, R82; its taking is `State.perform`). -/
def execSealSession (p : Port) (seq : Half) (args : List Word) (s : State) : Host.Outcome State Fault Refusal :=
  .next (s.deliver p CmdKind.sealSession.code seq args)

/-- ABANDON written whole at a port (R78; its taking is `State.perform`). -/
def execAbandon (p : Port) (seq : Half) (args : List Word) (s : State) : Host.Outcome State Fault Refusal :=
  .next (s.deliver p CmdKind.abandon.code seq args)

/-- TOUCH written whole at a port (R80; its taking is `State.perform`). -/
def execTouch (p : Port) (seq : Half) (args : List Word) (s : State) : Host.Outcome State Fault Refusal :=
  .next (s.deliver p CmdKind.touch.code seq args)

/-- SWITCH written whole at a port (R91; its taking is `State.perform`). -/
def execSwitch (p : Port) (seq : Half) (args : List Word) (s : State) : Host.Outcome State Fault Refusal :=
  .next (s.deliver p CmdKind.switch.code seq args)

/-- WITHDRAW written whole at a port (R101; its taking is `State.perform`). -/
def execWithdraw (p : Port) (seq : Half) (args : List Word) (s : State) : Host.Outcome State Fault Refusal :=
  .next (s.deliver p CmdKind.withdraw.code seq args)

/-- SAVE written whole at a port (R163; its taking is `State.perform`). -/
def execSave (p : Port) (seq : Half) (args : List Word) (s : State) : Host.Outcome State Fault Refusal :=
  .next (s.deliver p CmdKind.save.code seq args)

/-- ABORT_SAVE written whole at a port (R169; its taking is `State.perform`). -/
def execAbortSave (p : Port) (seq : Half) (args : List Word) (s : State) : Host.Outcome State Fault Refusal :=
  .next (s.deliver p CmdKind.abortSave.code seq args)

/-- RESTORE written whole at a port (R171; its taking is `State.perform`). -/
def execRestore (p : Port) (seq : Half) (args : List Word) (s : State) : Host.Outcome State Fault Refusal :=
  .next (s.deliver p CmdKind.restore.code seq args)

/-- START_EMPTY written whole at a port (R187; its taking is `State.perform`). -/
def execStartEmpty (p : Port) (seq : Half) (args : List Word) (s : State) : Host.Outcome State Fault Refusal :=
  .next (s.deliver p CmdKind.startEmpty.code seq args)

/-- HOLD written whole at a port (R188; its taking is `State.perform`). -/
def execHold (p : Port) (seq : Half) (args : List Word) (s : State) : Host.Outcome State Fault Refusal :=
  .next (s.deliver p CmdKind.hold.code seq args)

/-- RESUME written whole at a port (R188; its taking is `State.perform`). -/
def execResume (p : Port) (seq : Half) (args : List Word) (s : State) : Host.Outcome State Fault Refusal :=
  .next (s.deliver p CmdKind.resume.code seq args)

/-- CLEAR_ALL written whole at a port (R189, R190; its taking is `State.perform`). -/
def execClearAll (p : Port) (seq : Half) (args : List Word) (s : State) : Host.Outcome State Fault Refusal :=
  .next (s.deliver p CmdKind.clearAll.code seq args)

/-- RESET_LINK written whole at a port (R116; its taking is `State.perform`). -/
def execResetLink (p : Port) (seq : Half) (args : List Word) (s : State) : Host.Outcome State Fault Refusal :=
  .next (s.deliver p CmdKind.resetLink.code seq args)

/-- SET_PARAM written whole at a port (R193; its taking is `State.perform`). -/
def execSetParam (p : Port) (seq : Half) (args : List Word) (s : State) : Host.Outcome State Fault Refusal :=
  .next (s.deliver p CmdKind.setParam.code seq args)

/-- QUERY (R127, R140): a taking event in which the engine selects a port's QUERY; the port's later commands may follow
(R181, log 3). -/
def execQuery (s : State) : Host.Outcome State Fault Refusal :=
  .next (match s.selected with
    | none => s
    | some k =>
      if k < Config.links then s
      else match s.portOffers (requesterPort k) with
        | none => s
        | some q => ((s.takeCommand (requesterPort k) q).passEngine k).takeAll (requesterPort k))

end Sys2Proof.Machine
end

