-- ==== Sys2Proof/Machine/Dispatch.lean ====
section
/-! DEFINITION. One arm per command: the command's effect on everything but the queue. -/

namespace Sys2Proof.Machine

def exec (i : Instr) (s : State) : Host.Outcome State Fault Refusal :=
  match i with
  | .hardReset strap flashPowered => Sys2Proof.Machine.execHardReset strap flashPowered s
  | .commandIn p w => Sys2Proof.Machine.execCommandIn p w s
  | .responseOut p => Sys2Proof.Machine.execResponseOut p s
  | .portStatus p w => Sys2Proof.Machine.execPortStatus p w s
  | .events p w => Sys2Proof.Machine.execEvents p w s
  | .eventMask p w => Sys2Proof.Machine.execEventMask p w s
  | .registerWriteIgnored p w => Sys2Proof.Machine.execRegisterWriteIgnored p w s
  | .unknownCommand p kind seq args => Sys2Proof.Machine.execUnknownCommand p kind seq args s
  | .readStatus p seq args => Sys2Proof.Machine.execReadStatus p seq args s
  | .readRow p seq args => Sys2Proof.Machine.execReadRow p seq args s
  | .readCopy p seq args => Sys2Proof.Machine.execReadCopy p seq args s
  | .readProfile p seq args => Sys2Proof.Machine.execReadProfile p seq args s
  | .listSpans p seq args => Sys2Proof.Machine.execListSpans p seq args s
  | .query => Sys2Proof.Machine.execQuery s
  | .linkStatus p seq args => Sys2Proof.Machine.execLinkStatus p seq args s
  | .openEdit p seq args => Sys2Proof.Machine.execOpenEdit p seq args s
  | .insert p seq args => Sys2Proof.Machine.execInsert p seq args s
  | .amend p seq args => Sys2Proof.Machine.execAmend p seq args s
  | .retire p seq args => Sys2Proof.Machine.execRetire p seq args s
  | .retireGroup p seq args => Sys2Proof.Machine.execRetireGroup p seq args s
  | .defineProfile p seq args => Sys2Proof.Machine.execDefineProfile p seq args s
  | .dropProfile p seq args => Sys2Proof.Machine.execDropProfile p seq args s
  | .sealSession p seq args => Sys2Proof.Machine.execSealSession p seq args s
  | .abandon p seq args => Sys2Proof.Machine.execAbandon p seq args s
  | .touch p seq args => Sys2Proof.Machine.execTouch p seq args s
  | .switch p seq args => Sys2Proof.Machine.execSwitch p seq args s
  | .withdraw p seq args => Sys2Proof.Machine.execWithdraw p seq args s
  | .save p seq args => Sys2Proof.Machine.execSave p seq args s
  | .abortSave p seq args => Sys2Proof.Machine.execAbortSave p seq args s
  | .restore p seq args => Sys2Proof.Machine.execRestore p seq args s
  | .startEmpty p seq args => Sys2Proof.Machine.execStartEmpty p seq args s
  | .hold p seq args => Sys2Proof.Machine.execHold p seq args s
  | .resume p seq args => Sys2Proof.Machine.execResume p seq args s
  | .clearAll p seq args => Sys2Proof.Machine.execClearAll p seq args s
  | .resetLink p seq args => Sys2Proof.Machine.execResetLink p seq args s
  | .setParam p seq args => Sys2Proof.Machine.execSetParam p seq args s
  | .linkWord n w => Sys2Proof.Machine.execLinkWord n w s
  | .receiverLockGained n => Sys2Proof.Machine.execReceiverLockGained n s
  | .receiverLockLost n => Sys2Proof.Machine.execReceiverLockLost n s
  | .hello n tag level => Sys2Proof.Machine.execHello n tag level s
  | .fetch n tag channel probe => Sys2Proof.Machine.execFetch n tag channel probe s
  | .fetchProfile n tag slot first => Sys2Proof.Machine.execFetchProfile n tag slot first s
  | .watch n tag channel => Sys2Proof.Machine.execWatch n tag channel s
  | .unwatch n tag row => Sys2Proof.Machine.execUnwatch n tag row s
  | .ackNotice n row epoch => Sys2Proof.Machine.execAckNotice n row epoch s
  | .ackResync n number => Sys2Proof.Machine.execAckResync n number s
  | .fetchTaken => Sys2Proof.Machine.execFetchTaken s
  | .fetchProfileTaken => Sys2Proof.Machine.execFetchProfileTaken s
  | .watchTaken => Sys2Proof.Machine.execWatchTaken s
  | .unwatchTaken => Sys2Proof.Machine.execUnwatchTaken s
  | .welcomeEnd n => Sys2Proof.Machine.execWelcomeEnd n s
  | .answerEnd n => Sys2Proof.Machine.execAnswerEnd n s
  | .promptRefusalEnd n => Sys2Proof.Machine.execPromptRefusalEnd n s
  | .noticeEnd n => Sys2Proof.Machine.execNoticeEnd n s
  | .resyncEnd n => Sys2Proof.Machine.execResyncEnd n s
  | .resendTimerExpiry n => Sys2Proof.Machine.execResendTimerExpiry n s
  | .idleTimerExpiry => Sys2Proof.Machine.execIdleTimerExpiry s
  | .markerArrival => Sys2Proof.Machine.execMarkerArrival s
  | .identificationDone => Sys2Proof.Machine.execIdentificationDone s
  | .flashAbsent => Sys2Proof.Machine.execFlashAbsent s
  | .pageReadDone changes => Sys2Proof.Machine.execPageReadDone changes s
  | .bankEraseDone => Sys2Proof.Machine.execBankEraseDone s
  | .eraseTimeout => Sys2Proof.Machine.execEraseTimeout s
  | .pageProgramDone changes => Sys2Proof.Machine.execPageProgramDone changes s
  | .programTimeout => Sys2Proof.Machine.execProgramTimeout s

end Sys2Proof.Machine
end

