-- ==== Sys2Proof/Machine/Step.lean ====
section
/-! DEFINITION. One step: the command at the front of the queue, or one link-word time when the queue is empty. -/

namespace Sys2Proof.Machine

/-- One link-word time: every transmitter with a frame in progress puts its next word on the line (R104, R118, log 6). -/
def State.wordTime (s : State) : State := s.setLinks (Table.mapValues Link.advance s.links)

/-- One step (log 6). -/
def step (s : State) : Host.Outcome State Fault Refusal :=
  match s.pending with
  | [] => .next s.wordTime
  | c :: cs => exec c (s.setPending cs)

/-- The state with the command that a word spells put at the front of its queue; unchanged where the word spells none
(log 11). -/
def State.withFetchWord (s : State) (nbits w : Nat) : State :=
  match decodeTableWord nbits w with
  | none => s
  | some c => s.setPending (c :: s.pending)

end Sys2Proof.Machine
end

