-- ==== Sys2Proof/Safety.lean ====
section
/-! DEFINITION. What a safe run of the part keeps, and the conditions on a state that the statements speak of. -/

namespace Sys2Proof.Machine

/-! ### Conditions -/

/-- A port with an empty command FIFO, its overflow flag clear, and room for the largest response of a command of kind `k`:
a command of that kind written to it is taken with its last word (R181). -/
structure State.Ready (s : State) (p : Port) (k : CmdKind) : Prop where
  empty : (s.port p).commands = []
  clear : (s.port p).overflow = false
  room : (s.port p).responses.length + (1 + k.maxData) ≤ Config.fifoWords

/-- Port `p` owns the open session `x`, and the operating state lets edit commands through (R59). -/
structure State.Owns (s : State) (p : Port) (x : Session) : Prop where
  working : s.opState.working = true
  session : s.session = some x
  owner : x.owner = p

/-- The response placed at a port, as its words: the header, then the data (R183). -/
def State.answered (s : State) (p : Port) (seq : Half) (c : Code) (data : List Word) : State :=
  s.respond p seq { code := c, data := data }

/-- The edit idle timer as an edit command of the owner leaves it (R75). -/
def State.timerRestarted (s : State) (x : Session) : State :=
  s.setSession (some { x with timer := s.params.editTimeout })

/-- The session of owner `p` with the change set `items`, its idle timer just restarted (R58, R75). -/
def State.withItems (s : State) (p : Port) (items : List ChangeItem) : State :=
  s.setSession (some { owner := p, timer := s.params.editTimeout, items := items })

/-- The edit idle timer as any command of kind `k` at port `p` leaves it: restarted by an edit command of the owner (R59, R75). -/
def State.restartedBy (s : State) (p : Port) (k : CmdKind) : State := if k.isEdit then s.restartTimer p else s

/-- The command of the table that a kind names. QUERY's row is its taking. -/
def commandOf (p : Port) (seq : Half) (args : List Word) : CmdKind → Instr
  | .readStatus => .readStatus p seq args | .readRow => .readRow p seq args | .readCopy => .readCopy p seq args
  | .readProfile => .readProfile p seq args | .listSpans => .listSpans p seq args | .query => .query
  | .linkStatus => .linkStatus p seq args | .openEdit => .openEdit p seq args | .insert => .insert p seq args
  | .amend => .amend p seq args | .retire => .retire p seq args | .retireGroup => .retireGroup p seq args
  | .defineProfile => .defineProfile p seq args | .dropProfile => .dropProfile p seq args
  | .sealSession => .sealSession p seq args | .abandon => .abandon p seq args | .touch => .touch p seq args
  | .switch => .switch p seq args | .withdraw => .withdraw p seq args | .save => .save p seq args
  | .abortSave => .abortSave p seq args | .restore => .restore p seq args | .startEmpty => .startEmpty p seq args
  | .hold => .hold p seq args | .resume => .resume p seq args | .clearAll => .clearAll p seq args
  | .resetLink => .resetLink p seq args | .setParam => .setParam p seq args

/-- `r` is the lowest FREE row id (R11). -/
structure State.FirstFreeRow (s : State) (r : Nat) : Prop where
  inRange : r < Config.rows
  isFree : (s.row r).phase = .free
  lower : ∀ j < r, (s.row j).phase ≠ .free

/-- `c` is the lowest FREE copy id (R29). -/
structure State.FirstFreeCopy (s : State) (c : Nat) : Prop where
  inRange : c < Config.copies
  isFree : (s.copy c).state = .free
  lower : ∀ j < c, (s.copy j).state ≠ .free

/-- A link controller after postings taken in order (R146). -/
def Link.afterPostings (l : Link) (xs : List Notice) : Link := xs.foldl (fun l x => (l.takePosting x).1) l

/-- One of the postings, taken in order, overflows the link's notice queue (R146, R147). -/
def Link.overflowsOn : Link → List Notice → Bool
  | _, [] => false
  | l, x :: xs => (l.takePosting x).2 || (l.takePosting x).1.overflowsOn xs

/-- The postings of a list that go to link `n`, in order (R97). -/
def postingsFor (n : Nat) (ps : List (Nat × Notice)) : List Notice := ps.filterMap (fun y => if y.1 = n then some y.2 else none)

/-- The state that a command leaves; a command never stops the part. -/
def State.ran (s : State) (i : Instr) : State :=
  match exec i s with
  | .next t => t
  | .fault _ => s
  | .refused _ => s

/-- Bits of a word as the service port moves them, the most significant first (11.3). -/
def bitsOf {n : Nat} (v : BitVec n) : List Bool := (List.range n).map (fun i => v.getLsbD (n - 1 - i))

/-- Everything that is not the directory, the pool, the profile table, the session, the links, the event set or a port's FIFOs
is the same in both states. -/
structure State.SameControl (s t : State) : Prop where
  pending : t.pending = s.pending
  epoch : t.epoch = s.epoch
  markerCount : t.markerCount = s.markerCount
  switchRecord : t.switchRecord = s.switchRecord
  engine : t.engine = s.engine
  snap : t.snap = s.snap
  flash : t.flash = s.flash
  opState : t.opState = s.opState
  hostMask : t.hostMask = s.hostMask
  serviceMask : t.serviceMask = s.serviceMask
  params : t.params = s.params
  freeTick : t.freeTick = s.freeTick

/-- The ports and the masks are the same in both states. -/
structure State.SamePorts (s t : State) : Prop where
  host : t.host = s.host
  service : t.service = s.service
  hostMask : t.hostMask = s.hostMask
  serviceMask : t.serviceMask = s.serviceMask

/-- Row `r` is named by an item of the list (R62). -/
def namesRow (items : List ChangeItem) (r : Nat) : Prop := .insert r ∈ items ∨ .amend r ∈ items ∨ .retire r ∈ items

/-- The rows that the items of a list name, in order (R62). -/
def rowsNamed (items : List ChangeItem) : List Nat := items.filterMap ChangeItem.row?

/-- An item of the change set after a RETIRE_GROUP of the rows `rs`: an AMEND item of one of them is a RETIRE item (R73). -/
def ChangeItem.retiredBy (rs : List Nat) : ChangeItem → ChangeItem
  | .amend r => if r ∈ rs then .retire r else .amend r
  | .insert r => .insert r
  | .retire r => .retire r
  | .defineProfile k => .defineProfile k

/-- The live copies that the switch of a set supersedes, in the order of its items (R34). -/
def State.outgoing (s : State) (items : List ChangeItem) : List Nat :=
  (rowsNamed items).filterMap (fun r => (s.row r).supersedes)

/-- The postings that the switch of the set `st` makes to link `n`, in order (R97). -/
def State.switchPostings (s : State) (st : StagedSet) (n : Nat) : List Notice :=
  postingsFor n (st.items.flatMap (s.postingsOf (s.epoch + 1)))

/-- What the switch of the set `st` leaves (R92 to R99, R16, R17, R33, R34, R39, R41, R51, R146, R147, R194). With several links that
overflow, the one named as cause detail is a free value (log 12). -/
structure State.SwitchedTo (s : State) (trig : Trigger) (st : StagedSet) (t : State) : Prop where
  epoch : t.epoch = s.epoch + 1
  staged : t.staged = none
  raised : t.eventSet.set.getLsbD 0 = true
  events : (∀ n, (s.link n).overflowsOn (s.switchPostings st n) = false) →
    t.eventSet = { s.eventSet with set := s.eventSet.set ||| 0x001#12 }
  overflow : (∃ n, (s.link n).overflowsOn (s.switchPostings st n) = true) →
    ∃ n, (s.link n).overflowsOn (s.switchPostings st n) = true ∧
      t.eventSet = { s.eventSet with set := s.eventSet.set ||| 0x201#12, noticeOverflow := some n }
  slots : ∀ k, (s.slot k).state = .staged → (t.slot k).state = .active ∧ (t.slot k).activated = some (s.epoch + 1) ∧
    (t.slot k).points = (s.slot k).points
  otherSlots : ∀ k, (s.slot k).state ≠ .staged → (t.slot k).state = (s.slot k).state ∧
    (t.slot k).activated = (s.slot k).activated ∧ (t.slot k).points = (s.slot k).points ∧
    (t.slot k).readerCount = (s.slot k).readerCount
  activated : ∀ c, (s.copy c).state = .staged → (∀ r, namesRow st.items r → (s.row r).supersedes ≠ some c) →
    t.copy c = { s.copy c with state := .live, activated := some (s.epoch + 1) }
  superseded : ∀ r c, namesRow st.items r → (s.row r).supersedes = some c → (s.copy c).state = .live →
    t.copy c = if (s.copy c).fetchPins = 0 ∧ (s.copy c).snapPin = false then Copy.free
      else { s.copy c with state := .superseded, supersededAt := some (s.epoch + 1) }
  otherCopies : ∀ c, (s.copy c).state ≠ .staged → (∀ r, namesRow st.items r → (s.row r).supersedes ≠ some c) →
    t.copy c = s.copy c
  list : ∃ base tail, t.superseded = base ++ tail ∧ base.Sublist s.superseded ∧ tail.Pairwise (fun c d => c ≤ d) ∧
    ∀ c, c ∈ tail ↔ (t.copy c).state = .superseded ∧ ∃ r, namesRow st.items r ∧ (s.row r).supersedes = some c
  madeLive : ∀ r, namesRow st.items r → (s.row r).phase = .newStaged → t.row r =
    { s.row r with phase := .live, born := some (s.epoch + 1), live := (s.row r).staged, staged := none }
  amended : ∀ r c, namesRow st.items r → (s.row r).phase = .live → (s.row r).staged = some c →
    t.row r = { s.row r with live := some c, staged := none }
  retired : ∀ r, namesRow st.items r → (s.row r).phase = .dying →
    ((∃ c, (t.copy c).owner = some r) →
      t.row r = { s.row r with phase := .dead, live := none, dies := some (s.epoch + 1), watch := [] }) ∧
    ((∀ c, (t.copy c).owner ≠ some r) → t.row r = Row.free)
  otherRows : ∀ r, ¬ namesRow st.items r → t.row r = s.row r
  record : ∃ x, t.switchRecord = some x ∧ x.epoch = s.epoch + 1 ∧ x.trigger = trig ∧ x.markerCount = s.markerCount ∧
    x.madeLive = st.items.countP ChangeItem.isInsert ∧ x.amended = st.items.countP ChangeItem.isAmend ∧
    x.retired = st.items.countP ChangeItem.isRetire ∧ x.profilesActivated = st.items.countP ChangeItem.isDefine ∧
    x.postings = (st.items.flatMap (s.postingsOf (s.epoch + 1))).length ∧
    x.leftDead = (rowsNamed st.items).countP
      (fun r => decide ((s.row r).phase = .dying) && decide ((t.row r).phase = .dead)) ∧
    x.copiesFreed = (s.outgoing st.items).countP (fun c => (s.copy c).unpinned) ∧ t.freeCount = s.freeCount + x.copiesFreed
  index : t.spanIndex = s.spanIndex.filter
    (fun it => !(decide (it.row ∈ rowsNamed st.items) && decide ((s.row it.row).phase = .dying) &&
      decide ((t.row it.row).phase = .free)))
  references : (s.outgoing st.items).Nodup → ∀ k, (t.slot k).refCount = (s.slot k).refCount -
    (s.outgoing st.items).countP (fun c => (s.copy c).unpinned && decide ((s.copy c).profile = some k))
  armed : t.lowArmed =
    if (s.outgoing st.items).any (fun c => (s.copy c).unpinned) = true ∧ s.params.poolWatermark ≤ t.freeCount then true
    else s.lowArmed
  watchCounts : (rowsNamed st.items).Nodup → ∀ n, (t.link n).watchCount = (s.link n).watchCount -
    ((rowsNamed st.items).map (fun r => if (s.row r).phase = .dying then (s.row r).watch.count n else 0)).sum
  queues : ∀ n, ∃ l, l = (s.link n).afterPostings (s.switchPostings st n) ∧
    (t.link n).notices = l.notices ∧ (t.link n).resyncFlag = l.resyncFlag ∧ (t.link n).resyncNumber = l.resyncNumber ∧
    (t.link n).sendCount = l.sendCount ∧ (t.link n).timer = l.timer
  links : ∀ n, (t.link n).state = (s.link n).state ∧ (t.link n).rx = (s.link n).rx ∧ (t.link n).errors = (s.link n).errors ∧
    (t.link n).locked = (s.link n).locked ∧ (t.link n).badCount = (s.link n).badCount ∧
    (t.link n).prompts = (s.link n).prompts ∧ (t.link n).welcome = (s.link n).welcome
  session : t.session = s.session
  markerCount : t.markerCount = s.markerCount
  opState : t.opState = s.opState
  params : t.params = s.params
  snap : t.snap = s.snap
  flash : t.flash = s.flash
  engine : t.engine = s.engine
  pending : t.pending = s.pending
  ports : s.SamePorts t

/-- Everything but the operating state, the event set, the snapshot unit's fields and the flash interface is the same in both
states. -/
structure State.SameStores (s t : State) : Prop where
  rows : t.rows = s.rows
  index : t.spanIndex = s.spanIndex
  copies : t.copies = s.copies
  free : t.freeCount = s.freeCount
  superseded : t.superseded = s.superseded
  armed : t.lowArmed = s.lowArmed
  slots : t.slots = s.slots
  session : t.session = s.session
  epoch : t.epoch = s.epoch
  staged : t.staged = s.staged
  markerCount : t.markerCount = s.markerCount
  switchRecord : t.switchRecord = s.switchRecord
  links : t.links = s.links
  engine : t.engine = s.engine
  params : t.params = s.params
  pending : t.pending = s.pending
  freeTick : t.freeTick = s.freeTick
  ports : s.SamePorts t

/-- Everything but the directory, the pool, the profile table, the links, the engine's pointer and the event set is the same in
both states. -/
structure State.SameOutside (s t : State) : Prop where
  pending : t.pending = s.pending
  session : t.session = s.session
  epoch : t.epoch = s.epoch
  staged : t.staged = s.staged
  markerCount : t.markerCount = s.markerCount
  switchRecord : t.switchRecord = s.switchRecord
  snap : t.snap = s.snap
  flash : t.flash = s.flash
  opState : t.opState = s.opState
  params : t.params = s.params
  freeTick : t.freeTick = s.freeTick
  ports : s.SamePorts t

/-! ### Releases -/

/-- The copy is one that the loss of its last pin frees: SUPERSEDED, with at most `k` fetch pins and the snapshot pin clear
(R38). -/
def Copy.lastPins (x : Copy) (k : Nat) : Bool := decide (x.state = .superseded) && decide (x.fetchPins ≤ k) && !x.snapPin

/-- The copy is one that a save's giving up its snapshot pin frees: SUPERSEDED, with no fetch pin (R38, R166). -/
def Copy.lastSnapPin (x : Copy) : Bool := decide (x.state = .superseded) && decide (x.fetchPins = 0) && x.snapPin

/-- Every DEAD row has an empty watch set, as StoresStayConsistent keeps it (R17, R20). -/
def State.DeadUnwatched (s : State) : Prop := ∀ r, (s.row r).phase = .dead → (s.row r).watch = []

/-- What becomes of row `r` when a release frees the copies that `freed` picks, `t` being the state after it: a DEAD row that owned
one of them and owns no copy any more is FREE, its index item gone; every other row is `kept`, and its item stays (R18). -/
def State.RowSettled (s t : State) (freed : Nat → Bool) (r : Nat) (kept : Row) : Prop :=
  ((s.row r).phase = .dead ∧ (∃ c, freed c = true ∧ (s.copy c).owner = some r) ∧ (∀ c, (t.copy c).owner ≠ some r) →
    t.row r = Row.free ∧ ∀ it ∈ t.spanIndex, it.row ≠ r) ∧
  (¬((s.row r).phase = .dead ∧ (∃ c, freed c = true ∧ (s.copy c).owner = some r) ∧ (∀ c, (t.copy c).owner ≠ some r)) →
    t.row r = kept ∧ ∀ it, it.row = r → (it ∈ t.spanIndex ↔ it ∈ s.spanIndex))

/-- How many requests of link `n` are bound to copy `c` (R36). -/
def State.boundTo (s : State) (n c : Nat) : Nat := (s.link n).requests.countP (fun q => decide (q.boundCopy = some c))

/-- How many requests of link `n` read slot `k` (R53). -/
def State.readersOn (s : State) (n k : Nat) : Nat := (s.link n).requests.countP (fun q => decide (q.boundSlot = some k))

/-- The copy is one that a link reset of link `n` frees: the link's requests hold its last pins (R38, R138). -/
def State.freedByReset (s : State) (n c : Nat) : Bool := decide (0 < s.boundTo n c) && (s.copy c).lastPins (s.boundTo n c)

/-- What a link reset of link `n` does to the stores: the link leaves every watch set, and the other links stay in them (R21); each
request's fetch pin and reader count is released, a SUPERSEDED copy left without a pin is freed with its profile's reference, and a DEAD
row left without a copy is FREE again (R114, R36, R38, R39, R48, R53, R18); the other links stay, and so does everything outside the
stores. -/
structure State.LinkReleased (s : State) (n : Nat) (t : State) : Prop where
  watch : ∀ r, n ∉ (t.row r).watch
  copies : ∀ c, t.copy c = if 0 < s.boundTo n c then
    (if (s.copy c).lastPins (s.boundTo n c) then Copy.free
      else { s.copy c with fetchPins := (s.copy c).fetchPins - s.boundTo n c }) else s.copy c
  rows : ∀ r, s.RowSettled t (s.freedByReset n) r
    { s.row r with watch := (s.row r).watch.filter (fun m => decide (m ≠ n)) }
  list : t.superseded = s.superseded.filter (fun c => !s.freedByReset n c)
  counts : ∀ cs : List Nat, cs.Nodup → (∀ c, c ∈ cs ↔ s.freedByReset n c = true) →
    t.freeCount = s.freeCount + cs.length ∧
    ∀ k, (t.slot k).refCount = (s.slot k).refCount - cs.countP (fun c => decide ((s.copy c).profile = some k))
  slots : ∀ k, (t.slot k).readerCount = (s.slot k).readerCount - s.readersOn n k ∧ (t.slot k).state = (s.slot k).state ∧
    (t.slot k).points = (s.slot k).points ∧ (t.slot k).activated = (s.slot k).activated
  others : ∀ m, m ≠ n → t.link m = { s.link m with watchCount := (t.link m).watchCount }
  otherCounts : s.DeadUnwatched → ∀ m, m ≠ n → t.link m = s.link m
  outside : s.SameOutside t

/-- What giving up the snapshot pins of the copies `cs` does to the stores: each of them loses its pin, a SUPERSEDED one left without a
pin is freed and its profile's reference released, and a DEAD row left without a copy is FREE again; every other row stays with its watch
set, and so do the links (R37, R38, R18, R48). -/
structure State.PinsGivenUp (s : State) (cs : List Nat) (t : State) : Prop where
  copies : ∀ c, t.copy c = if c ∈ cs then
    (if (s.copy c).lastSnapPin then Copy.free else { s.copy c with snapPin := false }) else s.copy c
  rows : ∀ r, s.RowSettled t (fun c => decide (c ∈ cs) && (s.copy c).lastSnapPin) r (s.row r)
  list : t.superseded = s.superseded.filter (fun c => !(decide (c ∈ cs) && (s.copy c).lastSnapPin))
  slots : ∀ k, t.slot k = { s.slot k with refCount := (t.slot k).refCount }
  counts : cs.Nodup → t.freeCount = s.freeCount + cs.countP (fun c => (s.copy c).lastSnapPin) ∧
    ∀ k, (t.slot k).refCount = (s.slot k).refCount -
      cs.countP (fun c => (s.copy c).lastSnapPin && decide ((s.copy c).profile = some k))
  links : ∀ n, t.link n = { s.link n with watchCount := (t.link n).watchCount }
  watchCounts : s.DeadUnwatched → ∀ n, t.link n = s.link n

/-! ### Restoring -/

/-- The counts and the saved epoch of a bank header pass the checks made as its loading begins (R173). -/
structure BankHeader.Passes (h : BankHeader) : Prop where
  profiles : h.profileCount ≤ 32
  records : h.recordCount ≤ 1024
  epoch : h.savedEpoch < 4294967295

/-- A bank whose loading fails in the event that begins it: a check of its header fails, or it has no entry and not the check value
of none (R173). -/
def BankHeader.failsAtOnce (h : BankHeader) : Prop :=
  ¬h.Passes ∨ h.profileCount + h.recordCount = 0 ∧ h.bodyCheck ≠ 0xFFFFFFFF#32

/-- What no event of a restore touches but the end of a load at the links (R171 to R175). -/
structure State.SameBesideRestore (s t : State) : Prop where
  pending : t.pending = s.pending
  session : t.session = s.session
  staged : t.staged = s.staged
  markerCount : t.markerCount = s.markerCount
  switchRecord : t.switchRecord = s.switchRecord
  engine : t.engine = s.engine
  params : t.params = s.params
  freeTick : t.freeTick = s.freeTick
  ports : s.SamePorts t

/-- Directory, copy pool and profile table are empty, the detector armed if the watermark allows (R174, R41). -/
structure State.StoresEmpty (t : State) : Prop where
  rows : t.rows = []
  index : t.spanIndex = []
  copies : t.copies = []
  free : t.freeCount = 2560
  superseded : t.superseded = []
  slots : t.slots = []
  armed : t.params.poolWatermark ≤ 2560 → t.lowArmed = true

/-- Loading of bank `bk` with header `h` has begun, `triedA` and `triedB` being the banks tried so far (R173). -/
structure State.LoadBegun (s t : State) (bk : Bank) (h : BankHeader) (triedA triedB : Bool) : Prop where
  phase : t.snap.restorePhase = .loading
  loading : t.snap.loading = some bk
  triedA : t.snap.triedA = triedA
  triedB : t.snap.triedB = triedB
  targetEpoch : t.snap.targetEpoch = some (max s.epoch h.savedEpoch + 1)
  check : t.snap.check = some 0xFFFFFFFF#32
  readPos : t.snap.readPos = some 0
  op : t.flash.op = some (.read bk 1)
  origin : t.snap.origin = s.snap.origin
  last : t.snap.last = s.snap.last
  epoch : t.epoch = s.epoch
  opState : t.opState = s.opState
  links : t.links = s.links
  beside : s.SameBesideRestore t

/-- The restore fields are at their IDLE values (R161). -/
structure Snapshot.RestoreIdle (x : Snapshot) : Prop where
  phase : x.restorePhase = .idle
  origin : x.origin = none
  loading : x.loading = none
  triedA : x.triedA = false
  triedB : x.triedB = false
  targetEpoch : x.targetEpoch = none
  check : x.check = none
  readPos : x.readPos = none

/-- A restore has ended with bank `bk`, at the new epoch `e` (R175, R123, R155). -/
structure State.Restored (s t : State) (bk : Bank) (h : BankHeader) (e : Nat) : Prop where
  epoch : t.epoch = e
  opState : t.opState = .serving
  idle : t.snap.RestoreIdle
  last : t.snap.last = .restoreDone bk h.sequence h.savedEpoch e h.profileCount h.recordCount
  op : t.flash.op = none
  admitted : ∀ n : LinkId, (s.link n).state ≠ .down → (t.link n).state = (s.link n).state ∧ (t.link n).resyncFlag = true ∧
    (t.link n).resyncNumber = ((s.link n).resyncNumber + 1) % 65536 ∧ (t.link n).notices = [] ∧ (t.link n).sendCount = 0 ∧
    (t.link n).timer = .stopped
  down : ∀ n : LinkId, (s.link n).state = .down → (t.link n).state = .down ∧ (t.link n).resyncFlag = (s.link n).resyncFlag ∧
    (t.link n).notices = (s.link n).notices
  beside : s.SameBesideRestore t

/-- A restore has failed with kind `k`, `triedA` and `triedB` being the banks tried (R175). -/
structure State.RestoreFailed (s t : State) (k : FailKind) (triedA triedB : Bool) : Prop where
  cold : s.snap.origin = some .cold → t.opState = .cold
  held : s.snap.origin = some .held → t.opState = .held
  idle : t.snap.RestoreIdle
  last : t.snap.last = .restoreFailed k triedA triedB
  op : t.flash.op = none
  epoch : t.epoch = s.epoch
  links : t.links = s.links
  beside : s.SameBesideRestore t

/-- The event set with RESTORE_FAILED pending too, its kind the newest cause detail (R175, R194). -/
def EventSet.restoreFailedWith (e : EventSet) (k : FailKind) : EventSet :=
  { e with set := e.set ||| 0x020#12, restoreFailed := some k }

/-! ### Saving -/

/-- The save has gone on to its next page, in phase `ph`, and programs `bytes` there (R165, R166, R167). -/
structure State.PageBegun (t : State) (ph : SavePhase) (bk : Bank) (page : Nat) (bytes : List Byte) : Prop where
  phase : t.snap.savePhase = ph
  op : t.flash.op = some (.program bk page)
  device : t.flash.device = some (.program bk page bytes)

/-- The header page of the save that `x` describes, with the body check value `v` (R167). -/
def Snapshot.headerWith (x : Snapshot) (v : Word) : BankHeader :=
  { sequence := x.sequence.getD 0, savedEpoch := x.saveEpoch.getD 0, profileCount := x.profileSet.length
    recordCount := x.saveList.length, bodyCheck := v }

/-- A save has ended early with kind `k` (R169): its snapshot pins are given up, its fields take their IDLE values, the target's
survey is invalid, and the last result and SAVE_FAILED say so. -/
structure State.SaveEnded (s t : State) (k : FailKind) : Prop where
  snap : t.snap = { s.snap with
    savePhase := .idle, saveEpoch := none, saveList := [], profileSet := [], target := none, sequence := none, writePos := 0,
    check := none, surveyA := if s.snap.target = some .bankA then .invalid else s.snap.surveyA,
    surveyB := if s.snap.target = some .bankB then .invalid else s.snap.surveyB,
    last := .saveFailed k s.snap.target s.snap.writePos }
  pins : s.PinsGivenUp (s.snap.saveList.map SaveItem.copy) t
  op : t.flash.op = none
  raised : t.eventSet = { s.eventSet with set := s.eventSet.set ||| 0x008#12, saveFailed := some k }
  pending : t.pending = s.pending
  session : t.session = s.session
  epoch : t.epoch = s.epoch
  staged : t.staged = s.staged
  markerCount : t.markerCount = s.markerCount
  switchRecord : t.switchRecord = s.switchRecord
  engine : t.engine = s.engine
  opState : t.opState = s.opState
  params : t.params = s.params
  freeTick : t.freeTick = s.freeTick
  ports : s.SamePorts t

/-! ### Link controllers -/

/-- Link `n` after a bad frame found by error `e`, its receiver moved to `rx`: one error counter and the consecutive count have
risen (R103, R108). -/
def State.countedBad (s : State) (n : Nat) (e : FrameError) (rx : Receiver) : State :=
  s.putLink n { s.link n with rx := rx, errors := (s.link n).errors.count e
                              badCount := if (s.link n).badCount < 8 then (s.link n).badCount + 1 else (s.link n).badCount }

/-- A bad frame found on link `n` by error `e`, the receiver's move being to `rx`, has left `t`: below the limit, and on a DOWN link, it
is only counted; the eighth in a row on an UP or QUIET link resets the link, whose receiver ends OUTSIDE and whose count becomes 0, with
LINK_DOWN raised (R108, R114). -/
structure State.BadFound (s : State) (n : Nat) (e : FrameError) (rx : Receiver) (t : State) : Prop where
  below : (s.link n).state = .down ∨ (s.link n).badCount < 7 → t = s.countedBad n e rx
  eighth : (s.link n).state ≠ .down → 7 ≤ (s.link n).badCount →
    t.link n = { Link.reset with
      locked := (s.link n).locked, errors := (s.link n).errors.count e, resyncNumber := (s.link n).resyncNumber } ∧
    t.eventSet = { s.eventSet with set := s.eventSet.set ||| 0x080#12, linkDown := some n } ∧ s.LinkReleased n t

/-- Link `n` as a good frame closes on it: the receiver OUTSIDE, the consecutive bad frame count 0 (R107, R108). -/
def Link.frameClosed (l : Link) : Link := { l with rx := .outside, badCount := 0 }

/-- A request as it joins the queue (R125). -/
def Request.waiting (tag : Tag) (a : Ask) : Request :=
  { tag := tag, ask := a, stage := .waiting, boundEpoch := none, answer := none, boundCopy := none, boundSlot := none }

/-- The frame is one whose sends are counted: a NOTICE or a RESYNC (R149). -/
def Content.isCounted : Content → Bool
  | .notice _ => true
  | .resync _ _ _ => true
  | .welcome _ _ _ => false
  | .record _ => false
  | .profile _ => false
  | .watching _ _ => false
  | .unwatched _ => false
  | .refusal _ _ _ => false

/-- What every link controller keeps: its queues within their capacities (R120, R124, R145), its counts within their ranges
(R103, R144, R145), no more sends than the limit (R150), and nothing queued, owed or watched on a DOWN link (R114). -/
structure Link.Kept (l : Link) : Prop where
  prompts : l.prompts.length ≤ Config.promptsMax
  requests : l.requests.length ≤ Config.requestsMax
  notices : l.notices.length ≤ Config.noticesMax
  badCount : l.badCount ≤ Config.badFrameLimit
  resyncNumber : l.resyncNumber ≤ Config.maxU16
  watchCount : l.watchCount ≤ Config.watchMax
  sends : l.sendCount ≤ Config.sendLimit
  sending : ∀ f, l.tx = some f → f.content.isCounted = true → l.sendCount < Config.sendLimit
  down : l.state = .down →
    l.requests = [] ∧ l.notices = [] ∧ l.resyncFlag = false ∧ l.watchCount = 0 ∧ l.welcome = none

/-- Every link controller is kept so. -/
def State.LinksKept (s : State) : Prop := ∀ n, (s.link n).Kept

/-! ### The lookup engine's requesters -/

/-- The command at the front of port `p` is `q`, a QUERY come whole and uncut, with one or two argument words, its channel and probe code
in range, and the response FIFO has room for its largest response: the port offers it (R127, R181, R182, 11.5). -/
structure State.QueryOffered (s : State) (p : Port) (q : QueuedCommand) : Prop where
  front : (s.port p).commands.head? = some q
  kind : q.kind = some .query
  uncut : q.cut = false
  whole : q.words.length = headerCount q.header
  count : q.args.length = 1 ∨ q.args.length = 2
  channel : bitsAt (argAt q.args 0) 0 16 < 16384
  probe : q.args.length = 2 → bitsAt (argAt q.args 1) 0 16 ≤ 4095
  room : (s.port p).responses.length + 18 ≤ 64

/-- Requester `k` of the fourteen offers: L0 to L11 while they hold a WAITING request, 12 and 13, the HOST and the SERVICE port, while a
QUERY stands ready at their front (R127). -/
def State.Offering (s : State) (k : Nat) : Prop :=
  k < 12 ∧ (∃ q ∈ (s.link k).requests, q.stage = .waiting) ∨ k = 12 ∧ (∃ q, s.QueryOffered .host q) ∨
    k = 13 ∧ ∃ q, s.QueryOffered .service q

/-! ### Forms of commands, and commands in FIFO order -/

/-- The word count of a command of kind `k` with these argument words, its header included, is one that 11.4 permits, with the number of
items that the argument words give (R182 step 2). -/
def CountFits (args : List Word) : CmdKind → Prop
  | .readStatus | .openEdit | .abandon | .touch | .switch | .withdraw | .save | .abortSave | .restore | .startEmpty
  | .hold | .resume | .clearAll => args.length + 1 = 1
  | .readRow | .readCopy | .readProfile | .listSpans | .linkStatus | .retire | .retireGroup | .dropProfile
  | .sealSession | .resetLink | .setParam => args.length + 1 = 2
  | .query => args.length + 1 = 2 ∨ args.length + 1 = 3
  | .insert => args.length + 1 = 4 + bitsAt (argAt args 2) 24 4
  | .amend => args.length + 1 = 4 + (if (argAt args 0).getLsbD 22 then bitsAt (argAt args 2) 24 4 else 0)
  | .defineProfile => args.length + 1 = 2 + bitsAt (argAt args 0) 16 8

/-- The arguments of a command of kind `k` that are checked for range are in range (R182 step 3, R193, 11.4). -/
def ArgsInRange (args : List Word) : CmdKind → Prop
  | .readRow | .amend | .retire => bitsAt (argAt args 0) 0 16 ≤ 1023
  | .readCopy => bitsAt (argAt args 0) 0 16 ≤ 2559
  | .readProfile | .defineProfile | .dropProfile => bitsAt (argAt args 0) 0 16 ≤ 31
  | .linkStatus | .resetLink => bitsAt (argAt args 0) 0 16 ≤ 11
  | .listSpans => bitsAt (argAt args 0) 0 16 ≤ 16383
  | .query => bitsAt (argAt args 0) 0 16 ≤ 16383 ∧ (args.length + 1 = 3 → bitsAt (argAt args 1) 0 16 ≤ 4095)
  | .sealSession => argAt args 0 = 0#32 ∨ argAt args 0 = 1#32
  | .setParam =>
    bitsAt (argAt args 0) 24 8 = 1 ∧ 1 ≤ bitsAt (argAt args 0) 0 16 ∧ bitsAt (argAt args 0) 0 16 ≤ 255 ∨
    bitsAt (argAt args 0) 24 8 = 2 ∧ 1 ≤ bitsAt (argAt args 0) 0 16 ∧ bitsAt (argAt args 0) 0 16 ≤ 16 ∨
    bitsAt (argAt args 0) 24 8 = 3 ∧ bitsAt (argAt args 0) 0 16 ≤ 2560 ∨
    bitsAt (argAt args 0) 24 8 = 4 ∧ bitsAt (argAt args 0) 0 16 ≤ 1
  | .readStatus | .openEdit | .insert | .retireGroup | .abandon | .touch | .switch | .withdraw | .save | .abortSave
  | .restore | .startEmpty | .hold | .resume | .clearAll => True

/-- The state with the command FIFO of port `p` holding `cs` and its overflow flag `ov`. -/
def State.fifoAt (s : State) (p : Port) (cs : List QueuedCommand) (ov : Bool) : State :=
  s.putPort p { s.port p with commands := cs, overflow := ov }

/-- The front command of port `p` goes, and `s` becomes the second state: its words leave the FIFO, the commands behind it stay there in
their order, and it does and answers what it does when it stands alone at its port (R181, R182, R183, R185, log 16). -/
inductive State.FrontGoes (p : Port) : State → State → Prop where
  /-- A whole command does what its row of the table does. -/
  | whole (s : State) (q : QueuedCommand) (qs : List QueuedCommand) (k : CmdKind) : (s.port p).commands = q :: qs → q.cut = false →
      q.words.length = headerCount q.header → CmdKind.ofCode (headerKind q.header) = some k → k ≠ .query →
      (s.port p).responses.length + (1 + k.maxData) ≤ 64 →
      FrontGoes p s (((s.fifoAt p [] false).ran (commandOf p (headerSeq q.header) q.args k)).fifoAt p qs (s.port p).overflow)
  /-- A command of a kind the part does not know, whole, or cut and let go. -/
  | unknown (s : State) (q : QueuedCommand) (qs : List QueuedCommand) : (s.port p).commands = q :: qs →
      (if q.cut then q.released = true else headerCount q.header ≤ q.words.length) →
      CmdKind.ofCode (headerKind q.header) = none → (s.port p).responses.length + 1 ≤ 64 →
      FrontGoes p s ((s.fifoAt p qs (s.port p).overflow).answered p (headerSeq q.header) .badCommand [])
  /-- A command of a known kind that is cut and let go, or holds more words than its header declares. -/
  | miscounted (s : State) (q : QueuedCommand) (qs : List QueuedCommand) (k : CmdKind) : (s.port p).commands = q :: qs →
      (if q.cut then q.released = true else headerCount q.header < q.words.length) →
      CmdKind.ofCode (headerKind q.header) = some k → (s.port p).responses.length + (1 + k.maxData) ≤ 64 →
      FrontGoes p s (((s.fifoAt p qs (s.port p).overflow).restartedBy p k).answered p (headerSeq q.header) .badLength [])
  /-- A whole QUERY of a wrong word count, or with an argument out of range; one of right form waits for the lookup engine. -/
  | query (s : State) (q : QueuedCommand) (qs : List QueuedCommand) (c : Code) : (s.port p).commands = q :: qs → q.cut = false →
      q.words.length = headerCount q.header → CmdKind.ofCode (headerKind q.header) = some .query →
      ¬CountFits q.args .query ∧ c = .badLength ∨
        CountFits q.args .query ∧ ¬ArgsInRange q.args .query ∧ c = .badField →
      (s.port p).responses.length + 18 ≤ 64 →
      FrontGoes p s ((s.fifoAt p qs (s.port p).overflow).answered p (headerSeq q.header) c [])

/-- The commands of port `p` go one after another from the front, in FIFO order, until the front one cannot go (R181). That they go in
one event is the model's choice (log 2). -/
inductive State.GoInOrder (p : Port) : State → State → Prop where
  | stop (s : State) : (∀ t, ¬State.FrontGoes p s t) → GoInOrder p s s
  | next (s t u : State) : State.FrontGoes p s t → GoInOrder p t u → GoInOrder p s u

/-! ### What an answer carries -/

/-- What the answer `ct` of request `q` carries when its transmission begins (R118): a RECORD the channel asked, the bound epoch, and the
bound copy with its owning row's span and the probe outcome (R132, R133, R26, R54, R55); a PROFILE up to eight points of its slot from the
first index asked (R135); a WATCHING, an UNWATCHED and a REFUSAL what was decided at the taking, with the bound epoch where the frame
has one (R142, R143, 11.2). -/
structure State.Carries (s : State) (q : Request) (ct : Content) : Prop where
  record : ∀ ch pr c e x r sp b out, q.answer = some .record → q.ask = .fetch ch pr → q.boundCopy = some c → q.boundEpoch = some e →
    x = s.copy c → r = x.owner.getD 0 → sp = (s.row r).span.getD Span.none → b = x.body.getD Body.none →
    out = (match pr with
      | none => Probe.notAsked
      | some v => if b.enabled = false then .disabled else match b.profile with
        | none => .noProfile
        | some k => .value (curve ((s.slot k).points.getD []) ((v.toNat : Int) - b.effective sp.first ch.toNat))) →
    ct = .record { channel := ch.toNat, epoch := e, row := r, span := sp, activated := x.activated.getD 0
                   effective := b.effective sp.first ch.toNat, body := b, probe := out }
  profile : ∀ k₀ i k e ps, q.answer = some .profile → q.ask = .fetchProfile k₀ i → q.boundSlot = some k → q.boundEpoch = some e →
    ps = (s.slot k).points.getD [] →
    ct = .profile { slot := k, epoch := e, activated := (s.slot k).activated.getD 0, pointCount := ps.length
                    firstIndex := i.toNat, points := (ps.drop i.toNat).take 8 }
  watching : ∀ a e, q.answer = some (.watching a) → q.boundEpoch = some e → ct = .watching a e
  unwatched : ∀ a, q.answer = some (.unwatched a) → ct = .unwatched a
  refusal : ∀ reason e, q.answer = some (.refusal reason) → q.boundEpoch = some e → ct = .refusal reason e false

/-! ### Operating state, session, staged set, save and restore -/

/-- What each wait for the flash says of the part (R162): a restore's reads fall in RESTORING, a page of a bank's entries is read
with a target epoch above the epoch (R102), an erase or a program is a save's. -/
def State.waitKept (s : State) : Prop :=
  match s.flash.op with
  | none => True
  | some .identify => s.saving = true ∨ s.opState = .restoring
  | some (.read _ 0) => s.saving = true ∨ s.opState = .restoring
  | some (.read _ (_ + 1)) =>
    s.saving = false ∧ s.opState = .restoring ∧ ∃ e, s.snap.targetEpoch = some e ∧ s.epoch < e
  | some (.erase _) => s.saving = true
  | some (.program _ _) => s.saving = true

/-- The operating states against the rest of the part: outside SERVING and HELD no session is open, no staged set waits and no
save runs (R59, R91, R163, R171). -/
structure State.ModesKept (s : State) : Prop where
  idle : s.opState.working = false → s.session = none ∧ s.staged = none ∧ s.saving = false
  wait : s.waitKept

/-! ### The stores -/

/-- The fields that a row in its phase holds (R2). -/
def Row.shaped (x : Row) : Prop :=
  match x.phase with
  | .free => x = Row.free
  | .newDraft => x.span.isSome = true ∧ x.born = none ∧ x.dies = none ∧ x.live = none ∧ x.staged = none ∧
    x.draft.isSome = true ∧ x.watch = []
  | .newStaged => x.span.isSome = true ∧ x.born = none ∧ x.dies = none ∧ x.live = none ∧ x.staged.isSome = true ∧ x.watch = []
  | .live => x.span.isSome = true ∧ x.born.isSome = true ∧ x.dies = none ∧ x.live.isSome = true
  | .dying => x.span.isSome = true ∧ x.born.isSome = true ∧ x.dies = none ∧ x.live.isSome = true ∧ x.staged = none ∧ x.draft = none
  | .dead => x.span.isSome = true ∧ x.born.isSome = true ∧ x.dies.isSome = true ∧ x.live = none ∧ x.staged = none ∧
    x.draft = none ∧ x.watch = []

/-- The fields that a copy in its state holds (R28); a SUPERSEDED copy is pinned (R38). -/
def Copy.shaped (x : Copy) : Prop :=
  match x.state with
  | .free => x = Copy.free
  | .draft => x.owner.isSome = true ∧ x.activated = none ∧ x.supersededAt = none ∧ x.unpinned = true ∧ x.body.isSome = true
  | .staged => x.owner.isSome = true ∧ x.base = none ∧ x.activated = none ∧ x.supersededAt = none ∧ x.unpinned = true ∧
    x.body.isSome = true
  | .live => x.owner.isSome = true ∧ x.base = none ∧ x.activated.isSome = true ∧ x.supersededAt = none ∧ x.body.isSome = true
  | .superseded => x.owner.isSome = true ∧ x.base = none ∧ x.activated.isSome = true ∧ x.supersededAt.isSome = true ∧
    x.body.isSome = true ∧ x.unpinned = false

/-- The fields that a slot in its state holds (R45). -/
def Slot.shaped (x : Slot) : Prop :=
  match x.state with
  | .free => x = Slot.free
  | .pending => x.activated = none ∧ x.points.isSome = true
  | .staged => x.activated = none ∧ x.points.isSome = true
  | .active => x.activated.isSome = true ∧ x.points.isSome = true

/-- A list of change items is within its capacity and names no row and no slot twice (R62). -/
structure ItemsOnce (items : List ChangeItem) : Prop where
  room : items.length ≤ Config.changeMax
  rows : (rowsNamed items).Nodup
  items : items.Nodup

/-- Directory, copy pool and profile table agree with each other and with the change set and the staged set. -/
structure State.StoresKept (s : State) : Prop where
  /-- The tables hold no number beyond their size (R1, R27, R45), in canonical form (log 23). -/
  rowTable : Table.wf Row.free s.rows = true ∧ ∀ r ∈ s.rows.keys, r < Config.rows
  copyTable : Table.wf Copy.free s.copies = true ∧ ∀ c ∈ s.copies.keys, c < Config.copies
  slotTable : Table.wf Slot.free s.slots = true ∧ ∀ k ∈ s.slots.keys, k < Config.slots
  rows : ∀ r, (s.row r).shaped
  copies : ∀ c, (s.copy c).shaped
  slots : ∀ k, (s.slot k).shaped
  /-- A row's copy fields name exactly the copies it owns in those states (R2, R28). -/
  draft : ∀ r c, (s.row r).draft = some c ↔ (s.copy c).state = .draft ∧ (s.copy c).owner = some r
  staged : ∀ r c, (s.row r).staged = some c ↔ (s.copy c).state = .staged ∧ (s.copy c).owner = some r
  live : ∀ r c, (s.row r).live = some c ↔ (s.copy c).state = .live ∧ (s.copy c).owner = some r
  /-- The owner of a SUPERSEDED copy is LIVE, DYING or DEAD, and a DEAD row owns a copy and died no later than now (R3, R17, R18). -/
  owner : ∀ r c, (s.copy c).state = .superseded → (s.copy c).owner = some r →
    (s.row r).phase = .live ∨ (s.row r).phase = .dying ∨ (s.row r).phase = .dead
  dead : ∀ r, (s.row r).phase = .dead → (∃ c, (s.copy c).owner = some r) ∧ ∀ d, (s.row r).dies = some d → d ≤ s.epoch
  /-- The superseded list holds each SUPERSEDED copy once (R39). -/
  list : s.superseded.Nodup ∧ ∀ c, c ∈ s.superseded ↔ (s.copy c).state = .superseded
  /-- The free count is the number of FREE copies (R40). -/
  freeCount : s.freeCount = s.copyCount .free
  /-- The span index holds one item for each row in use, in order (R7). -/
  index : s.spanIndex.Pairwise (fun x y => x.first < y.first ∨ x.first = y.first ∧ x.row < y.row) ∧
    ∀ it, it ∈ s.spanIndex ↔ ∃ sp, (s.row it.row).span = some sp ∧ sp.first = it.first
  /-- The change set against rows and slots (R62, R13, R14, R49). -/
  itemsOnce : ItemsOnce s.items
  inserts : ∀ r, .insert r ∈ s.items ↔ (s.row r).phase = .newDraft
  amends : ∀ r, .amend r ∈ s.items ↔ (s.row r).phase ≠ .newDraft ∧ (s.row r).draft.isSome = true
  retires : ∀ r, .retire r ∈ s.items → (s.row r).phase = .live ∨ (s.row r).phase = .newStaged
  defines : ∀ k, .defineProfile k ∈ s.items ↔ (s.slot k).state = .pending
  /-- The staged set against rows and slots (R15, R51, R85). -/
  stagedOnce : ItemsOnce s.stagedItems
  stagedInserts : ∀ r, .insert r ∈ s.stagedItems ↔ (s.row r).phase = .newStaged
  stagedAmends : ∀ r, .amend r ∈ s.stagedItems ↔ (s.row r).phase = .live ∧ (s.row r).staged.isSome = true
  stagedRetires : ∀ r, .retire r ∈ s.stagedItems ↔ (s.row r).phase = .dying
  stagedDefines : ∀ k, .defineProfile k ∈ s.stagedItems ↔ (s.slot k).state = .staged

/-- How many requests of all links a predicate picks (R36, R53). -/
def State.requestCount (s : State) (p : Request → Bool) : Nat := (allLinks.map (fun n => (s.link n).requests.countP p)).sum

/-- The counts by which one part of the device holds on to another are the numbers they stand for. -/
structure State.HoldsKept (s : State) : Prop where
  /-- A slot's reference count is the number of copies that name it, none of them ahead of the slot's own state (R48). -/
  references : ∀ k, (s.slot k).refCount = Table.count (fun x => decide (x.profile = some k)) s.copies
  named : ∀ c k, (s.copy c).profile = some k → (s.slot k).state ≠ .free ∧
    ((s.copy c).state = .staged → (s.slot k).state ≠ .pending) ∧
    ((s.copy c).state = .live ∨ (s.copy c).state = .superseded → (s.slot k).state = .active)
  /-- A copy's fetch pins are the requests bound to it (R36), a slot's readers those that read it (R53). -/
  pins : ∀ c, (s.copy c).fetchPins = s.requestCount (fun q => decide (q.boundCopy = some c))
  readers : ∀ k, (s.slot k).readerCount = s.requestCount (fun q => decide (q.boundSlot = some k))
  reading : ∀ k, 0 < (s.slot k).readerCount → (s.slot k).state = .active
  waiting : ∀ n ∈ allLinks, ∀ q ∈ (s.link n).requests, q.stage = .waiting → q.boundCopy = none ∧ q.boundSlot = none
  /-- A link's watch count is the number of rows whose watch set holds it (R144). -/
  watches : ∀ n ∈ allLinks, (s.link n).watchCount = Table.count (fun x => x.watch.contains n) s.rows
  watchSets : ∀ r, (s.row r).watch.Pairwise (fun m n => m < n) ∧ ∀ n ∈ (s.row r).watch, n ∈ allLinks
  /-- In COLD and RESTORING no request holds anything and no link watches; before a bank is begun there is no row (R130, R171, R175). -/
  unheld : s.opState.working = false → s.requestCount (fun q => q.boundCopy.isSome || q.boundSlot.isSome) = 0
  unwatched : s.opState.working = false → ∀ r, (s.row r).watch = []
  unloaded : s.opState = .cold ∨ s.opState = .restoring ∧ s.snap.triedA = false ∧ s.snap.triedB = false → s.rows = []
  untried : s.opState = .restoring → s.flash.op = some .identify ∨ (∃ b, s.flash.op = some (.read b 0)) →
    s.snap.triedA = false ∧ s.snap.triedB = false

/-- The spans of rows `r` and `q` share no channel (R5). -/
def State.apart (s : State) (r q : Nat) : Prop :=
  ∀ a b, (s.row r).span = some a → (s.row q).span = some b → a.overlaps b = false

/-- The non-overlap law, now and for the publications that the staged set and the session will make (R4, R6). -/
structure State.SpansKept (s : State) : Prop where
  law : ∀ e r q, r ≠ q → (s.row r).visibleAt e = true → (s.row q).visibleAt e = true → s.apart r q
  staged : ∀ r q, r ≠ q → (s.row r).phase = .live ∨ (s.row r).phase = .newStaged →
    (s.row q).phase = .live ∨ (s.row q).phase = .newStaged → s.apart r q
  session : ∀ r q, r ≠ q → s.considered s.items r = true → s.considered s.items q = true → s.apart r q

/-! ### Discarding a session or a staged set -/

/-- The drafts of the rows that the items of a list name (R31, R78). -/
def State.draftsOf (s : State) (items : List ChangeItem) : List Nat := (rowsNamed items).filterMap (fun r => (s.row r).draft)

/-- The staged copies of the rows that the items of a list name (R35). -/
def State.stagedOf (s : State) (items : List ChangeItem) : List Nat := (rowsNamed items).filterMap (fun r => (s.row r).staged)

/-- The freeing of the copies `cs`, all of them once, as the pool and the profile table show it: the free count rises by their number,
the detector is armed again if the watermark allows, and a slot that no item of `items` defines loses one reference for each of them
that names it; the superseded list stays (R29, R39, R41, R48). -/
structure State.CopiesFreed (s : State) (cs : List Nat) (items : List ChangeItem) (t : State) : Prop where
  free : t.freeCount = s.freeCount + cs.length
  armed : t.lowArmed = if cs ≠ [] ∧ s.params.poolWatermark ≤ t.freeCount then true else s.lowArmed
  references : ∀ k, .defineProfile k ∉ items → t.slot k = { s.slot k with
    refCount := (s.slot k).refCount - cs.countP (fun c => decide ((s.copy c).profile = some k)) }
  superseded : t.superseded = s.superseded

/-- What the end of session `x` by abandonment leaves: the lock is free, its NEW_DRAFT rows, its drafts and its PENDING slots are FREE,
amended rows lose their drafts, and all else stays (R14, R31, R52, R78, R79). In a state that keeps the stores' condition the drafts are
just the DRAFT copies, one for each INSERT or AMEND item. -/
structure State.Abandoned (s : State) (x : Session) (t : State) : Prop where
  session : t.session = none
  inserted : ∀ r, .insert r ∈ x.items → t.row r = Row.free
  amended : ∀ r, .amend r ∈ x.items → .insert r ∉ x.items → t.row r = { s.row r with draft := none }
  otherRows : ∀ r, .insert r ∉ x.items → .amend r ∉ x.items → t.row r = s.row r
  index : t.spanIndex = s.spanIndex.filter (fun it => decide (.insert it.row ∉ x.items))
  drafts : ∀ r c, .insert r ∈ x.items ∨ .amend r ∈ x.items → (s.row r).draft = some c → t.copy c = Copy.free
  copies : ∀ c, t.copy c = s.copy c ∨ t.copy c = Copy.free
  defined : ∀ k, .defineProfile k ∈ x.items → t.slot k = Slot.free
  freed : s.StoresKept → (∀ c, t.copy c = if (s.copy c).state = .draft then Copy.free else s.copy c) ∧
    (s.draftsOf x.items).length = x.items.countP (fun i => i.isInsert || i.isAmend) ∧ s.CopiesFreed (s.draftsOf x.items) x.items t
  list : t.superseded.Sublist s.superseded
  links : (∀ r, .insert r ∈ x.items → (s.row r).watch = []) → ∀ n, t.link n = s.link n
  staged : t.staged = s.staged
  ports : s.SamePorts t
  control : s.SameControl t

/-- What the withdrawal of the set `st` leaves: its NEW_STAGED rows, its staged copies and its STAGED slots are FREE, its DYING rows LIVE
again, and all else stays (R19, R35, R52, R101). In a state that keeps the stores' condition its staged copies are just the STAGED
copies, one for each INSERT or AMEND item. -/
structure State.Withdrawn (s : State) (st : StagedSet) (t : State) : Prop where
  staged : t.staged = none
  session : t.session = none
  inserted : ∀ r, namesRow st.items r → (s.row r).phase = .newStaged → t.row r = Row.free
  retired : ∀ r, namesRow st.items r → (s.row r).phase = .dying → (s.row r).staged = none → t.row r = { s.row r with phase := .live }
  amended : ∀ r c, namesRow st.items r → (s.row r).phase = .live → (s.row r).staged = some c →
    t.row r = { s.row r with staged := none } ∧ t.copy c = Copy.free
  copies : ∀ r c, namesRow st.items r → (s.row r).phase = .newStaged → (s.row r).staged = some c → t.copy c = Copy.free
  otherRows : ∀ r, ¬ namesRow st.items r → t.row r = s.row r
  index : t.spanIndex = s.spanIndex.filter
    (fun it => !(decide (it.row ∈ rowsNamed st.items) && decide ((s.row it.row).phase = .newStaged)))
  defined : ∀ k, .defineProfile k ∈ st.items → t.slot k = Slot.free
  freed : s.StoresKept → (∀ c, t.copy c = if (s.copy c).state = .staged then Copy.free else s.copy c) ∧
    (s.stagedOf st.items).length = st.items.countP (fun i => i.isInsert || i.isAmend) ∧
    s.CopiesFreed (s.stagedOf st.items) st.items t
  links : (∀ r, namesRow st.items r → (s.row r).phase = .newStaged → (s.row r).watch = []) → ∀ n, t.link n = s.link n
  events : t.eventSet = s.eventSet
  ports : s.SamePorts t
  control : s.SameControl t

/-! ### Ports -/

/-- Every body a copy holds is within R24's ranges and every point list a slot holds is valid (R25, R47). -/
structure State.BodiesKept (s : State) : Prop where
  bodies : ∀ c b, (s.copy c).body = some b → b.inRange = true
  points : ∀ k ps, (s.slot k).points = some ps → pointsValid ps = true

/-- What every port keeps: its FIFOs within 64 words (R177), a command let go only once it is cut (R185), and no command left
that could be taken (R181). -/
structure PortState.Kept (x : PortState) : Prop where
  commands : x.wordCount ≤ Config.fifoWords
  responses : x.responses.length ≤ Config.fifoWords
  released : ∀ q ∈ x.commands, q.released = true → q.cut = true
  headed : ∀ q ∈ x.commands, q.words ≠ []
  quiet : x.takeable = none

/-- Both ports are kept so, with the bodies and points that bound the responses (R183). -/
structure State.PortsSafe (s : State) : Prop where
  host : s.host.Kept
  service : s.service.Kept
  bodies : s.BodiesKept

end Sys2Proof.Machine
end

