-- ==== Sys2Proof/Certificates/Slice0/Obligations.lean ====
section
/-! DEFINITION. The statements for the provers. A docstring names the rule a statement comes from, and says so where a
statement rests on a choice of the model. -/

section

open Sys2Proof Sys2Proof.Machine

/-! ### The queue, the clock and reset -/

/-- The command at the front of the queue is the one a step carries out, on the state with the queue's rest. THE MODEL'S CHOICE
(log 6): with no command waiting, a step is one link-word time, in which every transmitter with a frame in progress goes on by one
word up to the frame's length, and nothing else changes. -/
def Obligations.StepTakesFront : Prop :=
  (∀ (c : Instr) (cs : List Instr) (s : State), s.pending = c :: cs → step s = exec c (s.setPending cs)) ∧
  (∀ s : State, s.pending = [] → ∃ t, step s = .next t ∧ t = s.setLinks t.links ∧
    ∀ n, t.link n = { s.link n with tx := (s.link n).tx.map (fun f =>
      { f with position := if f.position < f.wireWords.length then f.position + 1 else f.position }) })

/-- HARD_RESET: every block takes its hard reset values, as the tables of chapters 1 to 10 give them; with the strap low the part is
COLD, with it high a restore from COLD has begun and no response stands in a port (R176, R186). THE MODEL'S READING: the flash keeps
every byte it holds, an operation in progress goes on if the flash stays powered, and is otherwise gone with nothing written (log 9);
the queue of commands is the model's own and stays (log 22). -/
def Obligations.HardResetReturnsToReset : Prop :=
  ∀ (strap powered : Bool) (s : State), ∃ t, exec (.hardReset strap powered) s = .next t ∧
    (∀ r, t.row r = Row.free) ∧ t.spanIndex = [] ∧ (∀ c, t.copy c = Copy.free) ∧ t.freeCount = 2560 ∧
    t.superseded = [] ∧ t.lowArmed = true ∧ (∀ k, t.slot k = Slot.free) ∧ t.session = none ∧ t.epoch = 0 ∧
    t.staged = none ∧ t.markerCount = 0 ∧ t.switchRecord = none ∧ (∀ n, t.link n = Link.reset) ∧ t.engine = 0 ∧
    (∀ p, t.port p = PortState.reset) ∧ t.eventSet = EventSet.reset ∧ (∀ p, t.mask p = 0#12) ∧
    t.params = Params.reset ∧ t.flash.cells = s.flash.cells ∧ t.pending = s.pending ∧
    (strap = false → t.opState = .cold ∧ t.snap = Snapshot.reset ∧ t.flash.op = none) ∧
    (strap = true → t.opState = .restoring ∧ t.flash.op = some .identify ∧
      t.snap = { Snapshot.reset with restorePhase := .selecting, origin := some .cold }) ∧
    (powered = true → t.flash.device = s.flash.device) ∧ (powered = false → t.flash.device = none)

/-! ### Read commands -/

/-- READ_STATUS, READ_ROW, READ_COPY, READ_PROFILE and LIST_SPANS with their argument in range are answered DONE with what the part
holds as the command is taken, laid out as 11.5, 11.6 and 11.8 give, and change nothing but the port's response FIFO (R191, R10, R44,
R56). A field stands in its word at its lowest bit, and the named values have the codes of 11.2, 11.5, 11.6 and 11.8. LIST_SPANS reports
the items of the span index, in its order, from the first whose first channel is not less than the from channel, as many as there are up
to 16 (R10). READ_STATUS gives the 40 words of 11.6; its counts are over all 1,024 rows, 2,560 copies and 32 slots (R191, R40, R56) in
every state that keeps the stores' condition (StoresStayConsistent). THE MODEL'S READING (log 20): 11.8 says that an absent field reads
0; the words of READ_STATUS whose source is absent (staged set, switch record, head of the superseded list, save fields, survey not
valid, last result fields) read 0 too, and a copy without a body gives two body words of 0. -/
def Obligations.ReadsAnswerAndChangeNothing : Prop :=
  (∀ i, (packWord []).getLsbD i = false) ∧
  (∀ v lo fs i, i < 32 → (packWord ((v, lo) :: fs)).getLsbD i = (decide (lo ≤ i) && v.testBit (i - lo) || (packWord fs).getLsbD i)) ∧
  (∀ n, (numWord n).toNat = n % 4294967296) ∧ (∀ x, (signed16 x : Int) = x % 65536) ∧ flagBit true = 1 ∧ flagBit false = 0 ∧
  [OpState.cold, .restoring, .serving, .held].map OpState.code = [0, 1, 2, 3] ∧
  [Phase.free, .newDraft, .newStaged, .live, .dying, .dead].map Phase.code = [0, 1, 2, 3, 4, 5] ∧
  [CopyState.free, .draft, .staged, .live, .superseded].map CopyState.code = [0, 1, 2, 3, 4] ∧
  [SlotState.free, .pending, .staged, .active].map SlotState.code = [0, 1, 2, 3] ∧
  [Gain.low, .mid, .high, .auto].map Gain.code = [0, 1, 2, 3] ∧ [LinkState.down, .up, .quiet].map LinkState.code = [0, 1, 2] ∧
  [none, some Port.host, some .service].map portCode = [0, 1, 2] ∧ [Policy.atMarker, .onCommand].map Policy.code = [0, 1] ∧
  [Trigger.marker, .command].map Trigger.code = [0, 1] ∧
  [SavePhase.idle, .erasing, .profiles, .records, .header].map SavePhase.code = [0, 1, 2, 3, 4] ∧
  [RestorePhase.idle, .selecting, .loading].map RestorePhase.code = [0, 1, 2] ∧
  [none, some Origin.cold, some .held].map originCode = [0, 1, 2] ∧ [none, some Bank.bankA, some .bankB].map bankCode = [0, 1, 2] ∧
  Survey.unknown.code = 0 ∧ Survey.invalid.code = 1 ∧ (∀ h, (Survey.valid h).code = 2) ∧
  [none, some FailKind.flashAbsent, some .eraseTimeout, some .programTimeout, some .verifyMismatch, some .aborted, some .noSnapshot,
    some .corrupt].map failCode = [0, 1, 2, 3, 4, 5, 6, 7] ∧
  ∀ (p : Port) (seq : Half) (w : Word) (s : State),
    (s.Ready p .readStatus → exec (.readStatus p seq []) s = .next (s.answered p seq .done (
      [packWord [(s.opState.code, 0), (portCode (s.session.map Session.owner), 4), (s.items.length, 16)],
        numWord s.epoch, numWord s.markerCount,
        (match s.staged with
          | none => 0#32
          | some st => packWord [(1, 31), (st.policy.code, 30), (st.items.length, 0)]),
        packWord [(s.stagedItems.countP ChangeItem.isInsert, 0), (s.stagedItems.countP ChangeItem.isAmend, 8),
          (s.stagedItems.countP ChangeItem.isRetire, 16), (s.stagedItems.countP ChangeItem.isDefine, 24)]] ++
      (match s.switchRecord with
        | none => [0#32, 0#32, 0#32, 0#32, 0#32]
        | some x => [packWord [(1, 31), (x.trigger.code, 30), (x.postings, 0)], numWord x.epoch, numWord x.markerCount,
            packWord [(x.madeLive, 0), (x.amended, 8), (x.retired, 16), (x.leftDead, 24)],
            packWord [(x.profilesActivated, 0), (x.copiesFreed, 8)]]) ++
      [packWord [(s.rowCount .free, 0), (s.rowCount .newDraft, 16)], packWord [(s.rowCount .newStaged, 0), (s.rowCount .live, 16)],
        packWord [(s.rowCount .dying, 0), (s.rowCount .dead, 16)], packWord [(s.copyCount .free, 0), (s.copyCount .draft, 16)],
        packWord [(s.copyCount .staged, 0), (s.copyCount .live, 16)], packWord [(s.copyCount .superseded, 0), (s.totalPins, 16)]] ++
      (match s.superseded with
        | [] => [0#32, packWord [(0, 0), (s.totalReaders, 16)], 0#32]
        | c :: cs => [packWord [((c :: cs).length, 0), (c, 16)],
            packWord [((s.copy c).owner.getD 0, 0), (s.totalReaders, 16)], numWord ((s.copy c).supersededAt.getD 0)]) ++
      [packWord [(s.slotCount .free, 0), (s.slotCount .pending, 8), (s.slotCount .staged, 16), (s.slotCount .active, 24)],
        packWord [(s.snap.savePhase.code, 0), (s.snap.restorePhase.code, 4), (originCode s.snap.origin, 6),
          (bankCode s.snap.target, 8), (bankCode s.snap.loading, 10), (flagBit s.snap.triedA, 12), (flagBit s.snap.triedB, 13),
          (s.snap.surveyA.code, 16), (s.snap.surveyB.code, 18)],
        numWord (s.snap.saveEpoch.getD 0), packWord [(s.snap.saveList.length, 0), (s.snap.profileSet.length, 16)],
        numWord (s.snap.sequence.getD 0), numWord s.snap.writePos] ++
      (match s.snap.surveyA with
        | .valid h => [numWord h.sequence, numWord h.savedEpoch]
        | .invalid => [0#32, 0#32]
        | .unknown => [0#32, 0#32]) ++
      (match s.snap.surveyB with
        | .valid h => [numWord h.sequence, numWord h.savedEpoch]
        | .invalid => [0#32, 0#32]
        | .unknown => [0#32, 0#32]) ++
      (match s.snap.last with
        | .none => [0#32, 0#32, 0#32, 0#32, 0#32]
        | .saveDone b q e n m => [packWord [(1, 0), (bankCode (some b), 12)], numWord q, numWord e, 0#32, packWord [(n, 0), (m, 16)]]
        | .saveFailed k b i => [packWord [(2, 0), (failCode (some k), 8), (bankCode b, 12)], 0#32, 0#32, numWord i, 0#32]
        | .restoreDone b q e e' n m =>
          [packWord [(3, 0), (bankCode (some b), 12)], numWord q, numWord e, numWord e', packWord [(n, 0), (m, 16)]]
        | .restoreFailed k a b =>
          [packWord [(4, 0), (failCode (some k), 8), (flagBit a, 16), (flagBit b, 17)], 0#32, 0#32, 0#32, 0#32]) ++
      [packWord ((List.range 12).map (fun n => ((s.link n).state.code, 2 * n))),
        packWord [(s.params.editTimeout, 0), (s.params.resendInterval, 8), (s.params.poolWatermark, 16),
          (flagBit s.params.markerEnable, 31)],
        packWord [(s.eventSet.set.toNat, 0), (s.hostMask.toNat, 16)],
        packWord [(s.serviceMask.toNat, 0), (flagBit s.interruptLine, 16), (flagBit s.attention, 17)],
        packWord [(portCode s.eventSet.sessionExpired, 0), (failCode s.eventSet.saveFailed, 4),
          (failCode s.eventSet.restoreFailed, 8), (portCode s.eventSet.cmdOverflow, 12)],
        packWord [(s.eventSet.linkUp.getD 15, 0), (s.eventSet.linkDown.getD 15, 4), (s.eventSet.linkQuiet.getD 15, 8),
          (s.eventSet.noticeOverflow.getD 15, 12)]]))) ∧
    (s.StoresKept →
      (∀ ph, s.rowCount ph = (List.range 1024).countP (fun r => decide ((s.row r).phase = ph))) ∧
      (∀ st, s.copyCount st = (List.range 2560).countP (fun c => decide ((s.copy c).state = st))) ∧
      (∀ st, s.slotCount st = (List.range 32).countP (fun k => decide ((s.slot k).state = st))) ∧
      s.totalPins = ((List.range 2560).map (fun c => (s.copy c).fetchPins + if (s.copy c).snapPin then 1 else 0)).sum ∧
      s.totalReaders = ((List.range 32).map (fun k => (s.slot k).readerCount)).sum) ∧
    (s.Ready p .readRow → bitsAt w 0 16 < 1024 →
      ∃ d : Word, exec (.readRow p seq [w]) s = .next (s.answered p seq .done
          [d, (match (s.row (bitsAt w 0 16)).span with
              | none => 0#32
              | some sp => packWord [(sp.first, 0), (sp.count, 16)]), numWord ((s.row (bitsAt w 0 16)).born.getD 0),
            numWord ((s.row (bitsAt w 0 16)).dies.getD 0), numWord ((s.row (bitsAt w 0 16)).live.getD 0),
            numWord ((s.row (bitsAt w 0 16)).staged.getD 0), numWord ((s.row (bitsAt w 0 16)).draft.getD 0),
            numWord (((s.row (bitsAt w 0 16)).watch.map (fun n => 2 ^ n)).sum)]) ∧
        bitsAt d 0 16 = bitsAt w 0 16 ∧ bitsAt d 16 3 = (s.row (bitsAt w 0 16)).phase.code ∧
        d.getLsbD 24 = (s.row (bitsAt w 0 16)).span.isSome ∧ d.getLsbD 25 = (s.row (bitsAt w 0 16)).born.isSome ∧
        d.getLsbD 26 = (s.row (bitsAt w 0 16)).dies.isSome ∧ d.getLsbD 27 = (s.row (bitsAt w 0 16)).live.isSome ∧
        d.getLsbD 28 = (s.row (bitsAt w 0 16)).staged.isSome ∧ d.getLsbD 29 = (s.row (bitsAt w 0 16)).draft.isSome) ∧
    (s.Ready p .readCopy → bitsAt w 0 16 < 2560 →
      exec (.readCopy p seq [w]) s = .next (s.answered p seq .done
        ([packWord [(bitsAt w 0 16, 0), ((s.copy (bitsAt w 0 16)).state.code, 16),
            (flagBit (s.copy (bitsAt w 0 16)).owner.isSome, 24), (flagBit (s.copy (bitsAt w 0 16)).base.isSome, 25),
            (flagBit (s.copy (bitsAt w 0 16)).activated.isSome, 26),
            (flagBit (s.copy (bitsAt w 0 16)).supersededAt.isSome, 27),
            (flagBit (s.copy (bitsAt w 0 16)).body.isSome, 28), (flagBit (s.copy (bitsAt w 0 16)).snapPin, 31)],
          packWord [((s.copy (bitsAt w 0 16)).owner.getD 0, 0), ((s.copy (bitsAt w 0 16)).base.getD 0, 16)],
          numWord ((s.copy (bitsAt w 0 16)).activated.getD 0), numWord ((s.copy (bitsAt w 0 16)).supersededAt.getD 0),
          numWord (s.copy (bitsAt w 0 16)).fetchPins] ++
        (match (s.copy (bitsAt w 0 16)).body with
          | none => [0#32, 0#32]
          | some b => [packWord [(signed16 b.pedestal, 0), (b.threshold, 16)],
              packWord [(b.gain.code, 0), (flagBit b.enabled, 2), (flagBit b.profile.isSome, 3), (b.profile.getD 0, 4), (b.group, 16),
                (b.trims.length, 24)]] ++ b.trims.map (fun y => packWord [(y.offset, 0), (signed16 y.delta, 16)]))))) ∧
    (s.Ready p .readProfile → bitsAt w 0 16 < 32 →
      exec (.readProfile p seq [w]) s = .next (s.answered p seq .done
        ([packWord [(bitsAt w 0 16, 0), ((s.slot (bitsAt w 0 16)).state.code, 8),
            (flagBit (s.slot (bitsAt w 0 16)).activated.isSome, 12), (((s.slot (bitsAt w 0 16)).points.getD []).length, 16)],
          numWord ((s.slot (bitsAt w 0 16)).activated.getD 0), numWord (s.slot (bitsAt w 0 16)).refCount,
          numWord (s.slot (bitsAt w 0 16)).readerCount] ++
        ((s.slot (bitsAt w 0 16)).points.getD []).map (fun y => packWord [(y.input, 0), (signed16 y.output, 16)])))) ∧
    (s.Ready p .listSpans → bitsAt w 0 16 < 16384 →
      ∃ before shown after, s.spanIndex = before ++ shown ++ after ∧ (∀ it ∈ before, it.first < bitsAt w 0 16) ∧
        (∀ it, (shown ++ after).head? = some it → bitsAt w 0 16 ≤ it.first) ∧ shown.length ≤ 16 ∧ (shown.length < 16 → after = []) ∧
        exec (.listSpans p seq [w]) s = .next (s.answered p seq .done (numWord shown.length :: shown.flatMap (fun it =>
          [(match (s.row it.row).span with
              | none => 0#32
              | some sp => packWord [(sp.first, 0), (sp.count, 16)]),
            packWord [(it.row, 0), ((s.row it.row).phase.code, 16)]]))))

/-- LINK_STATUS reports the link as it stands in the twelve words that 11.8 gives, and clears its six error counters afterwards when
the clear flag is set; nothing else changes (R122). -/
def Obligations.LinkStatusReports : Prop :=
  ∀ (p : Port) (seq : Half) (w : Word) (s : State) (l : Link) (ws : List Word), s.Ready p .linkStatus → bitsAt w 0 16 < 12 →
    l = s.link (bitsAt w 0 16) →
    ws = [packWord [(l.state.code, 0), (flagBit l.locked, 2), (flagBit l.welcome.isSome, 3), (l.badCount, 4), (l.prompts.length, 8),
          (flagBit l.resyncFlag, 12), (l.watchCount, 16)],
        packWord [(l.errors.parity, 0), (l.errors.framing, 16)], packWord [(l.errors.check, 0), (l.errors.kind, 16)],
        packWord [(l.errors.stray, 0), (l.errors.refusals, 16)]] ++
      (List.range 4).map (fun i => match l.requests[i]? with
        | none => 0#32
        | some q => packWord [(1, 31), (q.tag.toNat, 0), (q.ask.code, 2), (q.stage.code, 4)]) ++
      [packWord [(l.notices.length, 0), (l.sendCount, 8)]] ++
      (match l.notices with
        | [] => [0#32, 0#32]
        | y :: _ => [packWord [(y.row, 0), (y.kind.code, 16)], numWord y.epoch]) ++
      [packWord [(l.resyncNumber, 0), (flagBit l.tx.isSome, 16), (match l.tx with | none => 0 | some f => f.content.code, 24)]] →
    (w.getLsbD 16 = false → exec (.linkStatus p seq [w]) s = .next (s.answered p seq .done ws)) ∧
    (w.getLsbD 16 = true →
      exec (.linkStatus p seq [w]) s = .next ((s.putLink (bitsAt w 0 16) { l with
          errors := { parity := 0, framing := 0, check := 0, kind := 0, stray := 0, refusals := 0 } }).answered p seq .done ws)) ∧
    ws.length = 12

/-- QUERY: when the lookup engine's turn is a port's, the QUERY at its front is taken. It is answered NO_ROW with the epoch for
a channel no visible row covers, and else DONE with epoch, row and phase, span, copy, activated epoch, effective pedestal, body,
probe outcome with its value, and trims; the engine's pointer moves on, and no pin is placed (R128, R133, R140, R141, 11.5). The port's
commands behind the QUERY stay in their order and follow it (State.GoInOrder; R181), in the same event by the model's choice (log 2). -/
def Obligations.QueryTaken : Prop :=
  ∀ (p : Port) (q : QueuedCommand) (qs : List QueuedCommand) (s u : State),
    s.selected = some (match p with | .host => 12 | .service => 13) → s.QueryOffered p q → (s.port p).commands = q :: qs →
    (s.lookup (bitsAt (argAt q.args 0) 0 16) s.epoch = none →
      u = ((s.putPort p { s.port p with commands := qs }).answered p (headerSeq q.header) .noRow [numWord s.epoch]).setEngine
        (match p with | .host => 13 | .service => 0) →
      (∃ t, exec .query s = .next t ∧ u.GoInOrder p t) ∧ (qs = [] → exec .query s = .next u)) ∧
    (∀ r c sp b out, s.lookup (bitsAt (argAt q.args 0) 0 16) s.epoch = some r → c = (s.row r).live.getD 0 →
      sp = (s.row r).span.getD Span.none → b = (s.copy c).body.getD Body.none →
      out = (if q.args.length ≠ 2 then Probe.notAsked else if b.enabled = false then .disabled else match b.profile with
        | none => .noProfile
        | some k => .value (curve ((s.slot k).points.getD []) ((bitsAt (q.args.getD 1 0#32) 0 16 : Int) -
            b.effective sp.first (bitsAt (argAt q.args 0) 0 16)))) →
      u = ((s.putPort p { s.port p with commands := qs }).answered p (headerSeq q.header) .done
        ([numWord s.epoch, packWord [(r, 0), ((s.row r).phase.code, 16)], packWord [(sp.first, 0), (sp.count, 16)], numWord c,
          numWord ((s.copy c).activated.getD 0),
          packWord [(signed16 (b.effective sp.first (bitsAt (argAt q.args 0) 0 16)), 0)],
          packWord [(signed16 b.pedestal, 0), (b.threshold, 16)],
          packWord [(b.gain.code, 0), (flagBit b.enabled, 2), (flagBit b.profile.isSome, 3), (b.profile.getD 0, 4), (b.group, 16),
            (b.trims.length, 24)],
          packWord [(match out with | .notAsked => 0 | .value _ => 1 | .disabled => 2 | .noProfile => 3, 0),
            (match out with | .value v => signed16 v | _ => 0, 16)]] ++
          b.trims.map (fun y => packWord [(y.offset, 0), (signed16 y.delta, 16)]))).setEngine
            (match p with | .host => 13 | .service => 0) →
      (∃ t, exec .query s = .next t ∧ u.GoInOrder p t) ∧ (qs = [] → exec .query s = .next u))

/-! ### Edit commands -/

/-- OPEN_EDIT by the state of the lock: it opens an empty session with the edit idle timeout in force when the lock is free, is
answered EDIT_HELD to the other port and SESSION_OPEN to the owner, whose timer restarts, and is answered NOT_READY in COLD and
RESTORING (R59, R60). Nothing else changes. TOUCH (R80): from the owner it restarts the idle timer, is answered DONE with the number of
items and changes nothing else; from the other port NOT_OWNER and with no session NO_SESSION, the timer left as it was. -/
def Obligations.OpenEditAndTouch : Prop :=
  ∀ (p : Port) (seq : Half) (s : State),
    (s.Ready p .openEdit →
      (s.opState.working = true → s.session = none →
        exec (.openEdit p seq []) s = .next ((s.withItems p []).answered p seq .done [])) ∧
      (∀ x, s.opState.working = true → s.session = some x → x.owner ≠ p →
        exec (.openEdit p seq []) s = .next (s.answered p seq .editHeld [])) ∧
      (∀ x, s.Owns p x →
        exec (.openEdit p seq []) s = .next ((s.timerRestarted x).answered p seq .sessionOpen [])) ∧
      (s.opState.working = false → s.session = none →
        exec (.openEdit p seq []) s = .next (s.answered p seq .notReady []))) ∧
    (s.Ready p .touch → s.opState.working = true →
      (∀ x, s.session = some x → x.owner = p →
        exec (.touch p seq []) s = .next ((s.setSession (some { x with timer := s.params.editTimeout })).answered p seq .done
          [packWord [(x.items.length, 0)]])) ∧
      (∀ x, s.session = some x → x.owner ≠ p → exec (.touch p seq []) s = .next (s.answered p seq .notOwner [])) ∧
      (s.session = none → exec (.touch p seq []) s = .next (s.answered p seq .noSession [])))

/-- INSERT that passes its checks claims the lowest FREE row as NEW_DRAFT with the span, allocates the lowest FREE copy as its
DRAFT with the body, raises the reference of the profile the body names, puts the row's item in the span index and an INSERT item
in the change set (R11, R29, R48, R64, R65, R8). Every other row, copy and slot, and everything else but POOL_LOW's detector and
event, is as it was. -/
def Obligations.InsertClaimsRowAndCopy : Prop :=
  ∀ (p : Port) (seq : Half) (args : List Word) (s : State) (x : Session) (sp : Span) (b : Body) (r c : Nat),
    s.Ready p .insert → s.Owns p x → args.length = 3 + bitsAt (argAt args 2) 24 4 → sp = spanOfWord (argAt args 0) →
    b = bodyOfWords (argAt args 1) (argAt args 2) (args.drop 3) → sp.valid = true → s.bodyValid sp.count b = true →
    s.overlapFound x.items sp = false → x.items.length < 96 → s.FirstFreeRow r → s.FirstFreeCopy c →
    ∃ t, exec (.insert p seq args) s =
        .next (t.answered p seq .done [packWord [(r, 0), (c, 16)], packWord [(x.items.length + 1, 0)]]) ∧
      t.session = some { owner := p, timer := s.params.editTimeout, items := x.items ++ [.insert r] } ∧
      (∀ k, t.row k = if k = r then { Row.free with phase := .newDraft, span := some sp, draft := some c } else s.row k) ∧
      (∀ k, t.copy k = if k = c then { Copy.free with state := .draft, owner := some r, body := some b } else s.copy k) ∧
      (∀ k, t.slot k = if b.profile = some k then { s.slot k with refCount := (s.slot k).refCount + 1 } else s.slot k) ∧
      t.freeCount = s.freeCount - 1 ∧ t.spanIndex = indexInsert { first := sp.first, row := r } s.spanIndex ∧
      (∀ n, t.link n = s.link n) ∧ t.superseded = s.superseded ∧ t.staged = s.staged ∧ s.SamePorts t ∧ s.SameControl t ∧
      (t.freeCount < s.params.poolWatermark → s.lowArmed = true →
        t.lowArmed = false ∧ t.eventSet = { s.eventSet with set := s.eventSet.set ||| 0x400#12 }) ∧
      (s.params.poolWatermark ≤ t.freeCount ∨ s.lowArmed = false →
        t.lowArmed = s.lowArmed ∧ t.eventSet = s.eventSet)

/-- A span is valid as R5 says, two valid spans overlap when they share a channel, and an INSERT whose span is not valid is
refused with BAD_SPAN, before the overlap check, with the directory left as it was; the owner's timer restarts (R59). -/
def Obligations.SpanCheck : Prop :=
  (∀ sp : Span, sp.valid = true ↔ sp.first ≤ 16383 ∧ 1 ≤ sp.count ∧ sp.count ≤ 256 ∧ sp.first + sp.count - 1 ≤ 16383) ∧
  (∀ a b : Span, a.valid = true → b.valid = true → (a.overlaps b = true ↔ ∃ c,
    (a.first ≤ c ∧ c ≤ a.first + a.count - 1) ∧ (b.first ≤ c ∧ c ≤ b.first + b.count - 1))) ∧
  (∀ (p : Port) (seq : Half) (args : List Word) (s : State) (x : Session), s.Ready p .insert → s.Owns p x →
    args.length = 3 + bitsAt (argAt args 2) 24 4 → (spanOfWord (argAt args 0)).valid = false →
    exec (.insert p seq args) s = .next ((s.timerRestarted x).answered p seq .badSpan []))

/-- AMEND of a row without a draft in the session allocates the lowest FREE copy as its draft, cloned from the staged copy or else the
live copy with the selected fields written over, and adds an AMEND item (R12, R30, R67). AMEND of a row that has one writes the
selected fields over that draft, moves one profile reference when the profile changes, and leaves the change set and every other copy
and row as they were (R48, R68). -/
def Obligations.AmendDrafts : Prop :=
  (∀ (p : Port) (seq : Half) (args : List Word) (s : State) (x : Session) (b : Body) (r c : Nat),
    s.Ready p .amend → s.Owns p x → r = bitsAt (argAt args 0) 0 16 → r < 1024 →
    args.length = 3 + (if (argAt args 0).getLsbD 22 then bitsAt (argAt args 2) 24 4 else 0) →
    bitsAt (argAt args 0) 16 7 ≠ 0 → (s.row r).phase = .live ∨ (s.row r).phase = .newStaged →
    hasRetire x.items r = false → hasDraftItem x.items r = false → (s.row r).draft = none →
    b = amendBody (argAt args 0) (argAt args 1) (argAt args 2) (args.drop 3)
      (s.bodyOf (((s.row r).staged.or (s.row r).live).getD 0)) →
    s.bodyValid (s.spanOf r).count b = true → x.items.length < 96 → s.FirstFreeCopy c →
    ∃ t, exec (.amend p seq args) s =
        .next (t.answered p seq .done [numWord c, packWord [(x.items.length + 1, 0)]]) ∧
      t.session = some { owner := p, timer := s.params.editTimeout, items := x.items ++ [.amend r] } ∧
      (∀ k, t.row k = if k = r then { s.row r with draft := some c } else s.row k) ∧
      (∀ k, t.copy k = if k = c then
          { Copy.free with state := .draft, owner := some r, base := (s.row r).staged.or (s.row r).live, body := some b }
        else s.copy k) ∧
      (∀ k, t.slot k = if b.profile = some k then { s.slot k with refCount := (s.slot k).refCount + 1 } else s.slot k) ∧
      t.freeCount = s.freeCount - 1 ∧ t.spanIndex = s.spanIndex ∧ (∀ n, t.link n = s.link n) ∧
      t.superseded = s.superseded ∧ t.staged = s.staged ∧ s.SamePorts t ∧ s.SameControl t) ∧
  (∀ (p : Port) (seq : Half) (args : List Word) (s : State) (x : Session) (b : Body) (r c : Nat),
    s.Ready p .amend → s.Owns p x → r = bitsAt (argAt args 0) 0 16 → r < 1024 →
    args.length = 3 + (if (argAt args 0).getLsbD 22 then bitsAt (argAt args 2) 24 4 else 0) →
    bitsAt (argAt args 0) 16 7 ≠ 0 →
    (s.row r).phase = .live ∨ (s.row r).phase = .newStaged ∨ (s.row r).phase = .newDraft →
    hasRetire x.items r = false → hasDraftItem x.items r = true → (s.row r).draft = some c →
    b = amendBody (argAt args 0) (argAt args 1) (argAt args 2) (args.drop 3) (s.bodyOf c) →
    s.bodyValid (s.spanOf r).count b = true →
    ∃ t, exec (.amend p seq args) s =
        .next (t.answered p seq .done [numWord c, packWord [(x.items.length, 0)]]) ∧
      t.session = some { owner := p, timer := s.params.editTimeout, items := x.items } ∧
      (∀ k, t.copy k = if k = c then { s.copy c with body := some b } else s.copy k) ∧
      (∀ k, t.slot k = if (s.copy c).profile = b.profile then s.slot k
        else if (s.copy c).profile = some k then { s.slot k with refCount := (s.slot k).refCount - 1 }
        else if b.profile = some k then { s.slot k with refCount := (s.slot k).refCount + 1 } else s.slot k) ∧
      (∀ k, t.row k = s.row k) ∧ t.freeCount = s.freeCount ∧ t.lowArmed = s.lowArmed ∧ t.eventSet = s.eventSet ∧
      t.spanIndex = s.spanIndex ∧ (∀ n, t.link n = s.link n) ∧ t.superseded = s.superseded ∧ t.staged = s.staged ∧
      s.SamePorts t ∧ s.SameControl t)

/-- RETIRE of a LIVE or NEW_STAGED row without an item adds a RETIRE item; with an AMEND item the item becomes a RETIRE item and
the draft is freed; of a NEW_DRAFT row it undoes the INSERT: the row and its draft are FREE and the item is gone (R13, R31, R70). -/
def Obligations.RetireByItem : Prop :=
  ∀ (p : Port) (seq : Half) (w : Word) (s : State) (x : Session) (r : Nat),
    s.Ready p .retire → s.Owns p x → r = bitsAt w 0 16 → r < 1024 → hasRetire x.items r = false →
    ((s.row r).phase = .live ∨ (s.row r).phase = .newStaged → x.items.contains (.amend r) = false → x.items.length < 96 →
      exec (.retire p seq [w]) s = .next ((s.withItems p (x.items ++ [.retire r])).answered p seq .done
        [packWord [(x.items.length + 1, 0), (0, 16)]])) ∧
    (∀ c, (s.row r).phase = .live ∨ (s.row r).phase = .newStaged → x.items.contains (.amend r) = true →
      (s.row r).draft = some c →
      ∃ t, exec (.retire p seq [w]) s = .next (t.answered p seq .done [packWord [(x.items.length, 0), (1, 16)]]) ∧
        t.session = some { owner := p, timer := s.params.editTimeout, items := x.items.map (fun i => if i = .amend r then .retire r else i) } ∧
        (∀ k, t.row k = if k = r then { s.row r with draft := none } else s.row k) ∧
        (∀ k, t.copy k = if k = c then Copy.free else s.copy k) ∧ t.freeCount = s.freeCount + 1 ∧
        (∀ k, t.slot k = if (s.copy c).profile = some k then { s.slot k with refCount := (s.slot k).refCount - 1 }
          else s.slot k) ∧
        t.spanIndex = s.spanIndex ∧ (∀ n, t.link n = s.link n) ∧ t.staged = s.staged ∧ t.eventSet = s.eventSet ∧
        s.SamePorts t ∧ s.SameControl t) ∧
    (∀ c, (s.row r).phase = .newDraft → (s.row r).draft = some c → (s.row r).watch = [] →
      ∃ t, exec (.retire p seq [w]) s = .next (t.answered p seq .done
          [packWord [((x.items.filter (fun i => decide (i ≠ .insert r))).length, 0), (2, 16)]]) ∧
        t.session = some { owner := p, timer := s.params.editTimeout, items := x.items.filter (fun i => decide (i ≠ .insert r)) } ∧
        (∀ k, t.row k = if k = r then Row.free else s.row k) ∧
        (∀ k, t.copy k = if k = c then Copy.free else s.copy k) ∧ t.freeCount = s.freeCount + 1 ∧
        (∀ k, t.slot k = if (s.copy c).profile = some k then { s.slot k with refCount := (s.slot k).refCount - 1 }
          else s.slot k) ∧
        t.spanIndex = s.spanIndex.filter (fun it => decide (it.row ≠ r)) ∧ (∀ n, t.link n = s.link n) ∧
        t.staged = s.staged ∧ t.eventSet = s.eventSet ∧ s.SamePorts t ∧ s.SameControl t)

/-- RETIRE_GROUP. A row matches when it is LIVE or NEW_STAGED, its newest body has the tag, and the change set has no RETIRE item for it
(R72). With room for one item for each matching row without an AMEND item, every matching row gets a RETIRE item: an AMEND item becomes
one where it stands and the row's draft is freed, the others join behind in ascending row id; the response counts the rows matched and
the rows converted; nothing else changes. Without room nothing does (R73, R31). -/
def Obligations.RetireGroupWholeOrNone : Prop :=
  ∀ (p : Port) (seq : Half) (w : Word) (s : State) (x : Session) (rs fresh : List Nat),
    s.Ready p .retireGroup → s.Owns p x → rs = s.groupRows (bitsAt w 0 8) →
    fresh = rs.filter (fun r => !x.items.contains (.amend r)) →
    (∀ r, r ∈ rs ↔ ((s.row r).phase = .live ∨ (s.row r).phase = .newStaged) ∧
      (s.bodyOf ((((s.row r).draft.or (s.row r).staged).or (s.row r).live).getD 0)).group = bitsAt w 0 8 ∧
      .retire r ∉ x.items) ∧
    (fresh = rs → x.items.length + rs.length ≤ 96 →
      exec (.retireGroup p seq [w]) s = .next ((s.withItems p (x.items ++ rs.map ChangeItem.retire)).answered p seq .done
        [packWord [(rs.length, 0), (0, 16)], packWord [(x.items.length + rs.length, 0)]])) ∧
    (s.StoresKept → x.items.length + fresh.length ≤ 96 →
      ∃ t, exec (.retireGroup p seq [w]) s = .next (t.answered p seq .done
          [packWord [(rs.length, 0), (rs.length - fresh.length, 16)], packWord [(x.items.length + fresh.length, 0)]]) ∧
        rs.Pairwise (fun q r => q < r) ∧
        t.session = some { owner := p, timer := s.params.editTimeout,
                           items := x.items.map (ChangeItem.retiredBy rs) ++ fresh.map ChangeItem.retire } ∧
        (∀ r, t.row r = if r ∈ rs then { s.row r with draft := none } else s.row r) ∧
        (∀ c, t.copy c = if (∃ r ∈ rs, (s.row r).draft = some c) then Copy.free else s.copy c) ∧
        t.freeCount = s.freeCount + (rs.length - fresh.length) ∧
        (∀ k j, j = rs.countP (fun r => decide (((s.row r).draft.bind (fun c => (s.copy c).profile)) = some k)) →
          t.slot k = { s.slot k with refCount := (s.slot k).refCount - j }) ∧
        t.spanIndex = s.spanIndex ∧ t.superseded = s.superseded ∧ (∀ n, t.link n = s.link n) ∧ t.staged = s.staged ∧
        t.eventSet = s.eventSet ∧ s.SamePorts t ∧ s.SameControl t) ∧
    (96 < x.items.length + fresh.length →
      exec (.retireGroup p seq [w]) s = .next ((s.timerRestarted x).answered p seq .setFull []))

/-- DEFINE_PROFILE with a valid point list makes a FREE slot PENDING with the points and adds its item; a PENDING slot's points are
replaced and no item is added; a FREE slot with the change set full is SET_FULL, a STAGED or ACTIVE slot PROFILE_STATE (R49).
DROP_PROFILE frees an ACTIVE slot that no copy names and no answer reads, and a PENDING slot that no copy names, with its item; a slot
in use is refused with PROFILE_IN_USE, a FREE or STAGED slot with PROFILE_STATE, and while a save runs SAVE_ACTIVE is answered (R50).
Nothing else changes. -/
def Obligations.ProfileEditsTaken : Prop :=
  (∀ (p : Port) (seq : Half) (args : List Word) (s : State) (x : Session) (k : Nat),
    s.Ready p .defineProfile → s.Owns p x → k = bitsAt (argAt args 0) 0 16 → k < 32 →
    args.length = 1 + bitsAt (argAt args 0) 16 8 → args.length ≤ 63 →
    ((s.slot k).state = .staged ∨ (s.slot k).state = .active →
      exec (.defineProfile p seq args) s = .next ((s.timerRestarted x).answered p seq .profileState [])) ∧
    (pointsValid ((args.drop 1).map pointOfWord) = true →
      ((s.slot k).state = .free → x.items.length < 96 →
        exec (.defineProfile p seq args) s = .next (((s.withItems p (x.items ++ [.defineProfile k])).putSlot k
            { s.slot k with state := .pending, points := some ((args.drop 1).map pointOfWord) }).answered p seq .done
          [packWord [(x.items.length + 1, 0)]])) ∧
      ((s.slot k).state = .free → 96 ≤ x.items.length →
        exec (.defineProfile p seq args) s = .next ((s.timerRestarted x).answered p seq .setFull [])) ∧
      ((s.slot k).state = .pending →
        exec (.defineProfile p seq args) s = .next (((s.timerRestarted x).putSlot k
            { s.slot k with points := some ((args.drop 1).map pointOfWord) }).answered p seq .done
          [packWord [(x.items.length, 0)]])))) ∧
  (∀ (p : Port) (seq : Half) (w : Word) (s : State) (x : Session) (k : Nat),
    s.Ready p .dropProfile → s.Owns p x → k = bitsAt w 0 16 → k < 32 →
    (s.saving = true → exec (.dropProfile p seq [w]) s = .next ((s.timerRestarted x).answered p seq .saveActive [])) ∧
    (s.saving = false → (s.slot k).state = .active → (s.slot k).refCount = 0 → (s.slot k).readerCount = 0 →
      exec (.dropProfile p seq [w]) s = .next (((s.timerRestarted x).putSlot k Slot.free).answered p seq .done [])) ∧
    (s.saving = false → (s.slot k).state = .pending → (s.slot k).refCount = 0 →
      exec (.dropProfile p seq [w]) s = .next (((s.withItems p
        (x.items.filter (fun i => decide (i ≠ .defineProfile k)))).putSlot k Slot.free).answered p seq .done [])) ∧
    (s.saving = false → (s.slot k).state = .active → 0 < (s.slot k).refCount ∨ 0 < (s.slot k).readerCount →
      exec (.dropProfile p seq [w]) s = .next ((s.timerRestarted x).answered p seq .profileInUse [])) ∧
    (s.saving = false → (s.slot k).state = .pending → 0 < (s.slot k).refCount →
      exec (.dropProfile p seq [w]) s = .next ((s.timerRestarted x).answered p seq .profileInUse [])) ∧
    (s.saving = false → (s.slot k).state = .free ∨ (s.slot k).state = .staged →
      exec (.dropProfile p seq [w]) s = .next ((s.timerRestarted x).answered p seq .profileState [])))

/-- A point list is valid as R47 says. DEFINE_PROFILE of a FREE or PENDING slot with a list that is not is refused with
BAD_PROFILE, the slot and the change set left as they were; a restore load of such an entry fails. -/
def Obligations.PointListCheck : Prop :=
  (∀ ps : List Point, pointsValid ps = true ↔
    2 ≤ ps.length ∧ ps.length ≤ 17 ∧ (∀ y ∈ ps, y.input ≤ 4095) ∧
      (∀ y ∈ ps, -32768 ≤ y.output ∧ y.output ≤ 32767) ∧ ps.Pairwise (fun y z => y.input < z.input)) ∧
  (∀ (p : Port) (seq : Half) (args : List Word) (s : State) (x : Session), s.Ready p .defineProfile → s.Owns p x →
    bitsAt (argAt args 0) 0 16 < 32 → args.length = 1 + bitsAt (argAt args 0) 16 8 → args.length ≤ 63 →
    (s.slot (bitsAt (argAt args 0) 0 16)).state = .free ∨ (s.slot (bitsAt (argAt args 0) 0 16)).state = .pending →
    pointsValid ((args.drop 1).map pointOfWord) = false →
    exec (.defineProfile p seq args) s = .next ((s.timerRestarted x).answered p seq .badProfile [])) ∧
  (∀ (e : Nat) (entry : List Byte) (s : State), pointsValid (entryPoints entry) = false → s.loadProfile e entry = none)

/-- What INSERT, AMEND, RETIRE and SEAL from the owner are refused with once their form is right, in the order of their checks: INSERT
with BAD_FIELD for a body not valid for the span, SPAN_OVERLAP with a LIVE or NEW_STAGED row that no RETIRE item names or a NEW_DRAFT
row, SET_FULL, ROWS_FULL, POOL_FULL (R64, R6; BAD_SPAN is SpanCheck's); AMEND with NO_ROW, ROW_STATE, BAD_FIELD, and for a first draft
SET_FULL and POOL_FULL (R67); RETIRE with NO_ROW, ROW_STATE, and SET_FULL for a new item (R70); SEAL with STAGE_PENDING while a staged
set waits (R81). Nothing changes but the owner's idle timer (R59). -/
def Obligations.EditCommandsRefused : Prop :=
  (∀ (p : Port) (seq : Half) (args : List Word) (s : State) (x : Session) (sp : Span) (b : Body),
    s.Ready p .insert → s.Owns p x → args.length = 3 + bitsAt (argAt args 2) 24 4 → sp = spanOfWord (argAt args 0) →
    b = bodyOfWords (argAt args 1) (argAt args 2) (args.drop 3) → sp.valid = true →
    (s.bodyValid sp.count b = false →
      exec (.insert p seq args) s = .next ((s.timerRestarted x).answered p seq .badField [])) ∧
    (∀ r sp', s.bodyValid sp.count b = true → (s.row r).span = some sp' → sp.overlaps sp' = true →
      ((s.row r).phase = .live ∨ (s.row r).phase = .newStaged) ∧ .retire r ∉ x.items ∨ (s.row r).phase = .newDraft →
      exec (.insert p seq args) s = .next ((s.timerRestarted x).answered p seq .spanOverlap [])) ∧
    (s.bodyValid sp.count b = true →
      (∀ r sp', (s.row r).span = some sp' → sp.overlaps sp' = true →
        ¬(((s.row r).phase = .live ∨ (s.row r).phase = .newStaged) ∧ .retire r ∉ x.items ∨ (s.row r).phase = .newDraft)) →
      (96 ≤ x.items.length → exec (.insert p seq args) s = .next ((s.timerRestarted x).answered p seq .setFull [])) ∧
      (x.items.length < 96 → (∀ r < 1024, (s.row r).phase ≠ .free) →
        exec (.insert p seq args) s = .next ((s.timerRestarted x).answered p seq .rowsFull [])) ∧
      (x.items.length < 96 → (∃ r < 1024, (s.row r).phase = .free) → (∀ c < 2560, (s.copy c).state ≠ .free) →
        exec (.insert p seq args) s = .next ((s.timerRestarted x).answered p seq .poolFull [])))) ∧
  (∀ (p : Port) (seq : Half) (args : List Word) (s : State) (x : Session) (b : Body) (r : Nat),
    s.Ready p .amend → s.Owns p x → r = bitsAt (argAt args 0) 0 16 → r < 1024 →
    args.length = 3 + (if (argAt args 0).getLsbD 22 then bitsAt (argAt args 2) 24 4 else 0) →
    b = amendBody (argAt args 0) (argAt args 1) (argAt args 2) (args.drop 3)
      (s.bodyOf ((((s.row r).draft.or (s.row r).staged).or (s.row r).live).getD 0)) →
    ((s.row r).phase = .free ∨ (s.row r).phase = .dead →
      exec (.amend p seq args) s = .next ((s.timerRestarted x).answered p seq .noRow [])) ∧
    ((s.row r).phase ≠ .free → (s.row r).phase ≠ .dead → (s.row r).phase = .dying ∨ .retire r ∈ x.items →
      exec (.amend p seq args) s = .next ((s.timerRestarted x).answered p seq .rowState [])) ∧
    ((s.row r).phase = .newDraft ∨ (s.row r).phase = .newStaged ∨ (s.row r).phase = .live → .retire r ∉ x.items →
      (bitsAt (argAt args 0) 16 7 = 0 ∨ s.bodyValid (s.spanOf r).count b = false →
        exec (.amend p seq args) s = .next ((s.timerRestarted x).answered p seq .badField [])) ∧
      (bitsAt (argAt args 0) 16 7 ≠ 0 → s.bodyValid (s.spanOf r).count b = true → .insert r ∉ x.items → .amend r ∉ x.items →
        (96 ≤ x.items.length → exec (.amend p seq args) s = .next ((s.timerRestarted x).answered p seq .setFull [])) ∧
        (x.items.length < 96 → (∀ c < 2560, (s.copy c).state ≠ .free) →
          exec (.amend p seq args) s = .next ((s.timerRestarted x).answered p seq .poolFull []))))) ∧
  (∀ (p : Port) (seq : Half) (w : Word) (s : State) (x : Session) (r : Nat),
    s.Ready p .retire → s.Owns p x → r = bitsAt w 0 16 → r < 1024 →
    ((s.row r).phase = .free ∨ (s.row r).phase = .dead →
      exec (.retire p seq [w]) s = .next ((s.timerRestarted x).answered p seq .noRow [])) ∧
    ((s.row r).phase ≠ .free → (s.row r).phase ≠ .dead → (s.row r).phase = .dying ∨ .retire r ∈ x.items →
      exec (.retire p seq [w]) s = .next ((s.timerRestarted x).answered p seq .rowState [])) ∧
    ((s.row r).phase = .newStaged ∨ (s.row r).phase = .live → .retire r ∉ x.items → .amend r ∉ x.items → 96 ≤ x.items.length →
      exec (.retire p seq [w]) s = .next ((s.timerRestarted x).answered p seq .setFull []))) ∧
  (∀ (p : Port) (seq : Half) (w : Word) (s : State) (x : Session) (st : StagedSet), s.Ready p .sealSession → s.Owns p x →
    w = 0#32 ∨ w = 1#32 → s.staged = some st →
    exec (.sealSession p seq [w]) s = .next ((s.timerRestarted x).answered p seq .stagePending []))

/-- SEAL with no staged set: the change set becomes the staged set with the policy given, the session closes, every DRAFT copy
becomes STAGED without base copy and every PENDING slot STAGED; other copies and slots, and everything outside the stores, stay.
An empty change set only closes the session (R32, R51, R81, R82). That the answer to an empty set gives the policy is the
model's reading (log 17). -/
def Obligations.SealHandsOver : Prop :=
  ∀ (p : Port) (seq : Half) (w : Word) (s : State) (x : Session), s.Ready p .sealSession → s.Owns p x →
    w = 0#32 ∨ w = 1#32 → s.staged = none →
    (x.items ≠ [] → ∃ t, exec (.sealSession p seq [w]) s = .next (t.answered p seq .done
          [packWord [(x.items.length, 0), (w.toNat, 16)]]) ∧
        t.staged = some { items := x.items, policy := if w = 0#32 then .atMarker else .onCommand } ∧ t.session = none ∧
        (∀ c, t.copy c = if (s.copy c).state = .draft then { s.copy c with state := .staged, base := none } else s.copy c) ∧
        (∀ k, t.slot k = if (s.slot k).state = .pending then { s.slot k with state := .staged } else s.slot k) ∧
        (x.items.Nodup → ∀ r,
          (.insert r ∈ x.items → .amend r ∉ x.items → .retire r ∉ x.items →
            t.row r = { s.row r with phase := .newStaged, staged := (s.row r).draft, draft := none }) ∧
          (.amend r ∈ x.items → .insert r ∉ x.items → .retire r ∉ x.items →
            t.row r = { s.row r with staged := (s.row r).draft, draft := none }) ∧
          (.retire r ∈ x.items → .insert r ∉ x.items → .amend r ∉ x.items →
            t.row r = { s.row r with phase := .dying })) ∧
        (∀ r, .insert r ∉ x.items → .amend r ∉ x.items → .retire r ∉ x.items → t.row r = s.row r) ∧
        t.spanIndex = s.spanIndex ∧ t.freeCount = s.freeCount ∧ t.superseded = s.superseded ∧ t.lowArmed = s.lowArmed ∧
        (∀ n, t.link n = s.link n) ∧ t.eventSet = s.eventSet ∧ s.SamePorts t ∧ s.SameControl t) ∧
    (x.items = [] → exec (.sealSession p seq [w]) s = .next ((s.setSession none).answered p seq .done
          [packWord [(0, 0), (w.toNat, 16)]]))

/-- ABANDON and the idle timer's expiry end the session: the lock is free, every row that an INSERT item names is FREE and its item gone
from the span index, every row that an AMEND item names has no draft, their drafts are FREE, with the free count, the references, the
detector and the superseded list as their freeing leaves them, every slot that a DEFINE_PROFILE item names is FREE, no row or copy comes
into being, the links stay (a NEW_DRAFT row is watched by none, R20), and nothing else changes but SESSION_EXPIRED with the owner for the
expiry (State.Abandoned; R14, R31, R52, R76, R78, R79). -/
def Obligations.SessionEndsInAbandonment : Prop :=
  ∀ (s : State) (x : Session), s.session = some x →
    (∃ t, exec .idleTimerExpiry s = .next t ∧ s.Abandoned x t ∧
      t.eventSet = { s.eventSet with set := s.eventSet.set ||| 0x002#12, sessionExpired := some x.owner }) ∧
    (∀ (p : Port) (seq : Half), s.Ready p .abandon → s.Owns p x →
      ∃ t, exec (.abandon p seq []) s = .next (t.answered p seq .done [packWord [(x.items.length, 0)]]) ∧ s.Abandoned x t ∧
        t.eventSet = s.eventSet)

/-! ### The switch and withdrawing -/

/-- SWITCH in SERVING or HELD below the epoch limit switches the waiting set, whatever its policy, and answers DONE with the new
epoch and the counts of the switch record; with no set it is NOTHING_STAGED, at the limit EPOCH_LIMIT, in COLD and RESTORING NOT_READY,
and nothing changes (R91). MARKER_ARRIVAL raises the marker count, wrapping at 32 bits, and switches the waiting set when its policy is
AT_MARKER, marker enable is on and the epoch is below the limit; otherwise nothing else changes (R88, R89). What the switch leaves in
rows, index, copies, slots, references, watch counts, queues and the switch record is R92 to R97 and R99's, with R16, R17, R34 and R51.
It raises SWITCHED, and NOTICE_OVERFLOW with a link that overflowed when a queue does, and leaves every other pending event and cause
detail (R147, R194); which of several such links is named is a free value (log 12). State.SwitchedTo says it all. -/
def Obligations.StagedSetSwitches : Prop :=
  (∀ (p : Port) (seq : Half) (s : State), s.Ready p .switch →
    (s.opState.working = false → exec (.switch p seq []) s = .next (s.answered p seq .notReady [])) ∧
    (s.opState.working = true → s.staged = none → exec (.switch p seq []) s = .next (s.answered p seq .nothingStaged [])) ∧
    (∀ st, s.opState.working = true → s.staged = some st →
      (s.epoch < 4294967295 → ∃ t x, exec (.switch p seq []) s = .next (t.answered p seq .done
          [numWord (s.epoch + 1), packWord [(x.madeLive, 0), (x.amended, 8), (x.retired, 16), (x.leftDead, 24)],
            packWord [(x.profilesActivated, 0), (x.copiesFreed, 8)], packWord [(x.postings, 0)]]) ∧
        t.switchRecord = some x ∧ s.SwitchedTo .command st t) ∧
      (4294967295 ≤ s.epoch → exec (.switch p seq []) s = .next (s.answered p seq .epochLimit [])))) ∧
  (∀ s : State,
    (∀ st, s.staged = some st → st.policy = .atMarker → s.params.markerEnable = true → s.epoch < 4294967295 →
      ∃ t, exec .markerArrival s = .next t ∧
        (s.setMarkerCount ((s.markerCount + 1) % 4294967296)).SwitchedTo .marker st t) ∧
    ((∀ st, s.staged = some st → st.policy = .onCommand ∨ s.params.markerEnable = false ∨ 4294967295 ≤ s.epoch) →
      exec .markerArrival s = .next (s.setMarkerCount ((s.markerCount + 1) % 4294967296))))

/-- A posting at a link controller: dropped on a DOWN link; merged in place into the notice the queue holds for the row, which takes
the new epoch and is RETIRED if either was, a head already sent becoming due again; else behind the others while there is room;
else the queue overflows into the resync flag with a raised number. A switch's postings reach each link in the order given
(R97, R146, R147, R155). -/
def Obligations.PostingsJoinMergeOrOverflow : Prop :=
  (∀ (l : Link) (x : Notice), l.state = .down → l.takePosting x = (l, false)) ∧
  (∀ (l : Link) (x : Notice), l.state ≠ .down → (∀ y ∈ l.notices, y.row ≠ x.row) →
    (l.notices.length < 32 → l.takePosting x = ({ l with notices := l.notices ++ [x] }, false)) ∧
    (32 ≤ l.notices.length → l.takePosting x = ({ l with
      resyncFlag := true, resyncNumber := (l.resyncNumber + 1) % 65536, notices := [], sendCount := 0, timer := .stopped }, true))) ∧
  (∀ (l : Link) (x y : Notice) (pre post : List Notice), l.state ≠ .down → l.notices = pre ++ y :: post → y.row = x.row →
    (∀ z ∈ pre ++ post, z.row ≠ x.row) →
    l.takePosting x = ({ l with
      notices := pre ++ { row := y.row, kind := if y.kind = .retired ∨ x.kind = .retired then .retired else .changed,
                          epoch := x.epoch } :: post,
      sendCount := if pre = [] ∧ l.resyncFlag = false then 0 else l.sendCount,
      timer := if pre = [] ∧ l.resyncFlag = false ∧ 0 < l.sendCount then .stopped else l.timer }, false)) ∧
  (∀ (ps : List (Nat × Notice)) (s : State) (n : Nat),
    (State.takePostings ps [] s).1.link n = (s.link n).afterPostings (postingsFor n ps))

/-- WITHDRAW is refused NOT_READY in COLD and RESTORING, then NOTHING_STAGED without a staged set, then SESSION_OPEN with a session open, in
that order, and changes nothing (R101). Else it discards the staged set: its NEW_STAGED rows are FREE and gone from the span index, its
DYING rows LIVE again, its staged copies FREE, with the free count, the references, the detector and the superseded list as their freeing
leaves them, its STAGED slots FREE; other rows, the links and all else stay; the response carries the number of items (State.Withdrawn;
R19, R35, R52, R101). -/
def Obligations.WithdrawDiscardsSet : Prop :=
  ∀ (p : Port) (seq : Half) (s : State), s.Ready p .withdraw →
    (s.opState.working = false → exec (.withdraw p seq []) s = .next (s.answered p seq .notReady [])) ∧
    (s.opState.working = true → s.staged = none → exec (.withdraw p seq []) s = .next (s.answered p seq .nothingStaged [])) ∧
    (∀ st, s.opState.working = true → s.staged = some st →
      (s.session ≠ none → exec (.withdraw p seq []) s = .next (s.answered p seq .sessionOpen [])) ∧
      (s.session = none →
        ∃ t, exec (.withdraw p seq []) s = .next (t.answered p seq .done [packWord [(st.items.length, 0)]]) ∧ s.Withdrawn st t))

/-! ### The snapshot store -/

/-- SAVE begins a save: its list is the rows visible at the current epoch with their live copies, in ascending row id, its profile set
the ACTIVE slots, ascending; every listed copy's snapshot pin is set, an identification begins, and ACCEPTED is answered. While a save
runs it is SAVE_ACTIVE, and then outside SERVING and HELD NOT_READY, with nothing changed (R37, R163). -/
def Obligations.SaveBegins : Prop :=
  ∀ (p : Port) (seq : Half) (s : State), s.Ready p .save →
    (s.saving = true → exec (.save p seq []) s = .next (s.answered p seq .saveActive [])) ∧
    (s.saving = false → s.opState.working = false → exec (.save p seq []) s = .next (s.answered p seq .notReady [])) ∧
    (s.saving = false → s.opState.working = true →
    ∃ t, exec (.save p seq []) s = .next (t.answered p seq .accepted
        [numWord s.epoch, packWord [(t.snap.saveList.length, 0), (t.snap.profileSet.length, 16)]]) ∧
      t.snap = { s.snap with
        savePhase := .erasing, saveEpoch := some s.epoch, target := none, sequence := none, writePos := 0,
        check := some 0xFFFFFFFF#32, saveList := t.snap.saveList, profileSet := t.snap.profileSet } ∧
      (∀ i, i ∈ t.snap.saveList ↔ (s.row i.row).visibleAt s.epoch = true ∧
        i.copy = ((s.row i.row).live).getD 0) ∧
      (∀ k, k ∈ t.snap.profileSet ↔ (s.slot k).state = .active) ∧
      (s.StoresKept → t.snap.saveList.Pairwise (fun i j => i.row < j.row) ∧ t.snap.profileSet.Pairwise (fun j k => j < k)) ∧
      (∀ i ∈ t.snap.saveList, (t.copy i.copy).snapPin = true) ∧
      (∀ c, t.copy c = s.copy c ∨ t.copy c = { s.copy c with snapPin := true }) ∧
      (∀ c, (∀ i ∈ t.snap.saveList, i.copy ≠ c) → t.copy c = s.copy c) ∧
      t.flash = { s.flash with op := some .identify } ∧ (∀ r, t.row r = s.row r) ∧ t.slots = s.slots ∧ t.epoch = s.epoch ∧
      t.opState = s.opState ∧ t.session = s.session ∧ t.staged = s.staged ∧ t.links = s.links ∧
      t.eventSet = s.eventSet ∧ s.SamePorts t)

/-- ABORT_SAVE by the save phase: NO_SAVE when IDLE and TOO_LATE in HEADER change nothing; in ERASING, PROFILES and RECORDS the
save ends with kind ABORTED: pins given up, copies and DEAD rows left without freed, the target's survey invalid, the unit idle, and
SAVE_FAILED raised (R169, R37, R38, R18). The response carries outcome, phase and write position. -/
def Obligations.AbortSaveByPhase : Prop :=
  ∀ (p : Port) (seq : Half) (s : State), s.Ready p .abortSave →
    (s.snap.savePhase = .idle → exec (.abortSave p seq []) s = .next (s.answered p seq .done
      [packWord [(0, 0), (0, 4), (s.snap.writePos, 16)]])) ∧
    (s.snap.savePhase = .header → exec (.abortSave p seq []) s = .next (s.answered p seq .done
      [packWord [(2, 0), (4, 4), (s.snap.writePos, 16)]])) ∧
    (s.snap.savePhase = .erasing ∨ s.snap.savePhase = .profiles ∨ s.snap.savePhase = .records →
      ∃ t, exec (.abortSave p seq []) s = .next (t.answered p seq .done
          [packWord [(1, 0), (s.snap.savePhase.code, 4), (s.snap.writePos, 16)]]) ∧
        s.SaveEnded t .aborted ∧ (∀ i ∈ s.snap.saveList, (t.copy i.copy).snapPin = false) ∧ t.flash = { s.flash with op := none })

/-! ### The command processor's own commands -/

/-- START_EMPTY, HOLD, RESUME and RESTORE by the operating state, with the data each carries; nothing else changes (R187, R188).
RESTORE: while a save runs SAVE_ACTIVE; in SERVING and RESTORING, and in HELD unless every row is FREE, no session is open, no staged
set waits and no slot has a reader, NOT_READY; then at the epoch limit EPOCH_LIMIT (R102); and in COLD, and in HELD so, ACCEPTED:
RESTORING, SELECTING, the origin the state it came from, the identification begun, no store touched (R171). -/
def Obligations.OperatingStateCommands : Prop :=
  ∀ (p : Port) (seq : Half) (s : State),
    (s.Ready p .startEmpty → s.opState = .cold →
      exec (.startEmpty p seq []) s = .next ((s.setOpState .serving).answered p seq .done [numWord s.epoch])) ∧
    (s.Ready p .startEmpty → s.opState ≠ .cold →
      exec (.startEmpty p seq []) s = .next (s.answered p seq .notReady [])) ∧
    (s.Ready p .hold → s.opState = .serving →
      exec (.hold p seq []) s = .next ((s.setOpState .held).answered p seq .done [2#32])) ∧
    (s.Ready p .hold → s.opState = .held → exec (.hold p seq []) s = .next (s.answered p seq .done [3#32])) ∧
    (s.Ready p .hold → s.opState = .cold → exec (.hold p seq []) s = .next (s.answered p seq .notReady [0#32])) ∧
    (s.Ready p .hold → s.opState = .restoring → exec (.hold p seq []) s = .next (s.answered p seq .notReady [1#32])) ∧
    (s.Ready p .resume → s.opState = .held →
      exec (.resume p seq []) s = .next ((s.setOpState .serving).answered p seq .done [3#32])) ∧
    (s.Ready p .resume → s.opState = .serving → exec (.resume p seq []) s = .next (s.answered p seq .done [2#32])) ∧
    (s.Ready p .resume → s.opState = .cold → exec (.resume p seq []) s = .next (s.answered p seq .notReady [0#32])) ∧
    (s.Ready p .resume → s.opState = .restoring → exec (.resume p seq []) s = .next (s.answered p seq .notReady [1#32])) ∧
    (s.Ready p .restore →
      (s.saving = true → exec (.restore p seq []) s = .next (s.answered p seq .saveActive [])) ∧
      (s.saving = false → s.opState = .serving ∨ s.opState = .restoring ∨
          s.opState = .held ∧ ((∃ r, (s.row r).phase ≠ .free) ∨ s.session ≠ none ∨ s.staged ≠ none ∨
            ∃ k, 0 < (s.slot k).readerCount) →
        exec (.restore p seq []) s = .next (s.answered p seq .notReady [])) ∧
      (∀ o, s.saving = false → s.opState = .cold ∧ o = .cold ∨
          s.opState = .held ∧ o = .held ∧ (∀ r, (s.row r).phase = .free) ∧ s.session = none ∧ s.staged = none ∧
            (∀ k, (s.slot k).readerCount = 0) →
        (s.epoch < 4294967295 →
          exec (.restore p seq []) s = .next ((((s.setSnap { s.snap with
              restorePhase := .selecting, origin := some o, triedA := false, triedB := false }).setOpState .restoring).setFlash
            { s.flash with op := some .identify }).answered p seq .accepted [])) ∧
        (4294967295 ≤ s.epoch → exec (.restore p seq []) s = .next (s.answered p seq .epochLimit []))))

/-- CLEAR_ALL in HELD with no save, no session, no pin and no reader empties the directory, the pool, the profile table and the
staged set, arms the detector, empties every notice queue and watch count, and sets the resync flag with a raised number on every
UP or QUIET link (R190). Epoch, counters, parameters, events and ports stay. It is refused, with nothing changed, with SAVE_ACTIVE,
NOT_READY, SESSION_OPEN and PINS_HELD, in that order (R189). -/
def Obligations.ClearAllEmptiesStores : Prop :=
  ∀ (p : Port) (seq : Half) (s : State), s.Ready p .clearAll →
    (s.saving = true → exec (.clearAll p seq []) s = .next (s.answered p seq .saveActive [])) ∧
    (s.saving = false → s.opState ≠ .held → exec (.clearAll p seq []) s = .next (s.answered p seq .notReady [])) ∧
    (s.saving = false → s.opState = .held → s.session ≠ none →
      exec (.clearAll p seq []) s = .next (s.answered p seq .sessionOpen [])) ∧
    (s.saving = false → s.opState = .held → s.session = none →
      (∃ c, 0 < (s.copy c).fetchPins ∨ (s.copy c).snapPin = true) ∨ (∃ k, 0 < (s.slot k).readerCount) →
      exec (.clearAll p seq []) s = .next (s.answered p seq .pinsHeld [])) ∧
    (s.saving = false → s.opState = .held → s.session = none →
    (∀ c, (s.copy c).fetchPins = 0 ∧ (s.copy c).snapPin = false) → (∀ k, (s.slot k).readerCount = 0) →
    ∃ t, exec (.clearAll p seq []) s = .next (t.answered p seq .done
        [packWord [(1024 - s.rowCount .free, 0), (2560 - s.copyCount .free, 16)],
          packWord [(32 - s.slotCount .free, 0), (s.stagedItems.length, 16)]]) ∧
      (∀ r, t.row r = Row.free) ∧ t.spanIndex = [] ∧ (∀ c, t.copy c = Copy.free) ∧ t.freeCount = 2560 ∧
      t.superseded = [] ∧ t.lowArmed = true ∧ (∀ k, t.slot k = Slot.free) ∧ t.staged = none ∧
      (∀ n : LinkId, (t.link n).notices = [] ∧ (t.link n).sendCount = 0 ∧ (t.link n).timer = .stopped ∧
        (t.link n).watchCount = 0 ∧ (t.link n).state = (s.link n).state ∧ (t.link n).errors = (s.link n).errors ∧
        (t.link n).prompts = (s.link n).prompts ∧ (t.link n).welcome = (s.link n).welcome ∧
        (t.link n).resyncFlag = (if (s.link n).state = .down then (s.link n).resyncFlag else true) ∧
        (t.link n).resyncNumber =
          (if (s.link n).state = .down then (s.link n).resyncNumber else ((s.link n).resyncNumber + 1) % 65536)) ∧
      t.eventSet = s.eventSet ∧ t.session = none ∧ s.SamePorts t ∧ s.SameControl t)

/-- SET_PARAM replaces the one parameter its selector names and answers the value before and after; a new watermark that the
free count reaches arms the detector; nothing else changes (R41, R193). -/
def Obligations.SetParamReplaces : Prop :=
  ∀ (p : Port) (seq : Half) (w : Word) (s : State) (v : Nat), s.Ready p .setParam → v = bitsAt w 0 16 →
    (bitsAt w 24 8 = 1 → 1 ≤ v → v ≤ 255 → exec (.setParam p seq [w]) s =
      .next ((s.setParams { s.params with editTimeout := v }).answered p seq .done
        [packWord [(s.params.editTimeout, 0), (v, 16)]])) ∧
    (bitsAt w 24 8 = 2 → 1 ≤ v → v ≤ 16 → exec (.setParam p seq [w]) s =
      .next ((s.setParams { s.params with resendInterval := v }).answered p seq .done
        [packWord [(s.params.resendInterval, 0), (v, 16)]])) ∧
    (bitsAt w 24 8 = 3 → v ≤ 2560 → exec (.setParam p seq [w]) s =
      .next (((s.setParams { s.params with poolWatermark := v }).setLowArmed
        (if v ≤ s.freeCount then true else s.lowArmed)).answered p seq .done
        [packWord [(s.params.poolWatermark, 0), (v, 16)]])) ∧
    (bitsAt w 24 8 = 4 → v ≤ 1 → exec (.setParam p seq [w]) s =
      .next ((s.setParams { s.params with markerEnable := decide (v = 1) }).answered p seq .done
        [packWord [(if s.params.markerEnable then 1 else 0, 0), (v, 16)]]))

/-- The checks every command passes first. A kind that is none of the manual's is answered BAD_COMMAND; a word count that 11.4 does not
permit for the kind, or that disagrees with the number of items an argument gives, BAD_LENGTH; an argument out of its range BAD_FIELD
(CountFits, ArgsInRange; R182, R193); an edit command other than OPEN_EDIT then NOT_READY outside SERVING and HELD,
NO_SESSION with the lock free, NOT_OWNER to the other port (R59). Nothing changes but the owner's idle timer at an edit command. A QUERY
whose last word comes on an otherwise empty FIFO is refused in that event when its form is wrong, and else waits at the front, offered to
the lookup engine (R140, R181). The kind codes, largest data counts and result codes are those of 11.4, and a response is its header and
its data words, behind the responses already there (R183). -/
def Obligations.CommandsRefusedInOrder : Prop :=
  (∀ x ∈ [(CmdKind.readStatus, 0x01#8, 40), (.readRow, 0x02#8, 8), (.readCopy, 0x03#8, 15), (.readProfile, 0x04#8, 21),
      (.listSpans, 0x05#8, 33), (.query, 0x06#8, 17), (.linkStatus, 0x07#8, 12), (.openEdit, 0x10#8, 0), (.insert, 0x11#8, 2),
      (.amend, 0x12#8, 2), (.retire, 0x13#8, 1), (.retireGroup, 0x14#8, 2), (.defineProfile, 0x15#8, 1), (.dropProfile, 0x16#8, 0),
      (.sealSession, 0x18#8, 1), (.abandon, 0x19#8, 1), (.touch, 0x1A#8, 1), (.switch, 0x20#8, 4), (.withdraw, 0x21#8, 1),
      (.save, 0x28#8, 2), (.abortSave, 0x29#8, 1), (.restore, 0x2A#8, 0), (.startEmpty, 0x30#8, 1), (.hold, 0x31#8, 1),
      (.resume, 0x32#8, 1), (.clearAll, 0x33#8, 2), (.resetLink, 0x38#8, 1), (.setParam, 0x3C#8, 1)],
    x.1.code = x.2.1 ∧ x.1.maxData = x.2.2) ∧
  (∀ (c : Byte) (k : CmdKind), CmdKind.ofCode c = some k ↔ k.code = c) ∧
  (∀ k : CmdKind, k.isEdit = true ↔ k ∈ [CmdKind.openEdit, .insert, .amend, .retire, .retireGroup, .defineProfile, .dropProfile,
    .sealSession, .abandon, .touch]) ∧
  [Code.done, .accepted, .noSession, .editHeld, .notOwner, .badSpan, .spanOverlap, .badField, .noRow, .rowState, .rowsFull, .poolFull,
    .setFull, .badProfile, .profileState, .profileInUse, .stagePending, .nothingStaged, .sessionOpen, .notReady, .saveActive, .pinsHeld,
    .epochLimit, .badCommand, .badLength].map Code.number =
    [1, 2, 3, 4, 5, 6, 7, 8, 9, 10, 11, 12, 13, 14, 15, 16, 17, 18, 19, 20, 21, 22, 23, 25, 26] ∧
  (∀ (p : Port) (seq : Half) (c : Code) (data : List Word) (s : State), data.length ≤ 63 →
    ∃ h : Word, s.answered p seq c data = s.putPort p { s.port p with responses := (s.port p).responses ++ h :: data } ∧
      bitsAt h 24 8 = c.number ∧ bitsAt h 22 2 = 0 ∧ bitsAt h 16 6 = data.length ∧ h.extractLsb' 0 16 = seq) ∧
  (∀ (p : Port) (kind : Byte) (seq : Half) (args : List Word) (s : State), CmdKind.ofCode kind = none →
    args.length ≤ 63 → (s.port p).commands = [] → (s.port p).overflow = false → (s.port p).responses.length ≤ 63 →
    exec (.unknownCommand p kind seq args) s = .next (s.answered p seq .badCommand [])) ∧
  (∀ (k : CmdKind) (p : Port) (seq : Half) (args : List Word) (s : State), k ≠ .query → s.Ready p k → args.length ≤ 63 →
    (¬CountFits args k →
      exec (commandOf p seq args k) s = .next ((s.restartedBy p k).answered p seq .badLength [])) ∧
    (CountFits args k → ¬ArgsInRange args k →
      exec (commandOf p seq args k) s = .next ((s.restartedBy p k).answered p seq .badField [])) ∧
    (CountFits args k → ArgsInRange args k → k.isEdit = true → k ≠ .openEdit →
      (s.opState.working = false →
        exec (commandOf p seq args k) s = .next ((s.restartedBy p k).answered p seq .notReady [])) ∧
      (s.opState.working = true → s.session = none →
        exec (commandOf p seq args k) s = .next (s.answered p seq .noSession [])) ∧
      (∀ x, s.opState.working = true → s.session = some x → x.owner ≠ p →
        exec (commandOf p seq args k) s = .next (s.answered p seq .notOwner [])))) ∧
  (∀ (p : Port) (seq : Half) (args ws : List Word) (w : Word) (q : QueuedCommand) (s : State), args.length ≤ 63 →
    ws ++ [w] = headerWord 0x06#8 (args.length + 1) seq :: args →
    (s.port p).commands = (if ws = [] then [] else [{ words := ws, cut := false, released := false }]) →
    (s.port p).overflow = false → (s.port p).responses.length + 18 ≤ 64 →
    q = { words := ws ++ [w], cut := false, released := false } →
    (¬CountFits args .query →
      exec (.commandIn p w) s = .next ((s.putPort p { s.port p with commands := [] }).answered p seq .badLength [])) ∧
    (CountFits args .query → ¬ArgsInRange args .query →
      exec (.commandIn p w) s = .next ((s.putPort p { s.port p with commands := [] }).answered p seq .badField [])) ∧
    (CountFits args .query → ArgsInRange args .query →
      exec (.commandIn p w) s = .next (s.putPort p { s.port p with commands := [q] }) ∧
      (s.putPort p { s.port p with commands := [q] }).QueryOffered p q))

/-! ### The port words -/

/-- COMMAND_IN: a word joins the FIFO as the next word of an incomplete tail command, else as the header of a new one, and nothing else
changes; the last word of the only command there, its header when it has no argument, does what that command's row of the table does.
While the overflow flag is set it is dropped. Offered to a full FIFO it is dropped, the flag is set, CMD_OVERFLOW raised with the port,
and an incomplete tail command takes the cut mark (R180, R181, R184). PORT_STATUS clears the flag, and nothing else when no command is
incomplete or waits cut; an incomplete front command, and one that an overflow cut, is let go and answered BAD_LENGTH, BAD_COMMAND if its
kind is unknown (R185, R182). After either, the commands that can go go from the front, each doing what it does alone at its port and
leaving those behind it in the FIFO, until the front one cannot go (State.GoInOrder; R181). THE MODEL'S CHOICE (log 2): all of these go
in the one event. THE MODEL'S READING (log 16): a command that an overflow cut is not taken before a resynchronise request lets it go.
The premises that no command could be taken are kept by every step (PortsStayWithinBounds). -/
def Obligations.CommandWordsJoinCutAndGo : Prop :=
  ∀ (p : Port) (w : Word) (s : State),
    ((s.port p).commands = [] → (s.port p).overflow = false → 1 < headerCount w →
      exec (.commandIn p w) s = .next (s.putPort p { s.port p with
        commands := [{ words := [w], cut := false, released := false }] })) ∧
    (∀ pre q, (s.port p).commands = pre ++ [q] → (s.port p).overflow = false → (s.port p).wordCount < 64 →
      (s.port p).takeable = none →
      (q.cut = false → q.words ≠ [] →
        q.words.length + 1 < headerCount q.header ∨ pre ≠ [] ∧ q.words.length < headerCount q.header →
        exec (.commandIn p w) s = .next (s.putPort p { s.port p with commands := pre ++ [{ q with words := q.words ++ [w] }] })) ∧
      (q.cut = true ∨ headerCount q.header ≤ q.words.length →
        exec (.commandIn p w) s = .next (s.putPort p { s.port p with
          commands := pre ++ [q, { words := [w], cut := false, released := false }] }))) ∧
    (∀ k seq args ws, k ≠ .query → args.length ≤ 63 → ws ≠ [] → ws ++ [w] = headerWord k.code (args.length + 1) seq :: args →
      (s.port p).commands = [{ words := ws, cut := false, released := false }] → (s.port p).overflow = false →
      exec (.commandIn p w) s = exec (commandOf p seq args k) (s.putPort p { s.port p with commands := [] })) ∧
    (∀ k, CmdKind.ofCode (headerKind w) = some k → k ≠ .query → headerCount w = 1 → s.Ready p k →
      exec (.commandIn p w) s = exec (commandOf p (headerSeq w) [] k) s) ∧
    (∀ cs, (s.port p).overflow = false → (s.port p).wordCount < 64 →
      ((s.port p).commands = [] ∧ cs = [{ words := [w], cut := false, released := false }] ∨
        ∃ pre q, (s.port p).commands = pre ++ [q] ∧
          (q.cut = false ∧ q.words.length < headerCount q.header ∧ cs = pre ++ [{ q with words := q.words ++ [w] }] ∨
            (q.cut = true ∨ headerCount q.header ≤ q.words.length) ∧
              cs = pre ++ [q, { words := [w], cut := false, released := false }])) →
      ∃ t, exec (.commandIn p w) s = .next t ∧ (s.putPort p { s.port p with commands := cs }).GoInOrder p t) ∧
    ((s.port p).overflow = true → (s.port p).takeable = none → exec (.commandIn p w) s = .next s) ∧
    ((s.port p).overflow = false → (s.port p).wordCount = 64 → (s.port p).takeable = none →
      (∀ q ∈ (s.port p).commands, q.released = true → q.cut = true) →
      ∃ t, exec (.commandIn p w) s = .next t ∧ (t.port p).overflow = true ∧
        (t.port p).commands.map QueuedCommand.words = (s.port p).commands.map QueuedCommand.words ∧
        (∀ q, (s.port p).commands.getLast? = some q → q.incomplete = true →
          (t.port p).commands.getLast? = some { q with cut := true }) ∧
        (t.port p).responses = (s.port p).responses ∧ (∀ q, q ≠ p → t.port q = s.port q) ∧
        t.eventSet = { s.eventSet with set := s.eventSet.set ||| 0x800#12, cmdOverflow := some p }) ∧
    (∀ q qs, (s.port p).commands = q :: qs → q.cut = true → q.released = false → (s.port p).takeable = none) ∧
    ((s.port p).takeable = none → (∀ q ∈ (s.port p).commands, q.cut = true → q.released = true) →
      (∀ q, (s.port p).commands.getLast? = some q → q.incomplete = false) →
      exec (.portStatus p w) s = .next (s.putPort p { s.port p with overflow := false })) ∧
    (∀ cs, ((s.port p).commands = [] ∧ cs = [] ∨
        ∃ pre q, (s.port p).commands = pre ++ [q] ∧
          cs = (pre ++ [{ q with cut := q.cut || decide (q.words.length < headerCount q.header) }]).map
            (fun y => { y with released := y.released || y.cut })) →
      ∃ t, exec (.portStatus p w) s = .next t ∧ (s.putPort p { s.port p with overflow := false, commands := cs }).GoInOrder p t) ∧
    (∀ q, (s.port p).commands = [q] → q.incomplete = true ∨ q.cut = true →
      (∀ k, CmdKind.ofCode (headerKind q.header) = some k → (s.port p).responses.length + (1 + k.maxData) ≤ 64 →
        exec (.portStatus p w) s = .next (((s.putPort p { s.port p with overflow := false, commands := [] }).restartedBy p k).answered p
          (headerSeq q.header) .badLength [])) ∧
      (CmdKind.ofCode (headerKind q.header) = none → (s.port p).responses.length + 1 ≤ 64 →
        exec (.portStatus p w) s = .next ((s.putPort p { s.port p with overflow := false, commands := [] }).answered p
          (headerSeq q.header) .badCommand [])))

/-- The port words (11.3, R178). What a read returns: 0 for command in, the oldest response word or 0 for response out, the word counts,
the overflow flag and on the host port the line for port status, the event set and the port's mask. RESPONSE_OUT also removes the word,
and with room made the command that waited does what its row of the table does, and the commands behind it follow in FIFO order
(State.GoInOrder; R181), in the same event by the model's choice (log 2); the field that holds the word returned is the model's own
(log 14). EVENTS clears the events at the positions written as one, with their cause details, and no others (R195);
EVENT_MASK replaces the port's mask whole; line and attention are asserted just when a pending event is unmasked (R196); a write to
response out is ignored. -/
def Obligations.PortWordsReadAndWritten : Prop :=
  ∀ (p : Port) (w : Word) (s : State),
    (s.readPortWord p .commandIn = 0#32 ∧ s.readPortWord p .responseOut = (s.port p).responses.headD 0#32 ∧
      s.readPortWord p .portStatus = packWord [((s.port p).wordCount, 0), ((s.port p).responses.length, 8),
        (flagBit (s.port p).overflow, 16), (match p with | .host => flagBit s.interruptLine | .service => 0, 17)] ∧
      s.readPortWord p .events = s.eventSet.set.zeroExtend 32 ∧ s.readPortWord p .eventMask = (s.mask p).zeroExtend 32) ∧
    ((s.port p).responses = [] →
      exec (.responseOut p) s = .next (s.putPort p { s.port p with readData := 0#32 })) ∧
    (∀ v vs, (s.port p).responses = v :: vs → ({ s.port p with responses := vs } : PortState).takeable = none →
      exec (.responseOut p) s = .next (s.putPort p { s.port p with responses := vs, readData := v })) ∧
    (∀ v vs k seq args, (s.port p).responses = v :: vs → k ≠ .query → args.length ≤ 63 → (s.port p).overflow = false →
      (s.port p).commands = [{ words := headerWord k.code (args.length + 1) seq :: args, cut := false, released := false }] →
      exec (.responseOut p) s = exec (commandOf p seq args k)
        (s.putPort p { s.port p with commands := [], responses := vs, readData := v })) ∧
    (∀ v vs, (s.port p).responses = v :: vs →
      ∃ t, exec (.responseOut p) s = .next t ∧ (s.putPort p { s.port p with responses := vs, readData := v }).GoInOrder p t) ∧
    (∃ t, exec (.events p w) s = .next t ∧ t = s.setEventSet t.eventSet ∧
      (∀ k < 12, t.eventSet.set.getLsbD k = (s.eventSet.set.getLsbD k && !w.getLsbD k)) ∧
      t.eventSet.sessionExpired = (if w.getLsbD 1 then none else s.eventSet.sessionExpired) ∧
      t.eventSet.saveFailed = (if w.getLsbD 3 then none else s.eventSet.saveFailed) ∧
      t.eventSet.restoreFailed = (if w.getLsbD 5 then none else s.eventSet.restoreFailed) ∧
      t.eventSet.linkUp = (if w.getLsbD 6 then none else s.eventSet.linkUp) ∧
      t.eventSet.linkDown = (if w.getLsbD 7 then none else s.eventSet.linkDown) ∧
      t.eventSet.linkQuiet = (if w.getLsbD 8 then none else s.eventSet.linkQuiet) ∧
      t.eventSet.noticeOverflow = (if w.getLsbD 9 then none else s.eventSet.noticeOverflow) ∧
      t.eventSet.cmdOverflow = (if w.getLsbD 11 then none else s.eventSet.cmdOverflow)) ∧
    (∃ t, exec (.eventMask p w) s = .next t ∧ t = s.putMask p (w.extractLsb' 0 12) ∧
      (∀ q, t.mask q = if q = p then w.extractLsb' 0 12 else s.mask q) ∧
      (t.interruptLine = true ↔ ∃ k < 12, s.eventSet.set.getLsbD k = true ∧ (t.mask .host).getLsbD k = true) ∧
      (t.attention = true ↔ ∃ k < 12, s.eventSet.set.getLsbD k = true ∧ (t.mask .service).getLsbD k = true)) ∧
    exec (.registerWriteIgnored p w) s = .next s

/-- A service port transaction (R179, 11.3), as the bits clocked in between assertion and release of the chip select, no other event
coming between its words. One that ends within its first byte, or whose first byte names no word, has no effect. Else each whole word is
one access to the word named: a write is that row of the table, a read shifts out what the word reads as, and a read of response out
removes it; a word cut short is discarded and removes nothing. Its rows join the queue of commands in the same order, which lets other
events come between (log 24). -/
def Obligations.ServiceTransactionActs : Prop :=
  (∀ (bits : List Bool) (s : State), bits.length < 8 → State.serviceTransaction bits s = (s, []) ∧ State.queueTransaction bits s = s) ∧
  (∀ (b : Byte) (rest : List Bool) (s : State), bitsAt b 1 4 ≠ 0 ∨ 4 < bitsAt b 5 3 →
    State.serviceTransaction (bitsOf b ++ rest) s = (s, []) ∧ State.queueTransaction (bitsOf b ++ rest) s = s) ∧
  (∀ (b : Byte) (rest : List Bool) (s : State), rest.length < 32 →
    State.serviceTransaction (bitsOf b ++ rest) s = (s, []) ∧ State.queueTransaction (bitsOf b ++ rest) s = s) ∧
  (∀ (b : Byte) (v : Word) (rest : List Bool) (s : State) (i : Instr), bitsAt b 1 4 = 0 → b.getLsbD 0 = false →
    bitsAt b 5 3 = 0 ∧ i = .commandIn .service v ∨ bitsAt b 5 3 = 1 ∧ i = .registerWriteIgnored .service v ∨
      bitsAt b 5 3 = 2 ∧ i = .portStatus .service v ∨ bitsAt b 5 3 = 3 ∧ i = .events .service v ∨
      bitsAt b 5 3 = 4 ∧ i = .eventMask .service v →
    State.serviceTransaction (bitsOf b ++ bitsOf v ++ rest) s = State.serviceTransaction (bitsOf b ++ rest) (s.ran i) ∧
    State.queueTransaction (bitsOf b ++ bitsOf v ++ rest) s =
      State.queueTransaction (bitsOf b ++ rest) (s.setPending (s.pending ++ [i]))) ∧
  (∀ (b : Byte) (v : Word) (rest : List Bool) (s : State), bitsAt b 1 4 = 0 → b.getLsbD 0 = true → bitsAt b 5 3 = 1 →
    State.serviceTransaction (bitsOf b ++ bitsOf v ++ rest) s =
      ((State.serviceTransaction (bitsOf b ++ rest) (s.ran (.responseOut .service))).1,
        s.service.responses.headD 0#32 :: (State.serviceTransaction (bitsOf b ++ rest) (s.ran (.responseOut .service))).2) ∧
    State.queueTransaction (bitsOf b ++ bitsOf v ++ rest) s =
      State.queueTransaction (bitsOf b ++ rest) (s.setPending (s.pending ++ [.responseOut .service]))) ∧
  (∀ (b : Byte) (v : Word) (rest : List Bool) (s : State) (x : PortWord), bitsAt b 1 4 = 0 → b.getLsbD 0 = true →
    bitsAt b 5 3 = 0 ∧ x = .commandIn ∨ bitsAt b 5 3 = 2 ∧ x = .portStatus ∨ bitsAt b 5 3 = 3 ∧ x = .events ∨
      bitsAt b 5 3 = 4 ∧ x = .eventMask →
    State.serviceTransaction (bitsOf b ++ bitsOf v ++ rest) s =
      ((State.serviceTransaction (bitsOf b ++ rest) s).1,
        s.readPortWord .service x :: (State.serviceTransaction (bitsOf b ++ rest) s).2) ∧
    State.queueTransaction (bitsOf b ++ bitsOf v ++ rest) s = State.queueTransaction (bitsOf b ++ rest) s)

/-! ### Board links -/

/-- LINK_WORD: an unlocked receiver takes no words; at a locked one each word and receiver state gives the receiver's move, and the bad
frame with the error that finds it, that R106 and R107 say (R104, R106, R107, R108). A bad frame, found by a word with bad parity or by a
HEAD, BODY or TAIL, is counted, and the eighth in a row on an UP or QUIET link resets the link, the receiver ending OUTSIDE and a frame
begun by that HEAD discarded, with every effect of a link reset on the stores and LINK_DOWN raised (State.BadFound; R108, R114). A word
that finds no bad frame does so whatever the count. -/
def Obligations.LinkWordMovesReceiver : Prop :=
  ∀ (n : LinkId) (w : WireWord) (s : State),
    ((s.link n).locked = false → exec (.linkWord n w) s = .next s) ∧
    ((s.link n).locked = true →
      (parityGood w = false →
        ((s.link n).rx = .discarding → exec (.linkWord n w) s = .next s) ∧
        ((s.link n).rx ≠ .discarding → ∃ t, exec (.linkWord n w) s = .next t ∧ s.BadFound n .parity .discarding t)) ∧
      (parityGood w = true → wireMarker w = .idle → exec (.linkWord n w) s = .next s) ∧
      (∀ rx, parityGood w = true → wireMarker w = .head → rx = .inFrame { head := wireData w, kept := [], received := 0 } →
        ((s.link n).rx = .outside ∨ (s.link n).rx = .discarding →
          exec (.linkWord n w) s = .next (s.putLink n { s.link n with rx := rx })) ∧
        (∀ f, (s.link n).rx = .inFrame f → ∃ t, exec (.linkWord n w) s = .next t ∧ s.BadFound n .framing rx t)) ∧
      (parityGood w = true → wireMarker w = .body →
        ((s.link n).rx = .outside → ∃ t, exec (.linkWord n w) s = .next t ∧ s.BadFound n .framing .discarding t) ∧
        (∀ f, (s.link n).rx = .inFrame f → exec (.linkWord n w) s = .next (s.putLink n { s.link n with
          rx := .inFrame { f with
            kept := if f.kept.length < 30 then f.kept ++ [wireData w] else f.kept, received := f.received + 1 } })) ∧
        ((s.link n).rx = .discarding → exec (.linkWord n w) s = .next s)) ∧
      (parityGood w = true → wireMarker w = .tail →
        ((s.link n).rx = .outside → ∃ t, exec (.linkWord n w) s = .next t ∧ s.BadFound n .framing .outside t) ∧
        ((s.link n).rx = .discarding → exec (.linkWord n w) s = .next (s.putLink n { s.link n with rx := .outside })) ∧
        (∀ f, (s.link n).rx = .inFrame f → f.received ≠ headLength f.head ∨ crc16 (f.head :: f.kept) ≠ wireData w →
          ∃ t, exec (.linkWord n w) s = .next t ∧ s.BadFound n .check .outside t) ∧
        (∀ f, (s.link n).rx = .inFrame f → f.received = headLength f.head → crc16 (f.head :: f.kept) = wireData w →
          BoardKind.ofCode (headKind f.head) = none ∨ headReserved f.head ≠ 0 ∨
            (∃ k, BoardKind.ofCode (headKind f.head) = some k ∧ k.permits (headLength f.head) = false) →
          ∃ t, exec (.linkWord n w) s = .next t ∧ s.BadFound n .kind .outside t)))

/-- A TAIL that closes a good frame does what the frame's own row of the table does (R106, R107, R109, R198). -/
def Obligations.GoodTailIsItsFrame : Prop :=
  ∀ (n : LinkId) (w : WireWord) (s : State) (f : RxFrame) (k : BoardKind), (s.link n).locked = true →
    (s.link n).rx = .inFrame f → parityGood w = true → wireMarker w = .tail → f.received = headLength f.head →
    f.kept.length = headLength f.head → crc16 (f.head :: f.kept) = wireData w → BoardKind.ofCode (headKind f.head) = some k →
    headReserved f.head = 0 → k.permits (headLength f.head) = true →
    exec (.linkWord n w) s = (match k with
      | .hello => exec (.hello n (headTag f.head) (halfAt f.kept 0)) s
      | .fetch => exec (.fetch n (headTag f.head) (halfAt f.kept 0)
          (if f.kept.length = 2 then some (halfAt f.kept 1) else none)) s
      | .fetchProfile => exec (.fetchProfile n (headTag f.head) (halfAt f.kept 0) (halfAt f.kept 1)) s
      | .watch => exec (.watch n (headTag f.head) (halfAt f.kept 0)) s
      | .unwatch => exec (.unwatch n (headTag f.head) (halfAt f.kept 0)) s
      | .ackNotice => exec (.ackNotice n (halfAt f.kept 0) (halfAt f.kept 1 ++ halfAt f.kept 2)) s
      | .ackResync => exec (.ackResync n (halfAt f.kept 0)) s)

/-- RESET_LINK, and the loss of lock on an UP or QUIET link, leave the link DOWN with nothing queued, owed, watched or in progress; its
error counters and resync number stay, and its lock but for the loss; every watch set loses it, every request gives up its pin or
reader, copies and DEAD rows left without are freed, and the other links stay (R21, R36, R38, R18, R53, R114). LINK_DOWN is raised if
it was UP or QUIET; RESET_LINK answers the state before (R116). RECEIVER_LOCK_GAINED puts the receiver OUTSIDE and changes nothing else;
RECEIVER_LOCK_LOST discards the frame in progress uncounted (R115). -/
def Obligations.LinkResetsAndLock : Prop :=
  (∀ (p : Port) (seq : Half) (w : Word) (s : State) (n : Nat), s.Ready p .resetLink → n = bitsAt w 0 16 → n < 12 →
    ∃ t, exec (.resetLink p seq [w]) s = .next (t.answered p seq .done [packWord [((s.link n).state.code, 0)]]) ∧
      t.link n = { Link.reset with
        locked := (s.link n).locked, errors := (s.link n).errors, resyncNumber := (s.link n).resyncNumber } ∧
      ((s.link n).state = .down → t.eventSet = s.eventSet) ∧
      ((s.link n).state ≠ .down →
        t.eventSet = { s.eventSet with set := s.eventSet.set ||| 0x080#12, linkDown := some n }) ∧
      s.LinkReleased n t) ∧
  (∀ (n : LinkId) (s : State),
    ((s.link n).locked = false →
      exec (.receiverLockGained n) s = .next (s.putLink n { s.link n with locked := true, rx := .outside })) ∧
    ((s.link n).locked = true → (s.link n).state = .down →
      exec (.receiverLockLost n) s = .next (s.putLink n { s.link n with locked := false, rx := .outside })) ∧
    ((s.link n).locked = true → (s.link n).state ≠ .down →
      ∃ t, exec (.receiverLockLost n) s = .next t ∧ t.link n = { Link.reset with
          errors := (s.link n).errors, resyncNumber := (s.link n).resyncNumber } ∧
        t.eventSet = { s.eventSet with set := s.eventSet.set ||| 0x080#12, linkDown := some n } ∧ s.LinkReleased n t))

/-- A good HELLO at level 1 admits the board: the link ends UP with WELCOME pending under the HELLO's tag, the resync flag set with
a raised number, nothing queued or watched, LINK_UP raised and LINK_DOWN not; an idle transmitter, and on an UP or QUIET link every
transmitter, begins WELCOME with the link number, the epoch and the operating state (R110, R112, R155). At another level a DOWN link
gets a prompt BAD_REQUEST while its list has room, and an UP or QUIET link ends DOWN with that prompt alone, begun at once, and
LINK_DOWN raised. On an UP or QUIET link the HELLO is a link reset, with all its releases (R111, R114). -/
def Obligations.HelloAdmits : Prop :=
  ∀ (n : LinkId) (tag : Tag) (level : Half) (s : State), (s.link n).locked = true →
    (level = 1#16 → ∃ t, exec (.hello n tag level) s = .next t ∧ (t.link n).state = .up ∧ (t.link n).welcome = some tag ∧
      (t.link n).resyncFlag = true ∧ (t.link n).resyncNumber = ((s.link n).resyncNumber + 1) % 65536 ∧
      (t.link n).notices = [] ∧ (t.link n).sendCount = 0 ∧ (t.link n).timer = .stopped ∧ (t.link n).rx = .outside ∧
      (t.link n).badCount = 0 ∧ (t.link n).errors = (s.link n).errors ∧
      ((s.link n).state ≠ .down → (t.link n).requests = [] ∧ (t.link n).prompts = [] ∧ (t.link n).watchCount = 0 ∧
        s.LinkReleased n t) ∧
      ((s.link n).state = .down → (t.link n).prompts = (s.link n).prompts ∧ t.rows = s.rows ∧ t.copies = s.copies ∧
        t.slots = s.slots ∧ ∀ m, m ≠ (n : Nat) → t.link m = s.link m) ∧
      ((s.link n).state ≠ .down ∨ (s.link n).tx = none →
        (t.link n).tx = some { tag := tag, content := .welcome n s.epoch s.opState, position := 0 }) ∧
      ((s.link n).state = .down → (s.link n).tx ≠ none → (t.link n).tx = (s.link n).tx) ∧
      t.eventSet = { s.eventSet with set := s.eventSet.set ||| 0x040#12, linkUp := some n } ∧ s.SameOutside t) ∧
    (level ≠ 1#16 → (s.link n).state = .down →
      exec (.hello n tag level) s = .next (State.kick n (s.putLink n { (s.link n).frameClosed with
        prompts := if (s.link n).prompts.length < 4 then (s.link n).prompts ++ [{ tag := tag, reason := .badRequest }]
          else (s.link n).prompts }))) ∧
    (level ≠ 1#16 → (s.link n).state ≠ .down →
      ∃ t, exec (.hello n tag level) s = .next t ∧ t.link n = { Link.reset with
          locked := true, errors := (s.link n).errors, resyncNumber := (s.link n).resyncNumber,
          prompts := [{ tag := tag, reason := .badRequest }],
          tx := some { tag := tag, content := .refusal .badRequest s.epoch true, position := 0 } } ∧
        t.eventSet = { s.eventSet with set := s.eventSet.set ||| 0x080#12, linkDown := some n } ∧ s.LinkReleased n t)

/-- FETCH, FETCH_PROFILE, WATCH and UNWATCH as frames: on an UP link the request joins the queue WAITING, or with four requests there
gets a prompt QUEUE_FULL while that list has room; on a DOWN link it is discarded; on a QUIET link the link first returns to UP with
its resync flag set. Then the transmitter, if idle, may begin a frame (R109, R113, R120, R125, R155). -/
def Obligations.RequestFramesJoinQueue : Prop :=
  ∀ (n : LinkId) (tag : Tag) (a : Ask) (i : Instr) (s : State), (s.link n).locked = true →
    (match a with
      | .fetch ch pr => i = .fetch n tag ch pr
      | .fetchProfile k j => i = .fetchProfile n tag k j
      | .watch ch => i = .watch n tag ch
      | .unwatch r => i = .unwatch n tag r) →
    ((s.link n).state = .up → (s.link n).requests.length < 4 →
      exec i s = .next (State.kick n (s.putLink n { (s.link n).frameClosed with
        requests := (s.link n).requests ++ [Request.waiting tag a] }))) ∧
    ((s.link n).state = .up → 4 ≤ (s.link n).requests.length →
      exec i s = .next (State.kick n (s.putLink n { (s.link n).frameClosed with
        prompts := if (s.link n).prompts.length < 4 then (s.link n).prompts ++ [{ tag := tag, reason := .queueFull }]
          else (s.link n).prompts }))) ∧
    ((s.link n).state = .down → exec i s = .next (State.kick n (s.putLink n (s.link n).frameClosed))) ∧
    ((s.link n).state = .quiet → (s.link n).requests.length < 4 →
      exec i s = .next (State.kick n (s.putLink n { (s.link n).frameClosed with
        state := .up, resyncFlag := true, resyncNumber := ((s.link n).resyncNumber + 1) % 65536, notices := [],
        sendCount := 0, timer := .stopped, requests := (s.link n).requests ++ [Request.waiting tag a] })))

/-- ACK_NOTICE and ACK_RESYNC. On an UP link one that matches removes the head notice, or clears the resync flag, with the send
count 0 and the timer stopped; one that does not is counted stray, the counter staying at 65,535, and changes nothing else
(R103, R152, R153). A QUIET link returns to UP, its queue emptied and its resync flag set with a raised number, and then the
acknowledgement is stray, an ACK_RESYNC whatever number it carries (R113, R153, R155). On a DOWN link it is discarded (R109). -/
def Obligations.AcknowledgementsMatchOrStray : Prop :=
  ∀ (n : LinkId) (row : Half) (epoch : Word) (number : Half) (s : State) (strays : ErrorCounters), (s.link n).locked = true →
    strays = { (s.link n).errors with
      stray := if (s.link n).errors.stray < 65535 then (s.link n).errors.stray + 1 else (s.link n).errors.stray } →
    (∀ y ys, (s.link n).state = .up → (s.link n).notices = y :: ys → (s.link n).resyncFlag = false → y.row = row.toNat →
      y.epoch = epoch.toNat →
      exec (.ackNotice n row epoch) s = .next (State.kick n (s.putLink n { (s.link n).frameClosed with
        notices := ys, sendCount := 0, timer := .stopped }))) ∧
    ((s.link n).state = .up → (s.link n).resyncFlag = true ∨ (s.link n).notices = [] ∨
      (∃ y ys, (s.link n).notices = y :: ys ∧ (y.row ≠ row.toNat ∨ y.epoch ≠ epoch.toNat)) →
      exec (.ackNotice n row epoch) s = .next (State.kick n (s.putLink n { (s.link n).frameClosed with errors := strays }))) ∧
    ((s.link n).state = .up → (s.link n).resyncFlag = true → (s.link n).resyncNumber = number.toNat →
      exec (.ackResync n number) s = .next (State.kick n (s.putLink n { (s.link n).frameClosed with
        resyncFlag := false, sendCount := 0, timer := .stopped }))) ∧
    ((s.link n).state = .up → (s.link n).resyncFlag = false ∨ (s.link n).resyncNumber ≠ number.toNat →
      exec (.ackResync n number) s = .next (State.kick n (s.putLink n { (s.link n).frameClosed with errors := strays }))) ∧
    (∀ i, i = .ackNotice n row epoch ∨ i = .ackResync n number →
      ((s.link n).state = .quiet → exec i s = .next (State.kick n (s.putLink n { (s.link n).frameClosed with
        state := .up, resyncFlag := true, resyncNumber := ((s.link n).resyncNumber + 1) % 65536, notices := [],
        sendCount := 0, timer := .stopped, errors := strays }))) ∧
      ((s.link n).state = .down → exec i s = .next (State.kick n (s.putLink n (s.link n).frameClosed))))

/-- The transmitter at a frame boundary, by rank: WELCOME while pending, then on an UP link a due RESYNC, then a due head notice,
then the oldest TAKEN request's answer, which becomes SENDING, then the oldest prompt refusal; a frame in progress goes on
(R118, R119, R148). The answer carries, with the request's tag, what R132, R133, R135, R142 and R143 say, read as its transmission
begins from the bound copy, its owning row, the slot's points and the bound epoch (State.Carries; R26, R54, R55). -/
def Obligations.TransmitterChoosesByRank : Prop :=
  ∀ (n : Nat) (s : State),
    ((s.link n).tx ≠ none → s.kick n = s) ∧
    ((s.link n).tx = none →
      (∀ tag, (s.link n).welcome = some tag → s.kick n = s.putLink n { s.link n with
        tx := some { tag := tag, content := .welcome n s.epoch s.opState, position := 0 } }) ∧
      ((s.link n).welcome = none → (s.link n).state = .up → (s.link n).resyncFlag = true →
        (s.link n).sendCount = 0 ∨ (s.link n).timer = .runOut ∧ (s.link n).sendCount < 4 →
        s.kick n = s.putLink n { s.link n with
          tx := some { tag := 0#2, content := .resync (s.link n).resyncNumber s.epoch (s.link n).watchCount, position := 0 } }) ∧
      (∀ y ys, (s.link n).welcome = none → (s.link n).state = .up → (s.link n).resyncFlag = false →
        (s.link n).notices = y :: ys → (s.link n).sendCount = 0 ∨ (s.link n).timer = .runOut ∧ (s.link n).sendCount < 4 →
        s.kick n = s.putLink n { s.link n with tx := some { tag := 0#2, content := .notice y, position := 0 } }) ∧
      (∀ pre q post, (s.link n).welcome = none → (s.link n).requests = pre ++ q :: post → (∀ y ∈ pre, y.stage ≠ .taken) →
        q.stage = .taken → (s.link n).state ≠ .up ∨ (0 < (s.link n).sendCount ∧ (s.link n).timer ≠ .runOut) ∨
          ((s.link n).resyncFlag = false ∧ (s.link n).notices = []) →
        ∃ ct, s.Carries q ct ∧ s.kick n = s.putLink n { s.link n with
          requests := pre ++ { q with stage := .sending } :: post,
          tx := some { tag := q.tag, content := ct, position := 0 } }) ∧
      (∀ y ys, (s.link n).welcome = none → (∀ q ∈ (s.link n).requests, q.stage ≠ .taken) → (s.link n).prompts = y :: ys →
        (s.link n).state ≠ .up ∨ (0 < (s.link n).sendCount ∧ (s.link n).timer ≠ .runOut) ∨
          ((s.link n).resyncFlag = false ∧ (s.link n).notices = []) →
        s.kick n = s.putLink n { s.link n with
          tx := some { tag := y.tag, content := .refusal y.reason s.epoch true, position := 0 } }) ∧
      ((s.link n).welcome = none → (s.link n).resyncFlag = false → (s.link n).notices = [] →
        (∀ q ∈ (s.link n).requests, q.stage ≠ .taken) → (s.link n).prompts = [] → s.kick n = s))

/-- The words of a frame the part sends, one at each position of the transmitter: a HEAD with kind code, body length, tag and zero in
the reserved bits, then its body words in the order and layout of 11.2, then a TAIL with the frame check, without IDLE words between; an
IDLE word of data 0 with no frame in progress; every word of good parity (R104, R105, R118, R198). THE MODEL'S READING (log 25): the 19
bits are one number, the first bit on the wire the most significant. THE MODEL'S CHOICE (log 6): a frame whose TAIL has gone and whose
end has not been taken gives IDLE words. -/
def Obligations.FramesOnTheLine : Prop :=
  (∀ l : Link, l.tx = none → l.lineWord = 1#19) ∧
  (∀ l : Link, parityGood l.lineWord = true) ∧
  (∀ (l : Link) (f : TxFrame) (kind : Nat) (ws : List Half), l.tx = some f → ws.length ≤ 30 →
    (kind, ws) = (match f.content with
      | .welcome n e op => (0x21, [BitVec.ofNat 16 n, BitVec.ofNat 16 (e / 65536), BitVec.ofNat 16 (e % 65536),
          (match op with | .cold => 0#16 | .restoring => 1#16 | .serving => 2#16 | .held => 3#16)])
      | .record r => (0x22, [BitVec.ofNat 16 r.channel, BitVec.ofNat 16 (r.epoch / 65536), BitVec.ofNat 16 (r.epoch % 65536),
          BitVec.ofNat 16 r.row, BitVec.ofNat 16 r.span.first, BitVec.ofNat 16 r.span.count,
          BitVec.ofNat 16 (r.activated / 65536), BitVec.ofNat 16 (r.activated % 65536), BitVec.ofInt 16 r.effective,
          BitVec.ofInt 16 r.body.pedestal, BitVec.ofNat 16 r.body.threshold,
          BitVec.ofNat 16 ((match r.body.gain with | .low => 0 | .mid => 1 | .high => 2 | .auto => 3) * 2 ^ 14 +
            (if r.body.enabled then 2 ^ 13 else 0) +
            (match r.body.profile with | none => 0 | some k => 2 ^ 12 + k * 2 ^ 7) + r.body.trims.length * 2 ^ 3),
          BitVec.ofNat 16 r.body.group,
          (match r.probe with | .notAsked => 0#16 | .value _ => 1#16 | .disabled => 2#16 | .noProfile => 3#16),
          (match r.probe with | .value v => BitVec.ofInt 16 v | _ => 0#16)] ++
        r.body.trims.map (fun y => BitVec.ofNat 16 (y.offset * 2 ^ 8 + (BitVec.ofInt 8 y.delta).toNat)))
      | .profile x => (0x23, [BitVec.ofNat 16 x.slot, BitVec.ofNat 16 (x.epoch / 65536), BitVec.ofNat 16 (x.epoch % 65536),
          BitVec.ofNat 16 (x.activated / 65536), BitVec.ofNat 16 (x.activated % 65536), BitVec.ofNat 16 x.pointCount,
          BitVec.ofNat 16 x.firstIndex] ++ x.points.flatMap (fun y => [BitVec.ofNat 16 y.input, BitVec.ofInt 16 y.output]))
      | .watching a e => (0x24, [BitVec.ofNat 16 a.row, BitVec.ofNat 16 a.first, BitVec.ofNat 16 a.count,
          BitVec.ofNat 16 (e / 65536), BitVec.ofNat 16 (e % 65536), BitVec.ofNat 16 (a.activated / 65536),
          BitVec.ofNat 16 (a.activated % 65536), (if a.already then 1#16 else 0#16), BitVec.ofNat 16 a.watchCount])
      | .unwatched a => (0x25, [BitVec.ofNat 16 a.row, (if a.notWatched then 1#16 else 0#16), BitVec.ofNat 16 a.watchCount])
      | .refusal reason e _ => (0x26, [(match reason with
            | .notReady => 1#16 | .held => 2#16 | .notFound => 3#16 | .unknownProfile => 4#16 | .queueFull => 5#16
            | .watchLimit => 6#16 | .badRequest => 7#16), BitVec.ofNat 16 (e / 65536), BitVec.ofNat 16 (e % 65536)])
      | .notice y => (0x27, [BitVec.ofNat 16 y.row, (match y.kind with | .changed => 0#16 | .retired => 1#16),
          BitVec.ofNat 16 (y.epoch / 65536), BitVec.ofNat 16 (y.epoch % 65536)])
      | .resync number e count => (0x28, [BitVec.ofNat 16 number, BitVec.ofNat 16 (e / 65536), BitVec.ofNat 16 (e % 65536),
          BitVec.ofNat 16 count])) →
    ∃ head : Half, bitsAt head 10 6 = kind ∧ bitsAt head 5 5 = ws.length ∧ head.extractLsb' 3 2 = f.tag ∧ bitsAt head 0 3 = 0 ∧
      (f.position = 0 → bitsAt l.lineWord 17 2 = 1 ∧ l.lineWord.extractLsb' 1 16 = head) ∧
      (∀ i w, f.position = i + 1 → ws[i]? = some w → bitsAt l.lineWord 17 2 = 2 ∧ l.lineWord.extractLsb' 1 16 = w) ∧
      (f.position = ws.length + 1 → bitsAt l.lineWord 17 2 = 3 ∧ l.lineWord.extractLsb' 1 16 = crc16 (head :: ws)) ∧
      (ws.length + 1 < f.position → l.lineWord = 1#19))

/-! ### The lookup engine -/

/-- FETCH_TAKEN and FETCH_PROFILE_TAKEN when the engine's turn is a link whose offered request is of that kind: in SERVING a good
FETCH binds the live copy of the row found, with the epoch, and pins it; a good FETCH_PROFILE binds the ACTIVE slot and raises its
reader count. Refused, with nothing pinned: NOT_READY in COLD and RESTORING, HELD in HELD; then BAD_REQUEST for a channel, probe code,
slot or first point index out of range or a tag in use by a request nearer the head; NOT_FOUND for a channel without a row,
UNKNOWN_PROFILE for a slot not ACTIVE. The request becomes TAKEN, the pointer moves past the link, and the transmitter, if idle, may
begin (R36, R53, R128 to R131, R134). -/
def Obligations.FetchesTaken : Prop :=
  ∀ (n : LinkId) (pre post : List Request) (q : Request) (s : State), s.selected = some n →
    (s.link n).requests = pre ++ q :: post → (∀ y ∈ pre, y.stage ≠ .waiting) → q.stage = .waiting →
    (∀ ch pr r c, q.ask = .fetch ch pr → s.opState = .serving → ch.toNat < 16384 → (∀ y ∈ pre, y.tag ≠ q.tag) →
      (∀ v, pr = some v → v.toNat ≤ 4095) → s.lookup ch.toNat s.epoch = some r → (s.row r).live = some c →
      exec .fetchTaken s = .next (State.kick n (((s.putCopy c { s.copy c with fetchPins := (s.copy c).fetchPins + 1 }).putLink n
        { s.link n with requests := pre ++ { q with
            stage := .taken, boundEpoch := some s.epoch, answer := some .record, boundCopy := some c, boundSlot := none }
          :: post }).setEngine (n + 1)))) ∧
    (∀ ch pr reason, q.ask = .fetch ch pr →
      (s.opState = .cold ∨ s.opState = .restoring) ∧ reason = .notReady ∨ s.opState = .held ∧ reason = .held ∨
        s.opState = .serving ∧ (16384 ≤ ch.toNat ∨ (∃ v, pr = some v ∧ 4095 < v.toNat) ∨ ∃ y ∈ pre, y.tag = q.tag) ∧
          reason = .badRequest ∨
        s.opState = .serving ∧ ch.toNat < 16384 ∧ (∀ v, pr = some v → v.toNat ≤ 4095) ∧ (∀ y ∈ pre, y.tag ≠ q.tag) ∧
          s.lookup ch.toNat s.epoch = none ∧ reason = .notFound →
      exec .fetchTaken s = .next (State.kick n ((s.putLink n { s.link n with requests := pre ++ { q with
            stage := .taken, boundEpoch := some s.epoch, answer := some (.refusal reason), boundCopy := none, boundSlot := none }
          :: post }).setEngine (n + 1)))) ∧
    (∀ k i, q.ask = .fetchProfile k i → s.opState = .serving → k.toNat < 32 → i.toNat ≤ 16 → (∀ y ∈ pre, y.tag ≠ q.tag) →
      (s.slot k.toNat).state = .active →
      exec .fetchProfileTaken s = .next (State.kick n (((s.putSlot k.toNat { s.slot k.toNat with
          readerCount := (s.slot k.toNat).readerCount + 1 }).putLink n
        { s.link n with requests := pre ++ { q with
            stage := .taken, boundEpoch := some s.epoch, answer := some .profile, boundCopy := none, boundSlot := some k.toNat }
          :: post }).setEngine (n + 1)))) ∧
    (∀ k i reason, q.ask = .fetchProfile k i →
      (s.opState = .cold ∨ s.opState = .restoring) ∧ reason = .notReady ∨ s.opState = .held ∧ reason = .held ∨
        s.opState = .serving ∧ (32 ≤ k.toNat ∨ 16 < i.toNat ∨ ∃ y ∈ pre, y.tag = q.tag) ∧ reason = .badRequest ∨
        s.opState = .serving ∧ k.toNat < 32 ∧ i.toNat ≤ 16 ∧ (∀ y ∈ pre, y.tag ≠ q.tag) ∧ (s.slot k.toNat).state ≠ .active ∧
          reason = .unknownProfile →
      exec .fetchProfileTaken s = .next (State.kick n ((s.putLink n { s.link n with requests := pre ++ { q with
            stage := .taken, boundEpoch := some s.epoch, answer := some (.refusal reason), boundCopy := none,
            boundSlot := none } :: post }).setEngine (n + 1))))

/-- WATCH_TAKEN in SERVING adds the link to the watch set of the row that covers the channel and raises its watch count, unless it
watches the row already or has 256 watches (WATCH_LIMIT). It is refused NOT_READY in COLD and RESTORING, HELD in HELD, BAD_REQUEST for a
channel out of range or a tag in use, NOT_FOUND without a row (R130, R142). UNWATCH_TAKEN in every operating state removes it, or
reports NOT_WATCHED, for a row that is not LIVE or DYING too, or is BAD_REQUEST for a row out of range or a tag in use (R143). The
answer decided carries the row, the outcome and the count, a WATCHING also the row's span and its LIVE copy's activated epoch (R20). -/
def Obligations.WatchesTaken : Prop :=
  ∀ (n : LinkId) (pre post : List Request) (q : Request) (s : State), s.selected = some n →
    (s.link n).requests = pre ++ q :: post → (∀ y ∈ pre, y.stage ≠ .waiting) → q.stage = .waiting →
    (∀ ch reason, q.ask = .watch ch →
      (s.opState = .cold ∨ s.opState = .restoring) ∧ reason = .notReady ∨ s.opState = .held ∧ reason = .held ∨
        s.opState = .serving ∧ (16384 ≤ ch.toNat ∨ ∃ y ∈ pre, y.tag = q.tag) ∧ reason = .badRequest ∨
        s.opState = .serving ∧ ch.toNat < 16384 ∧ (∀ y ∈ pre, y.tag ≠ q.tag) ∧ s.lookup ch.toNat s.epoch = none ∧
          reason = .notFound →
      exec .watchTaken s = .next (State.kick n ((s.putLink n { s.link n with requests := pre ++ { q with
            stage := .taken, boundEpoch := some s.epoch, answer := some (.refusal reason), boundCopy := none, boundSlot := none }
          :: post }).setEngine (n + 1)))) ∧
    (∀ ch r, q.ask = .watch ch → s.opState = .serving → ch.toNat < 16384 → (∀ y ∈ pre, y.tag ≠ q.tag) →
      s.lookup ch.toNat s.epoch = some r →
      ((n : Nat) ∉ (s.row r).watch → (s.link n).watchCount < 256 → ∃ t a, exec .watchTaken s = .next (State.kick n t) ∧
        (∀ k, t.row k = if k = r then { s.row r with watch := watchAdd n (s.row r).watch } else s.row k) ∧
        t.link n = { s.link n with watchCount := (s.link n).watchCount + 1, requests := pre ++ { q with
          stage := .taken, boundEpoch := some s.epoch, answer := some (.watching a), boundCopy := none, boundSlot := none }
          :: post } ∧
        a.row = r ∧ a.already = false ∧ a.watchCount = (s.link n).watchCount + 1 ∧ a.first = ((s.row r).span.getD Span.none).first ∧
        a.count = ((s.row r).span.getD Span.none).count ∧
        a.activated = ((s.copy (((s.row r).live).getD 0)).activated).getD 0 ∧ t.engine = n + 1 ∧
        (∀ m, m ≠ (n : Nat) → t.link m = s.link m) ∧
        t.copies = s.copies ∧ t.slots = s.slots ∧ t.eventSet = s.eventSet ∧ s.SameOutside t) ∧
      ((n : Nat) ∈ (s.row r).watch → ∃ a, exec .watchTaken s = .next (State.kick n ((s.putLink n { s.link n with
          requests := pre ++ { q with stage := .taken, boundEpoch := some s.epoch, answer := some (.watching a),
                                      boundCopy := none, boundSlot := none } :: post }).setEngine (n + 1))) ∧
        a.row = r ∧ a.already = true ∧ a.watchCount = (s.link n).watchCount ∧ a.first = ((s.row r).span.getD Span.none).first ∧
        a.count = ((s.row r).span.getD Span.none).count ∧ a.activated = ((s.copy (((s.row r).live).getD 0)).activated).getD 0) ∧
      ((n : Nat) ∉ (s.row r).watch → 256 ≤ (s.link n).watchCount →
        exec .watchTaken s = .next (State.kick n ((s.putLink n { s.link n with
          requests := pre ++ { q with stage := .taken, boundEpoch := some s.epoch, answer := some (.refusal .watchLimit),
                                      boundCopy := none, boundSlot := none } :: post }).setEngine (n + 1))))) ∧
    (∀ r, q.ask = .unwatch r → 1024 ≤ r.toNat ∨ (∃ y ∈ pre, y.tag = q.tag) →
      exec .unwatchTaken s = .next (State.kick n ((s.putLink n { s.link n with requests := pre ++ { q with
          stage := .taken, boundEpoch := some s.epoch, answer := some (.refusal .badRequest), boundCopy := none,
          boundSlot := none } :: post }).setEngine (n + 1)))) ∧
    (∀ r, q.ask = .unwatch r → r.toNat < 1024 → (∀ y ∈ pre, y.tag ≠ q.tag) →
      ((s.row r.toNat).phase = .live ∨ (s.row r.toNat).phase = .dying → (n : Nat) ∈ (s.row r.toNat).watch →
        ∃ t, exec .unwatchTaken s = .next (State.kick n t) ∧
        (∀ k, t.row k = if k = r.toNat then { s.row k with watch := (s.row k).watch.filter (fun m => decide (m ≠ n)) }
          else s.row k) ∧
        t.link n = { s.link n with watchCount := (s.link n).watchCount - 1, requests := pre ++ { q with
          stage := .taken, boundEpoch := some s.epoch, boundCopy := none, boundSlot := none,
          answer := some (.unwatched { row := r.toNat, notWatched := false, watchCount := (s.link n).watchCount - 1 }) }
          :: post } ∧
        t.engine = n + 1 ∧ (∀ m, m ≠ (n : Nat) → t.link m = s.link m) ∧ t.copies = s.copies ∧ t.slots = s.slots ∧
        t.eventSet = s.eventSet ∧ s.SameOutside t) ∧
      ((n : Nat) ∉ (s.row r.toNat).watch ∨ (s.row r.toNat).phase ≠ .live ∧ (s.row r.toNat).phase ≠ .dying →
        exec .unwatchTaken s = .next (State.kick n ((s.putLink n { s.link n with requests := pre ++ { q with
          stage := .taken, boundEpoch := some s.epoch, boundCopy := none, boundSlot := none,
          answer := some (.unwatched { row := r.toNat, notWatched := true, watchCount := (s.link n).watchCount }) }
          :: post }).setEngine (n + 1)))))

/-- The lookup engine's turn is the first requester that offers, in cyclic order from the pointer over L0 to L11, HOST and SERVICE; with
none that offers no request is taken and the pointer stays (R127, R128). The lookup finds a row whose span holds the channel and that is
visible at the epoch; and finds one whenever the index holds the item of such a row (R3, R5, R9). -/
def Obligations.EngineTurnsAndLookupFinds : Prop :=
  (∀ s : State,
    (∀ k, s.selected = some k ↔ ∃ j < 14, k = (s.engine + j) % 14 ∧ s.Offering k ∧
      ∀ i < j, ¬ s.Offering ((s.engine + i) % 14)) ∧
    (s.selected = none ↔ ∀ k < 14, ¬ s.Offering k) ∧
    ((∀ k < 14, ¬ s.Offering k) → ∀ i, i = .fetchTaken ∨ i = .fetchProfileTaken ∨ i = .watchTaken ∨ i = .unwatchTaken ∨
      i = .query → exec i s = .next s)) ∧
  (∀ (s : State) (c e : Nat),
    (∀ r, s.lookup c e = some r → (∃ sp, (s.row r).span = some sp ∧ sp.first ≤ c ∧ c ≤ sp.first + sp.count - 1) ∧
      (∃ b, (s.row r).born = some b ∧ b ≤ e) ∧ (∀ d, (s.row r).dies = some d → e < d)) ∧
    (∀ r sp b, (s.row r).span = some sp → 1 ≤ sp.count → sp.count ≤ 256 → sp.first ≤ c → c ≤ sp.first + sp.count - 1 →
      (s.row r).born = some b → b ≤ e → (∀ d, (s.row r).dies = some d → e < d) →
      { first := sp.first, row := r } ∈ s.spanIndex → ∃ r', s.lookup c e = some r'))

/-! ### Ends of transmission and the resend timer -/

/-- ANSWER_END: the SENDING request leaves the queue and gives up what it holds. A live copy, and a superseded copy that keeps another
pin, loses one fetch pin; a superseded copy losing its last pin is freed, its profile's reference released, and a DEAD row that owned
it and owns no other copy is FREE again, its index item gone; a slot loses one reader; WATCHING and UNWATCHED hold nothing; a REFUSAL is
counted. Every other row stays with its watch set, and so do the other links, no DEAD row being watched (R17, R20). The transmitter is
idle, and chooses (R18, R36, R38, R48, R53, R121, R137). -/
def Obligations.AnswerEndReleases : Prop :=
  ∀ (n : LinkId) (f : TxFrame) (pre post : List Request) (q : Request) (s : State), (s.link n).tx = some f →
    (s.link n).requests = pre ++ q :: post → (∀ y ∈ pre, y.stage ≠ .sending) → q.stage = .sending →
    (∀ r c, f.content = .record r → q.boundCopy = some c → q.boundSlot = none →
      (s.copy c).state = .live ∨ (s.copy c).state = .superseded ∧ (1 < (s.copy c).fetchPins ∨ (s.copy c).snapPin = true) →
      exec (.answerEnd n) s = .next (State.kick n ((s.putCopy c { s.copy c with fetchPins := (s.copy c).fetchPins - 1 }).putLink n
        { s.link n with requests := pre ++ post, tx := none }))) ∧
    (∀ r c, f.content = .record r → q.boundCopy = some c → q.boundSlot = none → (s.copy c).state = .superseded →
      (s.copy c).fetchPins = 1 → (s.copy c).snapPin = false →
      ∃ t, exec (.answerEnd n) s = .next (State.kick n t) ∧ t.copy c = Copy.free ∧ (∀ k, k ≠ c → t.copy k = s.copy k) ∧
        t.freeCount = s.freeCount + 1 ∧ t.superseded = s.superseded.filter (fun d => decide (d ≠ c)) ∧
        (∀ k, t.slot k = if (s.copy c).profile = some k then { s.slot k with refCount := (s.slot k).refCount - 1 }
          else s.slot k) ∧
        (∀ k, s.RowSettled t (fun d => decide (d = c)) k (s.row k)) ∧
        (t.link n).requests = pre ++ post ∧ (t.link n).tx = none ∧
        (s.DeadUnwatched → t.link n = { s.link n with requests := pre ++ post, tx := none } ∧
          ∀ m, m ≠ (n : Nat) → t.link m = s.link m) ∧ t.eventSet = s.eventSet ∧ s.SameOutside t) ∧
    (∀ r k, f.content = .profile r → q.boundCopy = none → q.boundSlot = some k →
      exec (.answerEnd n) s = .next (State.kick n ((s.putSlot k { s.slot k with
          readerCount := (s.slot k).readerCount - 1 }).putLink n
        { s.link n with requests := pre ++ post, tx := none }))) ∧
    ((∃ a e, f.content = .watching a e) ∨ (∃ a, f.content = .unwatched a) → q.boundCopy = none → q.boundSlot = none →
      exec (.answerEnd n) s = .next (State.kick n (s.putLink n { s.link n with requests := pre ++ post, tx := none }))) ∧
    (∀ reason e, f.content = .refusal reason e false → q.boundCopy = none → q.boundSlot = none →
      exec (.answerEnd n) s = .next (State.kick n (s.putLink n { s.link n with
        requests := pre ++ post, tx := none, errors := { (s.link n).errors with
          refusals := if (s.link n).errors.refusals < 65535 then (s.link n).errors.refusals + 1
            else (s.link n).errors.refusals } })))

/-- The ends of WELCOME, a prompt REFUSAL, a NOTICE and a RESYNC: WELCOME pending is cleared; the head of the prompt list leaves and is
counted; the send count rises and the timer starts when the frame is still the one owed, and not when it no longer is. The transmitter
is idle, and chooses (R112, R120, R121, R149). RESEND_TIMER_EXPIRY of a running timer: below four sends the timer is RUN_OUT and the
frame due again; at four an UP link becomes QUIET and LINK_QUIET is raised with its number (R113, R150). A timer that does not run does
not expire (log 5). -/
def Obligations.FrameEndsAndResendTimer : Prop :=
  (∀ (n : LinkId) (f : TxFrame) (s : State), (s.link n).tx = some f →
    (∀ m e op, f.content = .welcome m e op →
      exec (.welcomeEnd n) s = .next (State.kick n (s.putLink n { s.link n with welcome := none, tx := none }))) ∧
    (∀ reason e, f.content = .refusal reason e true →
      exec (.promptRefusalEnd n) s = .next (State.kick n (s.putLink n { s.link n with
        prompts := (s.link n).prompts.drop 1, tx := none, errors := { (s.link n).errors with
          refusals := if (s.link n).errors.refusals < 65535 then (s.link n).errors.refusals + 1
            else (s.link n).errors.refusals } }))) ∧
    (∀ y, f.content = .notice y → (s.link n).resyncFlag = false → (s.link n).notices.head? = some y →
      exec (.noticeEnd n) s = .next (State.kick n (s.putLink n { s.link n with
        sendCount := (s.link n).sendCount + 1, timer := .running s.params.resendInterval, tx := none }))) ∧
    (∀ y, f.content = .notice y → (s.link n).resyncFlag = true ∨ (s.link n).notices.head? ≠ some y →
      exec (.noticeEnd n) s = .next (State.kick n (s.putLink n { s.link n with tx := none }))) ∧
    (∀ k e c, f.content = .resync k e c → (s.link n).resyncFlag = true → (s.link n).resyncNumber = k →
      exec (.resyncEnd n) s = .next (State.kick n (s.putLink n { s.link n with
        sendCount := (s.link n).sendCount + 1, timer := .running s.params.resendInterval, tx := none }))) ∧
    (∀ k e c, f.content = .resync k e c → (s.link n).resyncFlag = false ∨ (s.link n).resyncNumber ≠ k →
      exec (.resyncEnd n) s = .next (State.kick n (s.putLink n { s.link n with tx := none })))) ∧
  (∀ (n : LinkId) (s : State),
    (∀ j, (s.link n).timer = .running j → (s.link n).sendCount < 4 →
      exec (.resendTimerExpiry n) s = .next (State.kick n (s.putLink n { s.link n with timer := .runOut }))) ∧
    (∀ j, (s.link n).timer = .running j → (s.link n).sendCount = 4 → (s.link n).state = .up →
      exec (.resendTimerExpiry n) s = .next ((s.putLink n { s.link n with timer := .runOut, state := .quiet }).setEventSet
        { s.eventSet with set := s.eventSet.set ||| 0x100#12, linkQuiet := some n })) ∧
    ((s.link n).timer = .stopped ∨ (s.link n).timer = .runOut → exec (.resendTimerExpiry n) s = .next s))

/-! ### The flash -/

/-- FLASH_ABSENT, ERASE_TIMEOUT and PROGRAM_TIMEOUT end the save that waits for the flash: SAVE_FAILED with its kind, the target bank
and the write position as last result, every listed snapshot pin given up, the unit idle (State.SaveEnded). With no save running FLASH_ABSENT
ends the restore in the state it came from, the stores untouched (R162, R169, R172, R175). -/
def Obligations.FlashFailuresEndTheirOperation : Prop :=
  ∀ (s : State) (i : Instr) (k : FailKind),
    (s.saving = true →
      (i = .flashAbsent ∧ k = .flashAbsent ∧ s.flash.op = some .identify) ∨
      (i = .eraseTimeout ∧ k = .eraseTimeout ∧ ∃ b, s.flash.op = some (.erase b)) ∨
      (i = .programTimeout ∧ k = .programTimeout ∧ ∃ b g, s.flash.op = some (.program b g)) →
      ∃ t, exec i s = .next t ∧ s.SaveEnded t k ∧ (∀ j ∈ s.snap.saveList, (t.copy j.copy).snapPin = false) ∧
        t.flash = { s.flash with op := none }) ∧
    (s.saving = false → s.flash.op = some .identify →
      ∃ t, exec .flashAbsent s = .next t ∧ s.RestoreFailed t .flashAbsent s.snap.triedA s.snap.triedB ∧
        t.flash = { s.flash with op := none } ∧ t.eventSet = s.eventSet.restoreFailedWith .flashAbsent ∧ s.SameStores t)

/-- IDENTIFICATION_DONE begins the read of bank A's header, and PAGE_READ_DONE of that header records in the survey whether it is
valid and begins the read of bank B's. Bank B's header then lets a save choose target and sequence as the table of R164 gives and issue
the erase, or end ABORTED at the sequence limit with no erase; and lets a restore end with NO_SNAPSHOT, or begin the newest valid bank
(R160, R172): its entries with the target epoch when it has some; ended at once, SERVING, when it has none and its check value is
right; and with its counts, epoch or check value wrong everything discarded, the other valid bank begun, or CORRUPT (R102, R173 to R175).
THE MODEL'S READING: what the survey keeps of a valid header are its counts and check value too, so that they decide although the flash
is changed meanwhile (log 15); a save that ends ABORTED at the sequence limit has chosen no target, so its last result names no
bank and no survey is spoiled (log 19); an operation still running in the device has ended when the identification has (log 9); `changes`
are bytes changed from outside, landed before the page is read (log 8). -/
def Obligations.FlashReadsLeadOn : Prop :=
  ∀ (s : State) (changes : List Host.Cell) (cells : List Host.Cell), cells = applyChanges changes s.flash.cells →
    (s.flash.op = some .identify → ∃ t, exec .identificationDone s = .next t ∧ t.flash.op = some (.read .bankA 0) ∧
      t.flash.device = none ∧ (s.flash.device = none → t.flash.cells = s.flash.cells) ∧ t.snap = s.snap ∧
      t.opState = s.opState ∧ t.eventSet = s.eventSet ∧ s.SameStores t) ∧
    (s.flash.op = some (.read .bankA 0) → ∃ t, exec (.pageReadDone changes) s = .next t ∧
      t.flash = { s.flash with op := some (.read .bankB 0), cells := cells } ∧
      t.snap = { s.snap with surveyA := match headerOfPage (readPage cells .bankA 0) with
        | none => .invalid
        | some h => .valid h } ∧
      t.opState = s.opState ∧ t.eventSet = s.eventSet ∧ s.SameStores t) ∧
    (∀ (a b : Option BankHeader) (vb : Survey), s.flash.op = some (.read .bankB 0) → s.snap.target = none →
      (∀ h, s.snap.surveyA = .valid h ↔ a = some h) → b = headerOfPage (readPage cells .bankB 0) →
      vb = (match b with | none => .invalid | some h => .valid h) →
      ∃ t, exec (.pageReadDone changes) s = .next t ∧ t.flash.cells = cells ∧ t.snap.surveyA = s.snap.surveyA ∧ t.snap.surveyB = vb ∧
        (∀ tgt q, s.saving = true →
          a = none ∧ b = none ∧ tgt = .bankA ∧ q = 1 ∨
          (∃ x, a = some x ∧ b = none ∧ tgt = .bankB ∧ q = x.sequence + 1) ∨
          (∃ y, a = none ∧ b = some y ∧ tgt = .bankA ∧ q = y.sequence + 1) ∨
          (∃ x y, a = some x ∧ b = some y ∧ x.sequence < y.sequence ∧ tgt = .bankA ∧ q = y.sequence + 1) ∨
          (∃ x y, a = some x ∧ b = some y ∧ y.sequence ≤ x.sequence ∧ tgt = .bankB ∧ q = x.sequence + 1) →
          (q ≤ 4294967295 → t.snap = { s.snap with surveyB := vb, target := some tgt, sequence := some q } ∧
            t.flash.op = some (.erase tgt) ∧ t.flash.device = some (.erase tgt) ∧ t.opState = s.opState ∧
            t.eventSet = s.eventSet ∧ s.SameStores t) ∧
          (4294967295 < q → (s.setSnap { s.snap with surveyB := vb }).SaveEnded t .aborted ∧ t.flash.device = s.flash.device ∧
            (∀ j ∈ s.snap.saveList, (t.copy j.copy).snapPin = false))) ∧
        (s.saving = false → a = none → b = none → s.RestoreFailed t .noSnapshot s.snap.triedA s.snap.triedB ∧
          t.eventSet = s.eventSet.restoreFailedWith .noSnapshot ∧ s.SameStores t) ∧
        (∀ bk other h o, s.saving = false → s.snap.triedA = false → s.snap.triedB = false →
          bk = .bankA ∧ other = .bankB ∧ a = some h ∧ b = o ∧ (∀ y, o = some y → y.sequence ≤ h.sequence) ∨
            bk = .bankB ∧ other = .bankA ∧ b = some h ∧ a = o ∧ (∀ x, o = some x → x.sequence < h.sequence) →
          (h.Passes → 0 < h.profileCount + h.recordCount → s.LoadBegun t bk h (decide (bk = .bankA)) (decide (bk = .bankB)) ∧
            t.slots = [] ∧ t.rows = s.rows ∧ t.spanIndex = s.spanIndex ∧ t.copies = s.copies ∧ t.freeCount = s.freeCount ∧
            t.eventSet = s.eventSet) ∧
          (h.Passes → h.profileCount + h.recordCount = 0 → h.bodyCheck = 0xFFFFFFFF#32 →
            s.Restored t bk h (max s.epoch h.savedEpoch + 1) ∧ t.slots = [] ∧ t.rows = s.rows ∧ t.spanIndex = s.spanIndex ∧
            t.copies = s.copies ∧ t.eventSet = { s.eventSet with set := s.eventSet.set ||| 0x010#12 }) ∧
          (h.failsAtOnce →
            (o = none → s.RestoreFailed t .corrupt (decide (bk = .bankA)) (decide (bk = .bankB)) ∧ t.StoresEmpty ∧
              t.eventSet = s.eventSet.restoreFailedWith .corrupt) ∧
            (∀ g, o = some g →
              (g.Passes → 0 < g.profileCount + g.recordCount → s.LoadBegun t other g true true ∧ t.StoresEmpty ∧
                t.eventSet = s.eventSet) ∧
              (g.Passes → g.profileCount + g.recordCount = 0 → g.bodyCheck = 0xFFFFFFFF#32 →
                s.Restored t other g (max s.epoch g.savedEpoch + 1) ∧ t.StoresEmpty ∧
                t.eventSet = { s.eventSet with set := s.eventSet.set ||| 0x010#12 }) ∧
              (g.failsAtOnce → s.RestoreFailed t .corrupt true true ∧ t.StoresEmpty ∧
                t.eventSet = s.eventSet.restoreFailedWith .corrupt)))))

/-- A page of entries read. With its entries loaded, the read position rises and the next page's read begins, or after the last page
the check value decides: right, the part SERVES at the target epoch with what was loaded, every UP or QUIET link owes a RESYNC, and
RESTORE_DONE is raised with the bank's numbers as last result (R173, R175, R123). An entry refused, or the check value wrong, discards
everything loaded: a valid bank not yet tried is begun, with its own target epoch, or ends the restore at once as its header says
(R102, R174); without one the restore ends CORRUPT in the state it came from. POOL_LOW raised by an allocation before the refused entry
stays pending (R41, R42). -/
def Obligations.BankPagesLoad : Prop :=
  ∀ (changes : List Host.Cell) (bk : Bank) (h : BankHeader) (i : Nat) (ok : Bool) (s u v : State),
    s.flash.op = some (.read bk (i + 1)) → s.snap.loadingHeader = some (bk, h) → s.snap.readPos = some i →
    u = s.setFlash { s.flash with cells := applyChanges changes s.flash.cells, op := none } →
    u.loadPage h i (readPage u.flash.cells bk (i + 1)) = (v, ok) →
    ∃ t, exec (.pageReadDone changes) s = .next t ∧ t.flash.cells = u.flash.cells ∧ t.flash.device = s.flash.device ∧
      (ok = true → i + 1 < h.pages →
        t = (v.setSnap { v.snap with readPos := some (i + 1) }).setFlash { v.flash with op := some (.read bk (i + 2)) } ∧
        t.epoch = s.epoch ∧ t.opState = s.opState ∧ t.links = s.links ∧ s.SameBesideRestore t) ∧
      (ok = true → h.pages = i + 1 → v.snap.check = some h.bodyCheck →
        s.Restored t bk h (s.snap.targetEpoch.getD 0) ∧ t.rows = v.rows ∧ t.spanIndex = v.spanIndex ∧ t.copies = v.copies ∧
        t.freeCount = v.freeCount ∧ t.superseded = v.superseded ∧ t.slots = v.slots ∧ t.lowArmed = v.lowArmed ∧
        t.eventSet = { v.eventSet with set := v.eventSet.set ||| 0x010#12 }) ∧
      (ok = false ∨ h.pages = i + 1 ∧ v.snap.check ≠ some h.bodyCheck →
        ((∀ b g, s.snap.survey b = .valid g → s.snap.tried b = true) →
          s.RestoreFailed t .corrupt s.snap.triedA s.snap.triedB ∧ t.StoresEmpty ∧
          t.eventSet = v.eventSet.restoreFailedWith .corrupt) ∧
        (∀ b g, b ≠ bk → s.snap.tried bk = true → s.snap.survey b = .valid g → s.snap.tried b = false →
          (g.Passes → 0 < g.profileCount + g.recordCount → s.LoadBegun t b g true true ∧ t.StoresEmpty ∧
            t.eventSet = v.eventSet) ∧
          (g.Passes → g.profileCount + g.recordCount = 0 → g.bodyCheck = 0xFFFFFFFF#32 →
            s.Restored t b g (max s.epoch g.savedEpoch + 1) ∧ t.StoresEmpty ∧
            t.eventSet = { v.eventSet with set := v.eventSet.set ||| 0x010#12 }) ∧
          (g.failsAtOnce → s.RestoreFailed t .corrupt true true ∧ t.StoresEmpty ∧
            t.eventSet = v.eventSet.restoreFailedWith .corrupt)))

/-- A profile entry of a bank loads into a FREE slot as ACTIVE with the target epoch when its slot id and points pass; a record entry
loads into a FREE row as LIVE, born at the target epoch, with the lowest FREE copy as its live copy, when its row id, its span
against those loaded, and its body pass. An entry that fails a check does not load (R23, R29, R42, R57). That byte 12 of a record entry
fails no check while the profile present bit is clear is the model's choice (log 30). The entries of a page load in their order, two
profiles or four records to a page as far as the header's counts go (R159), each added to the check value, up to the first that does
not load (R173, R200). -/
def Obligations.BankEntriesLoad : Prop :=
  (∀ (h : BankHeader) (i : Nat) (page : List Byte) (s : State),
    (i < (h.profileCount + 1) / 2 → s.loadPage h i page = State.loadEntries (State.loadProfile (s.snap.targetEpoch.getD 0))
      ((List.range (min 2 (h.profileCount - 2 * i))).map (fun j => (page.drop (128 * j)).take 128)) s) ∧
    (∀ j, i = (h.profileCount + 1) / 2 + j → s.loadPage h i page = State.loadEntries (State.loadRecord (s.snap.targetEpoch.getD 0))
      ((List.range (min 4 (h.recordCount - 4 * j))).map (fun j => (page.drop (64 * j)).take 64)) s)) ∧
  (∀ (load : List Byte → State → Option State) (s u : State) (entry : List Byte) (rest : List (List Byte)),
    u = s.setSnap { s.snap with check := some (crc32From (s.snap.check.getD 0xFFFFFFFF#32) entry) } →
    State.loadEntries load [] s = (s, true) ∧
    (∀ t, load entry u = some t → State.loadEntries load (entry :: rest) s = State.loadEntries load rest t) ∧
    (load entry u = none → State.loadEntries load (entry :: rest) s = (s, false))) ∧
  (∀ (e : Nat) (entry : List Byte) (s : State),
    (fieldAt entry 0 1 < 32 → (s.slot (fieldAt entry 0 1)).state = .free → pointsValid (entryPoints entry) = true →
      s.loadProfile e entry = some (s.putSlot (fieldAt entry 0 1)
        { state := .active, activated := some e, points := some (entryPoints entry), refCount := 0, readerCount := 0 })) ∧
    (32 ≤ fieldAt entry 0 1 ∨ (s.slot (fieldAt entry 0 1)).state ≠ .free ∨ pointsValid (entryPoints entry) = false →
      s.loadProfile e entry = none)) ∧
  (∀ (e r c : Nat) (entry : List Byte) (sp : Span) (b : Body) (s : State), r = fieldAt entry 0 2 → sp = entrySpan entry →
    entryBody entry = some b → s.FirstFreeCopy c → r < 1024 → (s.row r).phase = .free → sp.valid = true →
    (∀ q sp', (s.row q).span = some sp' → sp.overlaps sp' = false) → s.bodyValid sp.count b = true →
    ∃ t, s.loadRecord e entry = some t ∧
      (∀ k, t.row k = if k = r then { Row.free with phase := .live, span := some sp, born := some e, live := some c }
        else s.row k) ∧
      (∀ k, t.copy k = if k = c then
          { Copy.free with state := .live, owner := some r, activated := some e, body := some b } else s.copy k) ∧
      (∀ k, t.slot k = if b.profile = some k then { s.slot k with refCount := (s.slot k).refCount + 1 } else s.slot k) ∧
      t.spanIndex = indexInsert { first := sp.first, row := r } s.spanIndex ∧ t.freeCount = s.freeCount - 1 ∧
      (t.freeCount < s.params.poolWatermark → s.lowArmed = true →
        t.lowArmed = false ∧ t.eventSet = { s.eventSet with set := s.eventSet.set ||| 0x400#12 }) ∧
      (s.params.poolWatermark ≤ t.freeCount ∨ s.lowArmed = false → t.lowArmed = s.lowArmed ∧ t.eventSet = s.eventSet) ∧
      t.epoch = s.epoch ∧ t.opState = s.opState ∧ t.links = s.links ∧ t.snap = s.snap ∧ t.flash = s.flash ∧ s.SamePorts t) ∧
  (∀ (e : Nat) (entry : List Byte) (s : State),
    1024 ≤ fieldAt entry 0 2 ∨ (s.row (fieldAt entry 0 2)).phase ≠ .free ∨ (entrySpan entry).valid = false ∨
      (∃ q sp', (s.row q).span = some sp' ∧ (entrySpan entry).overlaps sp' = true) ∨ entryBody entry = none ∨
      (∃ b, entryBody entry = some b ∧ s.bodyValid (entrySpan entry).count b = false) →
    s.loadRecord e entry = none)

/-- BANK_ERASE_DONE: every byte of the erased bank reads 255, every other byte of the flash as before, and the save that waits goes on
to the first profile page, with no profile to the first record page, with no record to the header page (R159, R162, R164 to R167).
PAGE_PROGRAM_DONE: the page's 256 bytes are the ones programmed and every other byte of the flash is as before, the bytes changed from
outside apart. A header page that reads back right completes the save: the unit idle, the target's survey the header written,
SAVE_DONE with its numbers as last result (R167); that the write position is then 0 is the model's choice (log 31). A page that does
not read back right ends the save with VERIFY_MISMATCH (R169, 11.7). -/
def Obligations.FlashWritesLandAndLeadOn : Prop :=
  ∀ (s : State) (b : Bank),
    (s.flash.device = some (.erase b) → s.flash.op = some (.erase b) → s.saving = true → s.snap.target = some b →
      ∃ t, exec .bankEraseDone s = .next t ∧
      (∀ a, readByte t.flash.cells a =
        if pageAddress b 0 ≤ a ∧ a < pageAddress b 0 + 131072 then 255#8 else readByte s.flash.cells a) ∧
      t.snap = { s.snap with savePhase := t.snap.savePhase } ∧
      (s.snap.profileSet ≠ [] → t.PageBegun .profiles b 1
        (fillTo 256 ((s.snap.profileSet.take 2).flatMap (fun k => profileEntry k (s.pointsOf k))))) ∧
      (s.snap.profileSet = [] → s.snap.saveList.drop s.snap.writePos ≠ [] → t.PageBegun .records b 1
        (fillTo 256 (((s.snap.saveList.drop s.snap.writePos).take 4).flatMap
          (fun i => recordEntry i.row (s.spanOf i.row) (s.bodyOf i.copy))))) ∧
      (s.snap.profileSet = [] → s.snap.saveList.drop s.snap.writePos = [] → t.PageBegun .header b 0
        (headerPage (s.snap.headerWith (s.snap.check.getD 0xFFFFFFFF#32)))) ∧
      t.opState = s.opState ∧ t.eventSet = s.eventSet ∧ s.SameStores t) ∧
    (∀ page bytes changes, s.flash.device = some (.program b page bytes) → s.flash.op = some (.program b page) →
      page < 512 → bytes.length = 256 →
      ∃ t, exec (.pageProgramDone changes) s = .next t ∧ t.epoch = s.epoch ∧ t.opState = s.opState ∧ s.SamePorts t ∧
      (changes = [] → (∀ a, readByte t.flash.cells a =
        if pageAddress b page ≤ a ∧ a < pageAddress b page + 256 then bytes.getD (a - pageAddress b page) 0#8
        else readByte s.flash.cells a) ∧
        readPage (applyChanges changes (writeBytes (pageAddress b page) bytes s.flash.cells)) b page = bytes) ∧
      (readPage (applyChanges changes (writeBytes (pageAddress b page) bytes s.flash.cells)) b page = bytes →
        s.snap.savePhase = .header → s.snap.target = some b →
        ∃ h, h = s.snap.headerWith (s.snap.check.getD 0xFFFFFFFF#32) ∧
        t.snap = { s.snap with
          savePhase := .idle, saveEpoch := none, saveList := [], profileSet := [], target := none, sequence := none, writePos := 0,
          check := none, surveyA := if b = .bankA then .valid h else s.snap.surveyA,
          surveyB := if b = .bankB then .valid h else s.snap.surveyB,
          last := .saveDone b h.sequence h.savedEpoch h.profileCount h.recordCount } ∧
        t.flash.op = none ∧ t.flash.device = none ∧
        t.eventSet = { s.eventSet with set := s.eventSet.set ||| 0x004#12 } ∧ s.SameStores t) ∧
      (readPage (applyChanges changes (writeBytes (pageAddress b page) bytes s.flash.cells)) b page ≠ bytes →
        s.SaveEnded t .verifyMismatch ∧ ∀ j ∈ s.snap.saveList, (t.copy j.copy).snapPin = false))

/-- A page that reads back right leads the save on (R165, R166). A profile page adds its entries to the check value. A record page does
so too, and gives up the snapshot pin of each copy on it: a SUPERSEDED copy left without a pin is freed, a DEAD row left without a copy
is FREE again (R37, R38, R18), and the write position rises by the items of the page. The next page is begun in the same event, of
profiles, then of records, then the header page with its values (R159, R167). The check value is the computation of R200. -/
def Obligations.SavePagesLeadOn : Prop :=
  (∀ (v : Word) (bs : List Byte), crc32From v bs = (bs.flatMap bitsOf).foldl
    (fun (r : Word) (b : Bool) => if r.getLsbD 31 = b then r <<< 1 else (r <<< 1) ^^^ 0x04C11DB7#32) v) ∧
  ∀ (b : Bank) (page : Nat) (bytes : List Byte) (changes : List Host.Cell) (v : Word) (s : State),
    s.flash.device = some (.program b page bytes) → s.flash.op = some (.program b page) → s.snap.target = some b → 1 ≤ page →
    readPage (applyChanges changes (writeBytes (pageAddress b page) bytes s.flash.cells)) b page = bytes → s.snap.check = some v →
    s.snap.savePhase = .profiles ∨ s.snap.savePhase = .records →
    ∃ t, exec (.pageProgramDone changes) s = .next t ∧ t.epoch = s.epoch ∧ t.opState = s.opState ∧ t.eventSet = s.eventSet ∧
      t.session = s.session ∧ t.staged = s.staged ∧ s.SamePorts t ∧
      (∀ w, s.snap.savePhase = .profiles →
        w = crc32From v (((s.snap.profileSet.drop (2 * (page - 1))).take 2).flatMap (fun k => profileEntry k (s.pointsOf k))) →
        t.snap = { s.snap with savePhase := t.snap.savePhase, check := some w } ∧ s.SameStores t ∧
        (s.snap.profileSet.drop (2 * page) ≠ [] → t.PageBegun .profiles b (page + 1)
          (fillTo 256 (((s.snap.profileSet.drop (2 * page)).take 2).flatMap (fun k => profileEntry k (s.pointsOf k))))) ∧
        (s.snap.profileSet.drop (2 * page) = [] → s.snap.saveList.drop s.snap.writePos ≠ [] → t.PageBegun .records b (page + 1)
          (fillTo 256 (((s.snap.saveList.drop s.snap.writePos).take 4).flatMap
            (fun i => recordEntry i.row (s.spanOf i.row) (s.bodyOf i.copy))))) ∧
        (s.snap.profileSet.drop (2 * page) = [] → s.snap.saveList.drop s.snap.writePos = [] →
          t.PageBegun .header b 0 (headerPage (s.snap.headerWith w)))) ∧
      (∀ w l l', s.snap.savePhase = .records → l = (s.snap.saveList.drop s.snap.writePos).take 4 →
        l' = s.snap.saveList.drop (s.snap.writePos + l.length) →
        w = crc32From v (l.flatMap (fun i => recordEntry i.row (s.spanOf i.row) (s.bodyOf i.copy))) →
        t.snap = { s.snap with savePhase := t.snap.savePhase, check := some w, writePos := s.snap.writePos + l.length } ∧
        s.PinsGivenUp (l.map SaveItem.copy) t ∧
        (l' ≠ [] → t.PageBegun .records b (page + 1)
          (fillTo 256 ((l'.take 4).flatMap (fun i => recordEntry i.row (t.spanOf i.row) (t.bodyOf i.copy))))) ∧
        (l' = [] → t.PageBegun .header b 0 (headerPage (s.snap.headerWith w))))

/-! ### Arithmetic and formats -/

/-- The effective pedestal is the pedestal with the channel's trim, saturated to 12 bits signed; a curve over a valid point list gives
the first output below the first point, the last output from the last point on, between two points the value on their segment
truncated toward zero, and always a value between -32,768 and 32,767 (R26, R54). -/
def Obligations.ProbeArithmetic : Prop :=
  (∀ (b : Body) (first c : Nat), -2048 ≤ b.effective first c ∧ b.effective first c ≤ 2047 ∧
    ((∀ y ∈ b.trims, y.offset ≠ c - first) → -2048 ≤ b.pedestal → b.pedestal ≤ 2047 → b.effective first c = b.pedestal) ∧
    (∀ pre y post, b.trims = pre ++ y :: post → (∀ z ∈ pre, z.offset ≠ c - first) → y.offset = c - first →
      b.effective first c = max (-2048) (min 2047 (b.pedestal + y.delta)))) ∧
  (∀ (ps : List Point) (x : Int), pointsValid ps = true → -32768 ≤ curve ps x ∧ curve ps x ≤ 32767) ∧
  (∀ (p : Point) (ps : List Point) (x : Int), x < p.input → curve (p :: ps) x = p.output) ∧
  (∀ (ps : List Point) (p : Point) (x : Int), pointsValid (ps ++ [p]) = true → (p.input : Int) ≤ x →
    curve (ps ++ [p]) x = p.output) ∧
  (∀ (pre : List Point) (p q : Point) (post : List Point) (x : Int), pointsValid (pre ++ p :: q :: post) = true →
    (p.input : Int) ≤ x → x < q.input → curve (pre ++ p :: q :: post) x =
      p.output + ((q.output - p.output) * (x - p.input)).tdiv ((q.input : Int) - p.input))

/-- Parity (R197): every word the part sends holds an odd number of ones in its 19 bits, its parity bit being 1 just when the marker and
data bits hold an even number; the IDLE word with data 0 has parity bit 1; the receiver counts all 19 bits; one inverted bit makes
good parity bad, two inverted bits leave it good; and a word of bad parity is handled as one whatever its marker bits are. -/
def Obligations.ParityRule : Prop :=
  (∀ (m : Marker) (d : Half), parityGood (wireWord m d) = true ∧ wireMarker (wireWord m d) = m ∧
    wireData (wireWord m d) = d ∧
    ((wireWord m d).getLsbD 0 = true ↔ onesIn 18 ((wireWord m d).toNat / 2) % 2 = 0)) ∧
  (wireWord .idle 0#16).getLsbD 0 = true ∧
  (∀ w : WireWord, parityGood w = true ↔ ((List.range 19).countP (fun i => w.getLsbD i)) % 2 = 1) ∧
  (∀ (w : WireWord) (i : Nat), i < 19 → parityGood (w ^^^ (1#19 <<< i)) = !parityGood w) ∧
  (∀ (w : WireWord) (i j : Nat), i < 19 → j < 19 → i ≠ j → parityGood (w ^^^ (1#19 <<< i) ^^^ (1#19 <<< j)) = parityGood w) ∧
  (∀ (w : WireWord) (n : Nat) (s : State), parityGood w = false → s.receiveWord w n = s.badWord n)

/-- The frame check (R199): a 16-bit register from 0xFFFF takes the data bits of HEAD and BODY words from bit 15 down, shifting left and
combining 0x1021 when the bit shifted out differs from the data bit; the transmitter ends its frame with it in the TAIL; the receiver
compares it with the TAIL's data unless the body count has failed already. -/
def Obligations.FrameCheckRule : Prop :=
  (∀ ds : List Half, crc16 ds = (ds.flatMap (fun d => (List.range 16).map (fun i => d.getLsbD (15 - i)))).foldl
    (fun (r : Half) (b : Bool) => if r.getLsbD 15 = b then r <<< 1 else (r <<< 1) ^^^ 0x1021#16) 0xFFFF#16) ∧
  (∀ f : TxFrame, f.wireWords.getLast? =
    some (wireWord .tail (crc16 (headData f.content.code f.content.halves.length f.tag :: f.content.halves)))) ∧
  (∀ (f : RxFrame) (d : Half), (f.received ≠ headLength f.head → f.checked d = .inl .check) ∧
    (f.received = headLength f.head → crc16 (f.head :: f.kept) ≠ d → f.checked d = .inl .check) ∧
    (∀ g, f.checked d = .inr g → crc16 (f.head :: f.kept) = d))

/-- What a save writes is what a restore reads: the header page of any header within its fields reads back as that header, a profile
entry as its slot and points, and a record entry as its row, span and body, for every value that the rules admit (R24, R25, R42,
R47, R159, R160, R200, 11.7). -/
def Obligations.SavedBankReadsBack : Prop :=
  (∀ h : BankHeader, h.sequence ≤ 4294967295 → h.savedEpoch ≤ 4294967295 → h.profileCount ≤ 65535 → h.recordCount ≤ 65535 →
    headerOfPage (headerPage h) = some h ∧ (headerPage h).length = 256) ∧
  (∀ (k : Nat) (ps : List Point), k < 32 → pointsValid ps = true →
    fieldAt (profileEntry k ps) 0 1 = k ∧ entryPoints (profileEntry k ps) = ps ∧ (profileEntry k ps).length = 128) ∧
  (∀ (r : Nat) (sp : Span) (b : Body), r < 1024 → sp.valid = true → b.inRange = true → trimsOrdered sp.count b.trims = true →
    (∀ k, b.profile = some k → k < 32) →
    fieldAt (recordEntry r sp b) 0 2 = r ∧ entrySpan (recordEntry r sp b) = sp ∧ entryBody (recordEntry r sp b) = some b ∧
      (recordEntry r sp b).length = 64)

/-! ### What every step keeps -/

/-- Every step keeps every link controller's queues within their capacities, its counts within their ranges and its sends within the
limit, and a DOWN link empty: no request, no notice, no owed RESYNC, no watch, no WELCOME (R103, R114, R120, R124, R144, R145, R150). -/
def Obligations.LinksStayWithinBounds : Prop :=
  ∀ s t : State, s.LinksKept → step s = .next t → t.LinksKept

/-- Every step keeps the operating state and what depends on it in agreement: outside SERVING and HELD no session is open, no staged set
waits and no save runs, and each wait for the flash falls where its save or restore allows it (R59, R91, R162, R163, R171). -/
def Obligations.ModesStayLegal : Prop :=
  ∀ s t : State, s.ModesKept → step s = .next t → t.ModesKept

/-- Every step keeps both FIFOs of both ports within 64 words and leaves no command that could have been taken, the bodies and point
lists that bound a response staying within their ranges (R24, R47, R177, R181, R183). THE MODEL'S CHOICE: that none is left to take
rests on every takeable command being taken in the same event (log 2), and on a command that an overflow cut not being takeable before
a resynchronise request lets it go (log 16). -/
def Obligations.PortsStayWithinBounds : Prop :=
  ∀ s t : State, s.PortsSafe → step s = .next t → t.PortsSafe

/-- The epoch never decreases, except at hard reset, where it becomes 0 (R86). The premise is kept by every step (ModesStayLegal). -/
def Obligations.EpochNeverFalls : Prop :=
  ∀ (c : Instr) (s t : State), s.ModesKept → exec c s = .next t →
    (∀ a b, c ≠ .hardReset a b) → s.epoch ≤ t.epoch

/-- Every step keeps the flash in its canonical form, within its addresses (11.7, log 23). -/
def Obligations.FlashKeepsForm : Prop :=
  ∀ s t : State, Memory.wf s.flash.cells = true → step s = .next t → Memory.wf t.flash.cells = true

/-- Every step keeps directory, copy pool and profile table consistent with each other and with the change set and the staged set
(State.StoresKept): each row, copy and slot holds the fields its phase or state allows (R2, R28, R45); a row's copy fields name exactly
the copies it owns in those states, so that every LIVE row has one live copy; the superseded list holds the SUPERSEDED copies (R39), the
free count is the number of FREE copies (R40), the span index one item for each row in use in ascending order (R7), and the items of both
sets stand for the rows and slots changed by them (R13, R15, R49, R51, R62, R85). The other premise is kept by every step
(ModesStayLegal). -/
def Obligations.StoresStayConsistent : Prop :=
  ∀ s t : State, s.ModesKept → s.StoresKept → step s = .next t → t.StoresKept

/-- Every step keeps the counts by which one part of the device holds on to another (State.HoldsKept): a slot's reference count is the
number of copies that name it (R48), a copy's fetch pins the number of requests bound to it (R36), a slot's reader count the number of
requests that read it (R53), a link's watch count the number of watch sets that hold it (R20, R144). The other premises are kept by
every step (ModesStayLegal, StoresStayConsistent). -/
def Obligations.HoldsStayCounted : Prop :=
  ∀ s t : State, s.ModesKept → s.StoresKept → s.HoldsKept → step s = .next t → t.HoldsKept

/-- Every step keeps the law that no two rows visible at one epoch share a channel, at every epoch, and the overlap checks that make it
so for the sets still to be switched (State.SpansKept; R4, R5, R6, R23). The other premises are kept by every step (ModesStayLegal,
StoresStayConsistent). -/
def Obligations.SpansStayDisjoint : Prop :=
  ∀ s t : State, s.ModesKept → s.StoresKept → s.SpansKept → step s = .next t → t.SpansKept

/-- The state after reset holds the hard reset values of the stores, the publication, the links, the ports, the events and the
parameters (R1, R27, R45, R58, R85, R103, R127, R161, R177, R186, R193, R194, R196), with the strap low (log 10), and meets every
condition that the steps keep. What the flash holds then is the model's choice (log 8). -/
def Obligations.ResetIsHardResetAndSafe : Prop :=
  (∀ r, State.reset.row r = Row.free) ∧ State.reset.spanIndex = [] ∧
  (∀ c, State.reset.copy c = Copy.free) ∧ State.reset.freeCount = 2560 ∧ State.reset.superseded = [] ∧
  State.reset.lowArmed = true ∧ (∀ k, State.reset.slot k = Slot.free) ∧
  State.reset.session = none ∧ State.reset.epoch = 0 ∧ State.reset.staged = none ∧ State.reset.markerCount = 0 ∧
  State.reset.switchRecord = none ∧ (∀ n, State.reset.link n = Link.reset) ∧ State.reset.engine = 0 ∧
  State.reset.snap = Snapshot.reset ∧ (∀ p, State.reset.port p = PortState.reset) ∧ State.reset.opState = .cold ∧
  State.reset.eventSet = EventSet.reset ∧ (∀ p, State.reset.mask p = 0#12) ∧
  State.reset.params = { editTimeout := 50, resendInterval := 4, poolWatermark := 128, markerEnable := true } ∧
  State.reset.LinksKept ∧ State.reset.ModesKept ∧ State.reset.PortsSafe ∧ Memory.wf State.reset.flash.cells = true ∧
  State.reset.StoresKept ∧ State.reset.HoldsKept ∧ State.reset.SpansKept

end
end

