-- ==== Sys2Proof/Laws/State.lean ====
section
/-! SUPPORT. One lemma per field per setter of State, each true by `rfl`, so that no proof unfolds a record update. -/

namespace Sys2Proof.Machine

/-! ### `setPending` -/

@[simp] theorem State.setPending_pending (s : State) (x : List Instr) : (s.setPending x).pending = x := rfl
@[simp] theorem State.setPending_rows (s : State) (x : List Instr) : (s.setPending x).rows = s.rows := rfl
@[simp] theorem State.setPending_spanIndex (s : State) (x : List Instr) : (s.setPending x).spanIndex = s.spanIndex := rfl
@[simp] theorem State.setPending_copies (s : State) (x : List Instr) : (s.setPending x).copies = s.copies := rfl
@[simp] theorem State.setPending_freeCount (s : State) (x : List Instr) : (s.setPending x).freeCount = s.freeCount := rfl
@[simp] theorem State.setPending_superseded (s : State) (x : List Instr) : (s.setPending x).superseded = s.superseded := rfl
@[simp] theorem State.setPending_lowArmed (s : State) (x : List Instr) : (s.setPending x).lowArmed = s.lowArmed := rfl
@[simp] theorem State.setPending_slots (s : State) (x : List Instr) : (s.setPending x).slots = s.slots := rfl
@[simp] theorem State.setPending_session (s : State) (x : List Instr) : (s.setPending x).session = s.session := rfl
@[simp] theorem State.setPending_epoch (s : State) (x : List Instr) : (s.setPending x).epoch = s.epoch := rfl
@[simp] theorem State.setPending_staged (s : State) (x : List Instr) : (s.setPending x).staged = s.staged := rfl
@[simp] theorem State.setPending_markerCount (s : State) (x : List Instr) : (s.setPending x).markerCount = s.markerCount := rfl
@[simp] theorem State.setPending_switchRecord (s : State) (x : List Instr) : (s.setPending x).switchRecord = s.switchRecord := rfl
@[simp] theorem State.setPending_links (s : State) (x : List Instr) : (s.setPending x).links = s.links := rfl
@[simp] theorem State.setPending_engine (s : State) (x : List Instr) : (s.setPending x).engine = s.engine := rfl
@[simp] theorem State.setPending_snap (s : State) (x : List Instr) : (s.setPending x).snap = s.snap := rfl
@[simp] theorem State.setPending_flash (s : State) (x : List Instr) : (s.setPending x).flash = s.flash := rfl
@[simp] theorem State.setPending_host (s : State) (x : List Instr) : (s.setPending x).host = s.host := rfl
@[simp] theorem State.setPending_service (s : State) (x : List Instr) : (s.setPending x).service = s.service := rfl
@[simp] theorem State.setPending_opState (s : State) (x : List Instr) : (s.setPending x).opState = s.opState := rfl
@[simp] theorem State.setPending_eventSet (s : State) (x : List Instr) : (s.setPending x).eventSet = s.eventSet := rfl
@[simp] theorem State.setPending_hostMask (s : State) (x : List Instr) : (s.setPending x).hostMask = s.hostMask := rfl
@[simp] theorem State.setPending_serviceMask (s : State) (x : List Instr) : (s.setPending x).serviceMask = s.serviceMask := rfl
@[simp] theorem State.setPending_params (s : State) (x : List Instr) : (s.setPending x).params = s.params := rfl
@[simp] theorem State.setPending_freeTick (s : State) (x : List Instr) : (s.setPending x).freeTick = s.freeTick := rfl

/-! ### `setRows` -/

@[simp] theorem State.setRows_pending (s : State) (x : Table Row) : (s.setRows x).pending = s.pending := rfl
@[simp] theorem State.setRows_rows (s : State) (x : Table Row) : (s.setRows x).rows = x := rfl
@[simp] theorem State.setRows_spanIndex (s : State) (x : Table Row) : (s.setRows x).spanIndex = s.spanIndex := rfl
@[simp] theorem State.setRows_copies (s : State) (x : Table Row) : (s.setRows x).copies = s.copies := rfl
@[simp] theorem State.setRows_freeCount (s : State) (x : Table Row) : (s.setRows x).freeCount = s.freeCount := rfl
@[simp] theorem State.setRows_superseded (s : State) (x : Table Row) : (s.setRows x).superseded = s.superseded := rfl
@[simp] theorem State.setRows_lowArmed (s : State) (x : Table Row) : (s.setRows x).lowArmed = s.lowArmed := rfl
@[simp] theorem State.setRows_slots (s : State) (x : Table Row) : (s.setRows x).slots = s.slots := rfl
@[simp] theorem State.setRows_session (s : State) (x : Table Row) : (s.setRows x).session = s.session := rfl
@[simp] theorem State.setRows_epoch (s : State) (x : Table Row) : (s.setRows x).epoch = s.epoch := rfl
@[simp] theorem State.setRows_staged (s : State) (x : Table Row) : (s.setRows x).staged = s.staged := rfl
@[simp] theorem State.setRows_markerCount (s : State) (x : Table Row) : (s.setRows x).markerCount = s.markerCount := rfl
@[simp] theorem State.setRows_switchRecord (s : State) (x : Table Row) : (s.setRows x).switchRecord = s.switchRecord := rfl
@[simp] theorem State.setRows_links (s : State) (x : Table Row) : (s.setRows x).links = s.links := rfl
@[simp] theorem State.setRows_engine (s : State) (x : Table Row) : (s.setRows x).engine = s.engine := rfl
@[simp] theorem State.setRows_snap (s : State) (x : Table Row) : (s.setRows x).snap = s.snap := rfl
@[simp] theorem State.setRows_flash (s : State) (x : Table Row) : (s.setRows x).flash = s.flash := rfl
@[simp] theorem State.setRows_host (s : State) (x : Table Row) : (s.setRows x).host = s.host := rfl
@[simp] theorem State.setRows_service (s : State) (x : Table Row) : (s.setRows x).service = s.service := rfl
@[simp] theorem State.setRows_opState (s : State) (x : Table Row) : (s.setRows x).opState = s.opState := rfl
@[simp] theorem State.setRows_eventSet (s : State) (x : Table Row) : (s.setRows x).eventSet = s.eventSet := rfl
@[simp] theorem State.setRows_hostMask (s : State) (x : Table Row) : (s.setRows x).hostMask = s.hostMask := rfl
@[simp] theorem State.setRows_serviceMask (s : State) (x : Table Row) : (s.setRows x).serviceMask = s.serviceMask := rfl
@[simp] theorem State.setRows_params (s : State) (x : Table Row) : (s.setRows x).params = s.params := rfl
@[simp] theorem State.setRows_freeTick (s : State) (x : Table Row) : (s.setRows x).freeTick = s.freeTick := rfl

/-! ### `setSpanIndex` -/

@[simp] theorem State.setSpanIndex_pending (s : State) (x : List IndexItem) : (s.setSpanIndex x).pending = s.pending := rfl
@[simp] theorem State.setSpanIndex_rows (s : State) (x : List IndexItem) : (s.setSpanIndex x).rows = s.rows := rfl
@[simp] theorem State.setSpanIndex_spanIndex (s : State) (x : List IndexItem) : (s.setSpanIndex x).spanIndex = x := rfl
@[simp] theorem State.setSpanIndex_copies (s : State) (x : List IndexItem) : (s.setSpanIndex x).copies = s.copies := rfl
@[simp] theorem State.setSpanIndex_freeCount (s : State) (x : List IndexItem) : (s.setSpanIndex x).freeCount = s.freeCount := rfl
@[simp] theorem State.setSpanIndex_superseded (s : State) (x : List IndexItem) : (s.setSpanIndex x).superseded = s.superseded := rfl
@[simp] theorem State.setSpanIndex_lowArmed (s : State) (x : List IndexItem) : (s.setSpanIndex x).lowArmed = s.lowArmed := rfl
@[simp] theorem State.setSpanIndex_slots (s : State) (x : List IndexItem) : (s.setSpanIndex x).slots = s.slots := rfl
@[simp] theorem State.setSpanIndex_session (s : State) (x : List IndexItem) : (s.setSpanIndex x).session = s.session := rfl
@[simp] theorem State.setSpanIndex_epoch (s : State) (x : List IndexItem) : (s.setSpanIndex x).epoch = s.epoch := rfl
@[simp] theorem State.setSpanIndex_staged (s : State) (x : List IndexItem) : (s.setSpanIndex x).staged = s.staged := rfl
@[simp] theorem State.setSpanIndex_markerCount (s : State) (x : List IndexItem) : (s.setSpanIndex x).markerCount = s.markerCount := rfl
@[simp] theorem State.setSpanIndex_switchRecord (s : State) (x : List IndexItem) : (s.setSpanIndex x).switchRecord = s.switchRecord := rfl
@[simp] theorem State.setSpanIndex_links (s : State) (x : List IndexItem) : (s.setSpanIndex x).links = s.links := rfl
@[simp] theorem State.setSpanIndex_engine (s : State) (x : List IndexItem) : (s.setSpanIndex x).engine = s.engine := rfl
@[simp] theorem State.setSpanIndex_snap (s : State) (x : List IndexItem) : (s.setSpanIndex x).snap = s.snap := rfl
@[simp] theorem State.setSpanIndex_flash (s : State) (x : List IndexItem) : (s.setSpanIndex x).flash = s.flash := rfl
@[simp] theorem State.setSpanIndex_host (s : State) (x : List IndexItem) : (s.setSpanIndex x).host = s.host := rfl
@[simp] theorem State.setSpanIndex_service (s : State) (x : List IndexItem) : (s.setSpanIndex x).service = s.service := rfl
@[simp] theorem State.setSpanIndex_opState (s : State) (x : List IndexItem) : (s.setSpanIndex x).opState = s.opState := rfl
@[simp] theorem State.setSpanIndex_eventSet (s : State) (x : List IndexItem) : (s.setSpanIndex x).eventSet = s.eventSet := rfl
@[simp] theorem State.setSpanIndex_hostMask (s : State) (x : List IndexItem) : (s.setSpanIndex x).hostMask = s.hostMask := rfl
@[simp] theorem State.setSpanIndex_serviceMask (s : State) (x : List IndexItem) : (s.setSpanIndex x).serviceMask = s.serviceMask := rfl
@[simp] theorem State.setSpanIndex_params (s : State) (x : List IndexItem) : (s.setSpanIndex x).params = s.params := rfl
@[simp] theorem State.setSpanIndex_freeTick (s : State) (x : List IndexItem) : (s.setSpanIndex x).freeTick = s.freeTick := rfl

/-! ### `setCopies` -/

@[simp] theorem State.setCopies_pending (s : State) (x : Table Copy) : (s.setCopies x).pending = s.pending := rfl
@[simp] theorem State.setCopies_rows (s : State) (x : Table Copy) : (s.setCopies x).rows = s.rows := rfl
@[simp] theorem State.setCopies_spanIndex (s : State) (x : Table Copy) : (s.setCopies x).spanIndex = s.spanIndex := rfl
@[simp] theorem State.setCopies_copies (s : State) (x : Table Copy) : (s.setCopies x).copies = x := rfl
@[simp] theorem State.setCopies_freeCount (s : State) (x : Table Copy) : (s.setCopies x).freeCount = s.freeCount := rfl
@[simp] theorem State.setCopies_superseded (s : State) (x : Table Copy) : (s.setCopies x).superseded = s.superseded := rfl
@[simp] theorem State.setCopies_lowArmed (s : State) (x : Table Copy) : (s.setCopies x).lowArmed = s.lowArmed := rfl
@[simp] theorem State.setCopies_slots (s : State) (x : Table Copy) : (s.setCopies x).slots = s.slots := rfl
@[simp] theorem State.setCopies_session (s : State) (x : Table Copy) : (s.setCopies x).session = s.session := rfl
@[simp] theorem State.setCopies_epoch (s : State) (x : Table Copy) : (s.setCopies x).epoch = s.epoch := rfl
@[simp] theorem State.setCopies_staged (s : State) (x : Table Copy) : (s.setCopies x).staged = s.staged := rfl
@[simp] theorem State.setCopies_markerCount (s : State) (x : Table Copy) : (s.setCopies x).markerCount = s.markerCount := rfl
@[simp] theorem State.setCopies_switchRecord (s : State) (x : Table Copy) : (s.setCopies x).switchRecord = s.switchRecord := rfl
@[simp] theorem State.setCopies_links (s : State) (x : Table Copy) : (s.setCopies x).links = s.links := rfl
@[simp] theorem State.setCopies_engine (s : State) (x : Table Copy) : (s.setCopies x).engine = s.engine := rfl
@[simp] theorem State.setCopies_snap (s : State) (x : Table Copy) : (s.setCopies x).snap = s.snap := rfl
@[simp] theorem State.setCopies_flash (s : State) (x : Table Copy) : (s.setCopies x).flash = s.flash := rfl
@[simp] theorem State.setCopies_host (s : State) (x : Table Copy) : (s.setCopies x).host = s.host := rfl
@[simp] theorem State.setCopies_service (s : State) (x : Table Copy) : (s.setCopies x).service = s.service := rfl
@[simp] theorem State.setCopies_opState (s : State) (x : Table Copy) : (s.setCopies x).opState = s.opState := rfl
@[simp] theorem State.setCopies_eventSet (s : State) (x : Table Copy) : (s.setCopies x).eventSet = s.eventSet := rfl
@[simp] theorem State.setCopies_hostMask (s : State) (x : Table Copy) : (s.setCopies x).hostMask = s.hostMask := rfl
@[simp] theorem State.setCopies_serviceMask (s : State) (x : Table Copy) : (s.setCopies x).serviceMask = s.serviceMask := rfl
@[simp] theorem State.setCopies_params (s : State) (x : Table Copy) : (s.setCopies x).params = s.params := rfl
@[simp] theorem State.setCopies_freeTick (s : State) (x : Table Copy) : (s.setCopies x).freeTick = s.freeTick := rfl

/-! ### `setFreeCount` -/

@[simp] theorem State.setFreeCount_pending (s : State) (x : Nat) : (s.setFreeCount x).pending = s.pending := rfl
@[simp] theorem State.setFreeCount_rows (s : State) (x : Nat) : (s.setFreeCount x).rows = s.rows := rfl
@[simp] theorem State.setFreeCount_spanIndex (s : State) (x : Nat) : (s.setFreeCount x).spanIndex = s.spanIndex := rfl
@[simp] theorem State.setFreeCount_copies (s : State) (x : Nat) : (s.setFreeCount x).copies = s.copies := rfl
@[simp] theorem State.setFreeCount_freeCount (s : State) (x : Nat) : (s.setFreeCount x).freeCount = x := rfl
@[simp] theorem State.setFreeCount_superseded (s : State) (x : Nat) : (s.setFreeCount x).superseded = s.superseded := rfl
@[simp] theorem State.setFreeCount_lowArmed (s : State) (x : Nat) : (s.setFreeCount x).lowArmed = s.lowArmed := rfl
@[simp] theorem State.setFreeCount_slots (s : State) (x : Nat) : (s.setFreeCount x).slots = s.slots := rfl
@[simp] theorem State.setFreeCount_session (s : State) (x : Nat) : (s.setFreeCount x).session = s.session := rfl
@[simp] theorem State.setFreeCount_epoch (s : State) (x : Nat) : (s.setFreeCount x).epoch = s.epoch := rfl
@[simp] theorem State.setFreeCount_staged (s : State) (x : Nat) : (s.setFreeCount x).staged = s.staged := rfl
@[simp] theorem State.setFreeCount_markerCount (s : State) (x : Nat) : (s.setFreeCount x).markerCount = s.markerCount := rfl
@[simp] theorem State.setFreeCount_switchRecord (s : State) (x : Nat) : (s.setFreeCount x).switchRecord = s.switchRecord := rfl
@[simp] theorem State.setFreeCount_links (s : State) (x : Nat) : (s.setFreeCount x).links = s.links := rfl
@[simp] theorem State.setFreeCount_engine (s : State) (x : Nat) : (s.setFreeCount x).engine = s.engine := rfl
@[simp] theorem State.setFreeCount_snap (s : State) (x : Nat) : (s.setFreeCount x).snap = s.snap := rfl
@[simp] theorem State.setFreeCount_flash (s : State) (x : Nat) : (s.setFreeCount x).flash = s.flash := rfl
@[simp] theorem State.setFreeCount_host (s : State) (x : Nat) : (s.setFreeCount x).host = s.host := rfl
@[simp] theorem State.setFreeCount_service (s : State) (x : Nat) : (s.setFreeCount x).service = s.service := rfl
@[simp] theorem State.setFreeCount_opState (s : State) (x : Nat) : (s.setFreeCount x).opState = s.opState := rfl
@[simp] theorem State.setFreeCount_eventSet (s : State) (x : Nat) : (s.setFreeCount x).eventSet = s.eventSet := rfl
@[simp] theorem State.setFreeCount_hostMask (s : State) (x : Nat) : (s.setFreeCount x).hostMask = s.hostMask := rfl
@[simp] theorem State.setFreeCount_serviceMask (s : State) (x : Nat) : (s.setFreeCount x).serviceMask = s.serviceMask := rfl
@[simp] theorem State.setFreeCount_params (s : State) (x : Nat) : (s.setFreeCount x).params = s.params := rfl
@[simp] theorem State.setFreeCount_freeTick (s : State) (x : Nat) : (s.setFreeCount x).freeTick = s.freeTick := rfl

/-! ### `setSuperseded` -/

@[simp] theorem State.setSuperseded_pending (s : State) (x : List Nat) : (s.setSuperseded x).pending = s.pending := rfl
@[simp] theorem State.setSuperseded_rows (s : State) (x : List Nat) : (s.setSuperseded x).rows = s.rows := rfl
@[simp] theorem State.setSuperseded_spanIndex (s : State) (x : List Nat) : (s.setSuperseded x).spanIndex = s.spanIndex := rfl
@[simp] theorem State.setSuperseded_copies (s : State) (x : List Nat) : (s.setSuperseded x).copies = s.copies := rfl
@[simp] theorem State.setSuperseded_freeCount (s : State) (x : List Nat) : (s.setSuperseded x).freeCount = s.freeCount := rfl
@[simp] theorem State.setSuperseded_superseded (s : State) (x : List Nat) : (s.setSuperseded x).superseded = x := rfl
@[simp] theorem State.setSuperseded_lowArmed (s : State) (x : List Nat) : (s.setSuperseded x).lowArmed = s.lowArmed := rfl
@[simp] theorem State.setSuperseded_slots (s : State) (x : List Nat) : (s.setSuperseded x).slots = s.slots := rfl
@[simp] theorem State.setSuperseded_session (s : State) (x : List Nat) : (s.setSuperseded x).session = s.session := rfl
@[simp] theorem State.setSuperseded_epoch (s : State) (x : List Nat) : (s.setSuperseded x).epoch = s.epoch := rfl
@[simp] theorem State.setSuperseded_staged (s : State) (x : List Nat) : (s.setSuperseded x).staged = s.staged := rfl
@[simp] theorem State.setSuperseded_markerCount (s : State) (x : List Nat) : (s.setSuperseded x).markerCount = s.markerCount := rfl
@[simp] theorem State.setSuperseded_switchRecord (s : State) (x : List Nat) : (s.setSuperseded x).switchRecord = s.switchRecord := rfl
@[simp] theorem State.setSuperseded_links (s : State) (x : List Nat) : (s.setSuperseded x).links = s.links := rfl
@[simp] theorem State.setSuperseded_engine (s : State) (x : List Nat) : (s.setSuperseded x).engine = s.engine := rfl
@[simp] theorem State.setSuperseded_snap (s : State) (x : List Nat) : (s.setSuperseded x).snap = s.snap := rfl
@[simp] theorem State.setSuperseded_flash (s : State) (x : List Nat) : (s.setSuperseded x).flash = s.flash := rfl
@[simp] theorem State.setSuperseded_host (s : State) (x : List Nat) : (s.setSuperseded x).host = s.host := rfl
@[simp] theorem State.setSuperseded_service (s : State) (x : List Nat) : (s.setSuperseded x).service = s.service := rfl
@[simp] theorem State.setSuperseded_opState (s : State) (x : List Nat) : (s.setSuperseded x).opState = s.opState := rfl
@[simp] theorem State.setSuperseded_eventSet (s : State) (x : List Nat) : (s.setSuperseded x).eventSet = s.eventSet := rfl
@[simp] theorem State.setSuperseded_hostMask (s : State) (x : List Nat) : (s.setSuperseded x).hostMask = s.hostMask := rfl
@[simp] theorem State.setSuperseded_serviceMask (s : State) (x : List Nat) : (s.setSuperseded x).serviceMask = s.serviceMask := rfl
@[simp] theorem State.setSuperseded_params (s : State) (x : List Nat) : (s.setSuperseded x).params = s.params := rfl
@[simp] theorem State.setSuperseded_freeTick (s : State) (x : List Nat) : (s.setSuperseded x).freeTick = s.freeTick := rfl

/-! ### `setLowArmed` -/

@[simp] theorem State.setLowArmed_pending (s : State) (x : Bool) : (s.setLowArmed x).pending = s.pending := rfl
@[simp] theorem State.setLowArmed_rows (s : State) (x : Bool) : (s.setLowArmed x).rows = s.rows := rfl
@[simp] theorem State.setLowArmed_spanIndex (s : State) (x : Bool) : (s.setLowArmed x).spanIndex = s.spanIndex := rfl
@[simp] theorem State.setLowArmed_copies (s : State) (x : Bool) : (s.setLowArmed x).copies = s.copies := rfl
@[simp] theorem State.setLowArmed_freeCount (s : State) (x : Bool) : (s.setLowArmed x).freeCount = s.freeCount := rfl
@[simp] theorem State.setLowArmed_superseded (s : State) (x : Bool) : (s.setLowArmed x).superseded = s.superseded := rfl
@[simp] theorem State.setLowArmed_lowArmed (s : State) (x : Bool) : (s.setLowArmed x).lowArmed = x := rfl
@[simp] theorem State.setLowArmed_slots (s : State) (x : Bool) : (s.setLowArmed x).slots = s.slots := rfl
@[simp] theorem State.setLowArmed_session (s : State) (x : Bool) : (s.setLowArmed x).session = s.session := rfl
@[simp] theorem State.setLowArmed_epoch (s : State) (x : Bool) : (s.setLowArmed x).epoch = s.epoch := rfl
@[simp] theorem State.setLowArmed_staged (s : State) (x : Bool) : (s.setLowArmed x).staged = s.staged := rfl
@[simp] theorem State.setLowArmed_markerCount (s : State) (x : Bool) : (s.setLowArmed x).markerCount = s.markerCount := rfl
@[simp] theorem State.setLowArmed_switchRecord (s : State) (x : Bool) : (s.setLowArmed x).switchRecord = s.switchRecord := rfl
@[simp] theorem State.setLowArmed_links (s : State) (x : Bool) : (s.setLowArmed x).links = s.links := rfl
@[simp] theorem State.setLowArmed_engine (s : State) (x : Bool) : (s.setLowArmed x).engine = s.engine := rfl
@[simp] theorem State.setLowArmed_snap (s : State) (x : Bool) : (s.setLowArmed x).snap = s.snap := rfl
@[simp] theorem State.setLowArmed_flash (s : State) (x : Bool) : (s.setLowArmed x).flash = s.flash := rfl
@[simp] theorem State.setLowArmed_host (s : State) (x : Bool) : (s.setLowArmed x).host = s.host := rfl
@[simp] theorem State.setLowArmed_service (s : State) (x : Bool) : (s.setLowArmed x).service = s.service := rfl
@[simp] theorem State.setLowArmed_opState (s : State) (x : Bool) : (s.setLowArmed x).opState = s.opState := rfl
@[simp] theorem State.setLowArmed_eventSet (s : State) (x : Bool) : (s.setLowArmed x).eventSet = s.eventSet := rfl
@[simp] theorem State.setLowArmed_hostMask (s : State) (x : Bool) : (s.setLowArmed x).hostMask = s.hostMask := rfl
@[simp] theorem State.setLowArmed_serviceMask (s : State) (x : Bool) : (s.setLowArmed x).serviceMask = s.serviceMask := rfl
@[simp] theorem State.setLowArmed_params (s : State) (x : Bool) : (s.setLowArmed x).params = s.params := rfl
@[simp] theorem State.setLowArmed_freeTick (s : State) (x : Bool) : (s.setLowArmed x).freeTick = s.freeTick := rfl

/-! ### `setSlots` -/

@[simp] theorem State.setSlots_pending (s : State) (x : Table Slot) : (s.setSlots x).pending = s.pending := rfl
@[simp] theorem State.setSlots_rows (s : State) (x : Table Slot) : (s.setSlots x).rows = s.rows := rfl
@[simp] theorem State.setSlots_spanIndex (s : State) (x : Table Slot) : (s.setSlots x).spanIndex = s.spanIndex := rfl
@[simp] theorem State.setSlots_copies (s : State) (x : Table Slot) : (s.setSlots x).copies = s.copies := rfl
@[simp] theorem State.setSlots_freeCount (s : State) (x : Table Slot) : (s.setSlots x).freeCount = s.freeCount := rfl
@[simp] theorem State.setSlots_superseded (s : State) (x : Table Slot) : (s.setSlots x).superseded = s.superseded := rfl
@[simp] theorem State.setSlots_lowArmed (s : State) (x : Table Slot) : (s.setSlots x).lowArmed = s.lowArmed := rfl
@[simp] theorem State.setSlots_slots (s : State) (x : Table Slot) : (s.setSlots x).slots = x := rfl
@[simp] theorem State.setSlots_session (s : State) (x : Table Slot) : (s.setSlots x).session = s.session := rfl
@[simp] theorem State.setSlots_epoch (s : State) (x : Table Slot) : (s.setSlots x).epoch = s.epoch := rfl
@[simp] theorem State.setSlots_staged (s : State) (x : Table Slot) : (s.setSlots x).staged = s.staged := rfl
@[simp] theorem State.setSlots_markerCount (s : State) (x : Table Slot) : (s.setSlots x).markerCount = s.markerCount := rfl
@[simp] theorem State.setSlots_switchRecord (s : State) (x : Table Slot) : (s.setSlots x).switchRecord = s.switchRecord := rfl
@[simp] theorem State.setSlots_links (s : State) (x : Table Slot) : (s.setSlots x).links = s.links := rfl
@[simp] theorem State.setSlots_engine (s : State) (x : Table Slot) : (s.setSlots x).engine = s.engine := rfl
@[simp] theorem State.setSlots_snap (s : State) (x : Table Slot) : (s.setSlots x).snap = s.snap := rfl
@[simp] theorem State.setSlots_flash (s : State) (x : Table Slot) : (s.setSlots x).flash = s.flash := rfl
@[simp] theorem State.setSlots_host (s : State) (x : Table Slot) : (s.setSlots x).host = s.host := rfl
@[simp] theorem State.setSlots_service (s : State) (x : Table Slot) : (s.setSlots x).service = s.service := rfl
@[simp] theorem State.setSlots_opState (s : State) (x : Table Slot) : (s.setSlots x).opState = s.opState := rfl
@[simp] theorem State.setSlots_eventSet (s : State) (x : Table Slot) : (s.setSlots x).eventSet = s.eventSet := rfl
@[simp] theorem State.setSlots_hostMask (s : State) (x : Table Slot) : (s.setSlots x).hostMask = s.hostMask := rfl
@[simp] theorem State.setSlots_serviceMask (s : State) (x : Table Slot) : (s.setSlots x).serviceMask = s.serviceMask := rfl
@[simp] theorem State.setSlots_params (s : State) (x : Table Slot) : (s.setSlots x).params = s.params := rfl
@[simp] theorem State.setSlots_freeTick (s : State) (x : Table Slot) : (s.setSlots x).freeTick = s.freeTick := rfl

/-! ### `setSession` -/

@[simp] theorem State.setSession_pending (s : State) (x : Option Session) : (s.setSession x).pending = s.pending := rfl
@[simp] theorem State.setSession_rows (s : State) (x : Option Session) : (s.setSession x).rows = s.rows := rfl
@[simp] theorem State.setSession_spanIndex (s : State) (x : Option Session) : (s.setSession x).spanIndex = s.spanIndex := rfl
@[simp] theorem State.setSession_copies (s : State) (x : Option Session) : (s.setSession x).copies = s.copies := rfl
@[simp] theorem State.setSession_freeCount (s : State) (x : Option Session) : (s.setSession x).freeCount = s.freeCount := rfl
@[simp] theorem State.setSession_superseded (s : State) (x : Option Session) : (s.setSession x).superseded = s.superseded := rfl
@[simp] theorem State.setSession_lowArmed (s : State) (x : Option Session) : (s.setSession x).lowArmed = s.lowArmed := rfl
@[simp] theorem State.setSession_slots (s : State) (x : Option Session) : (s.setSession x).slots = s.slots := rfl
@[simp] theorem State.setSession_session (s : State) (x : Option Session) : (s.setSession x).session = x := rfl
@[simp] theorem State.setSession_epoch (s : State) (x : Option Session) : (s.setSession x).epoch = s.epoch := rfl
@[simp] theorem State.setSession_staged (s : State) (x : Option Session) : (s.setSession x).staged = s.staged := rfl
@[simp] theorem State.setSession_markerCount (s : State) (x : Option Session) : (s.setSession x).markerCount = s.markerCount := rfl
@[simp] theorem State.setSession_switchRecord (s : State) (x : Option Session) : (s.setSession x).switchRecord = s.switchRecord := rfl
@[simp] theorem State.setSession_links (s : State) (x : Option Session) : (s.setSession x).links = s.links := rfl
@[simp] theorem State.setSession_engine (s : State) (x : Option Session) : (s.setSession x).engine = s.engine := rfl
@[simp] theorem State.setSession_snap (s : State) (x : Option Session) : (s.setSession x).snap = s.snap := rfl
@[simp] theorem State.setSession_flash (s : State) (x : Option Session) : (s.setSession x).flash = s.flash := rfl
@[simp] theorem State.setSession_host (s : State) (x : Option Session) : (s.setSession x).host = s.host := rfl
@[simp] theorem State.setSession_service (s : State) (x : Option Session) : (s.setSession x).service = s.service := rfl
@[simp] theorem State.setSession_opState (s : State) (x : Option Session) : (s.setSession x).opState = s.opState := rfl
@[simp] theorem State.setSession_eventSet (s : State) (x : Option Session) : (s.setSession x).eventSet = s.eventSet := rfl
@[simp] theorem State.setSession_hostMask (s : State) (x : Option Session) : (s.setSession x).hostMask = s.hostMask := rfl
@[simp] theorem State.setSession_serviceMask (s : State) (x : Option Session) : (s.setSession x).serviceMask = s.serviceMask := rfl
@[simp] theorem State.setSession_params (s : State) (x : Option Session) : (s.setSession x).params = s.params := rfl
@[simp] theorem State.setSession_freeTick (s : State) (x : Option Session) : (s.setSession x).freeTick = s.freeTick := rfl

/-! ### `setEpoch` -/

@[simp] theorem State.setEpoch_pending (s : State) (x : Nat) : (s.setEpoch x).pending = s.pending := rfl
@[simp] theorem State.setEpoch_rows (s : State) (x : Nat) : (s.setEpoch x).rows = s.rows := rfl
@[simp] theorem State.setEpoch_spanIndex (s : State) (x : Nat) : (s.setEpoch x).spanIndex = s.spanIndex := rfl
@[simp] theorem State.setEpoch_copies (s : State) (x : Nat) : (s.setEpoch x).copies = s.copies := rfl
@[simp] theorem State.setEpoch_freeCount (s : State) (x : Nat) : (s.setEpoch x).freeCount = s.freeCount := rfl
@[simp] theorem State.setEpoch_superseded (s : State) (x : Nat) : (s.setEpoch x).superseded = s.superseded := rfl
@[simp] theorem State.setEpoch_lowArmed (s : State) (x : Nat) : (s.setEpoch x).lowArmed = s.lowArmed := rfl
@[simp] theorem State.setEpoch_slots (s : State) (x : Nat) : (s.setEpoch x).slots = s.slots := rfl
@[simp] theorem State.setEpoch_session (s : State) (x : Nat) : (s.setEpoch x).session = s.session := rfl
@[simp] theorem State.setEpoch_epoch (s : State) (x : Nat) : (s.setEpoch x).epoch = x := rfl
@[simp] theorem State.setEpoch_staged (s : State) (x : Nat) : (s.setEpoch x).staged = s.staged := rfl
@[simp] theorem State.setEpoch_markerCount (s : State) (x : Nat) : (s.setEpoch x).markerCount = s.markerCount := rfl
@[simp] theorem State.setEpoch_switchRecord (s : State) (x : Nat) : (s.setEpoch x).switchRecord = s.switchRecord := rfl
@[simp] theorem State.setEpoch_links (s : State) (x : Nat) : (s.setEpoch x).links = s.links := rfl
@[simp] theorem State.setEpoch_engine (s : State) (x : Nat) : (s.setEpoch x).engine = s.engine := rfl
@[simp] theorem State.setEpoch_snap (s : State) (x : Nat) : (s.setEpoch x).snap = s.snap := rfl
@[simp] theorem State.setEpoch_flash (s : State) (x : Nat) : (s.setEpoch x).flash = s.flash := rfl
@[simp] theorem State.setEpoch_host (s : State) (x : Nat) : (s.setEpoch x).host = s.host := rfl
@[simp] theorem State.setEpoch_service (s : State) (x : Nat) : (s.setEpoch x).service = s.service := rfl
@[simp] theorem State.setEpoch_opState (s : State) (x : Nat) : (s.setEpoch x).opState = s.opState := rfl
@[simp] theorem State.setEpoch_eventSet (s : State) (x : Nat) : (s.setEpoch x).eventSet = s.eventSet := rfl
@[simp] theorem State.setEpoch_hostMask (s : State) (x : Nat) : (s.setEpoch x).hostMask = s.hostMask := rfl
@[simp] theorem State.setEpoch_serviceMask (s : State) (x : Nat) : (s.setEpoch x).serviceMask = s.serviceMask := rfl
@[simp] theorem State.setEpoch_params (s : State) (x : Nat) : (s.setEpoch x).params = s.params := rfl
@[simp] theorem State.setEpoch_freeTick (s : State) (x : Nat) : (s.setEpoch x).freeTick = s.freeTick := rfl

/-! ### `setStaged` -/

@[simp] theorem State.setStaged_pending (s : State) (x : Option StagedSet) : (s.setStaged x).pending = s.pending := rfl
@[simp] theorem State.setStaged_rows (s : State) (x : Option StagedSet) : (s.setStaged x).rows = s.rows := rfl
@[simp] theorem State.setStaged_spanIndex (s : State) (x : Option StagedSet) : (s.setStaged x).spanIndex = s.spanIndex := rfl
@[simp] theorem State.setStaged_copies (s : State) (x : Option StagedSet) : (s.setStaged x).copies = s.copies := rfl
@[simp] theorem State.setStaged_freeCount (s : State) (x : Option StagedSet) : (s.setStaged x).freeCount = s.freeCount := rfl
@[simp] theorem State.setStaged_superseded (s : State) (x : Option StagedSet) : (s.setStaged x).superseded = s.superseded := rfl
@[simp] theorem State.setStaged_lowArmed (s : State) (x : Option StagedSet) : (s.setStaged x).lowArmed = s.lowArmed := rfl
@[simp] theorem State.setStaged_slots (s : State) (x : Option StagedSet) : (s.setStaged x).slots = s.slots := rfl
@[simp] theorem State.setStaged_session (s : State) (x : Option StagedSet) : (s.setStaged x).session = s.session := rfl
@[simp] theorem State.setStaged_epoch (s : State) (x : Option StagedSet) : (s.setStaged x).epoch = s.epoch := rfl
@[simp] theorem State.setStaged_staged (s : State) (x : Option StagedSet) : (s.setStaged x).staged = x := rfl
@[simp] theorem State.setStaged_markerCount (s : State) (x : Option StagedSet) : (s.setStaged x).markerCount = s.markerCount := rfl
@[simp] theorem State.setStaged_switchRecord (s : State) (x : Option StagedSet) : (s.setStaged x).switchRecord = s.switchRecord := rfl
@[simp] theorem State.setStaged_links (s : State) (x : Option StagedSet) : (s.setStaged x).links = s.links := rfl
@[simp] theorem State.setStaged_engine (s : State) (x : Option StagedSet) : (s.setStaged x).engine = s.engine := rfl
@[simp] theorem State.setStaged_snap (s : State) (x : Option StagedSet) : (s.setStaged x).snap = s.snap := rfl
@[simp] theorem State.setStaged_flash (s : State) (x : Option StagedSet) : (s.setStaged x).flash = s.flash := rfl
@[simp] theorem State.setStaged_host (s : State) (x : Option StagedSet) : (s.setStaged x).host = s.host := rfl
@[simp] theorem State.setStaged_service (s : State) (x : Option StagedSet) : (s.setStaged x).service = s.service := rfl
@[simp] theorem State.setStaged_opState (s : State) (x : Option StagedSet) : (s.setStaged x).opState = s.opState := rfl
@[simp] theorem State.setStaged_eventSet (s : State) (x : Option StagedSet) : (s.setStaged x).eventSet = s.eventSet := rfl
@[simp] theorem State.setStaged_hostMask (s : State) (x : Option StagedSet) : (s.setStaged x).hostMask = s.hostMask := rfl
@[simp] theorem State.setStaged_serviceMask (s : State) (x : Option StagedSet) : (s.setStaged x).serviceMask = s.serviceMask := rfl
@[simp] theorem State.setStaged_params (s : State) (x : Option StagedSet) : (s.setStaged x).params = s.params := rfl
@[simp] theorem State.setStaged_freeTick (s : State) (x : Option StagedSet) : (s.setStaged x).freeTick = s.freeTick := rfl

/-! ### `setMarkerCount` -/

@[simp] theorem State.setMarkerCount_pending (s : State) (x : Nat) : (s.setMarkerCount x).pending = s.pending := rfl
@[simp] theorem State.setMarkerCount_rows (s : State) (x : Nat) : (s.setMarkerCount x).rows = s.rows := rfl
@[simp] theorem State.setMarkerCount_spanIndex (s : State) (x : Nat) : (s.setMarkerCount x).spanIndex = s.spanIndex := rfl
@[simp] theorem State.setMarkerCount_copies (s : State) (x : Nat) : (s.setMarkerCount x).copies = s.copies := rfl
@[simp] theorem State.setMarkerCount_freeCount (s : State) (x : Nat) : (s.setMarkerCount x).freeCount = s.freeCount := rfl
@[simp] theorem State.setMarkerCount_superseded (s : State) (x : Nat) : (s.setMarkerCount x).superseded = s.superseded := rfl
@[simp] theorem State.setMarkerCount_lowArmed (s : State) (x : Nat) : (s.setMarkerCount x).lowArmed = s.lowArmed := rfl
@[simp] theorem State.setMarkerCount_slots (s : State) (x : Nat) : (s.setMarkerCount x).slots = s.slots := rfl
@[simp] theorem State.setMarkerCount_session (s : State) (x : Nat) : (s.setMarkerCount x).session = s.session := rfl
@[simp] theorem State.setMarkerCount_epoch (s : State) (x : Nat) : (s.setMarkerCount x).epoch = s.epoch := rfl
@[simp] theorem State.setMarkerCount_staged (s : State) (x : Nat) : (s.setMarkerCount x).staged = s.staged := rfl
@[simp] theorem State.setMarkerCount_markerCount (s : State) (x : Nat) : (s.setMarkerCount x).markerCount = x := rfl
@[simp] theorem State.setMarkerCount_switchRecord (s : State) (x : Nat) : (s.setMarkerCount x).switchRecord = s.switchRecord := rfl
@[simp] theorem State.setMarkerCount_links (s : State) (x : Nat) : (s.setMarkerCount x).links = s.links := rfl
@[simp] theorem State.setMarkerCount_engine (s : State) (x : Nat) : (s.setMarkerCount x).engine = s.engine := rfl
@[simp] theorem State.setMarkerCount_snap (s : State) (x : Nat) : (s.setMarkerCount x).snap = s.snap := rfl
@[simp] theorem State.setMarkerCount_flash (s : State) (x : Nat) : (s.setMarkerCount x).flash = s.flash := rfl
@[simp] theorem State.setMarkerCount_host (s : State) (x : Nat) : (s.setMarkerCount x).host = s.host := rfl
@[simp] theorem State.setMarkerCount_service (s : State) (x : Nat) : (s.setMarkerCount x).service = s.service := rfl
@[simp] theorem State.setMarkerCount_opState (s : State) (x : Nat) : (s.setMarkerCount x).opState = s.opState := rfl
@[simp] theorem State.setMarkerCount_eventSet (s : State) (x : Nat) : (s.setMarkerCount x).eventSet = s.eventSet := rfl
@[simp] theorem State.setMarkerCount_hostMask (s : State) (x : Nat) : (s.setMarkerCount x).hostMask = s.hostMask := rfl
@[simp] theorem State.setMarkerCount_serviceMask (s : State) (x : Nat) : (s.setMarkerCount x).serviceMask = s.serviceMask := rfl
@[simp] theorem State.setMarkerCount_params (s : State) (x : Nat) : (s.setMarkerCount x).params = s.params := rfl
@[simp] theorem State.setMarkerCount_freeTick (s : State) (x : Nat) : (s.setMarkerCount x).freeTick = s.freeTick := rfl

/-! ### `setSwitchRecord` -/

@[simp] theorem State.setSwitchRecord_pending (s : State) (x : Option SwitchRecord) : (s.setSwitchRecord x).pending = s.pending := rfl
@[simp] theorem State.setSwitchRecord_rows (s : State) (x : Option SwitchRecord) : (s.setSwitchRecord x).rows = s.rows := rfl
@[simp] theorem State.setSwitchRecord_spanIndex (s : State) (x : Option SwitchRecord) : (s.setSwitchRecord x).spanIndex = s.spanIndex := rfl
@[simp] theorem State.setSwitchRecord_copies (s : State) (x : Option SwitchRecord) : (s.setSwitchRecord x).copies = s.copies := rfl
@[simp] theorem State.setSwitchRecord_freeCount (s : State) (x : Option SwitchRecord) : (s.setSwitchRecord x).freeCount = s.freeCount := rfl
@[simp] theorem State.setSwitchRecord_superseded (s : State) (x : Option SwitchRecord) : (s.setSwitchRecord x).superseded = s.superseded := rfl
@[simp] theorem State.setSwitchRecord_lowArmed (s : State) (x : Option SwitchRecord) : (s.setSwitchRecord x).lowArmed = s.lowArmed := rfl
@[simp] theorem State.setSwitchRecord_slots (s : State) (x : Option SwitchRecord) : (s.setSwitchRecord x).slots = s.slots := rfl
@[simp] theorem State.setSwitchRecord_session (s : State) (x : Option SwitchRecord) : (s.setSwitchRecord x).session = s.session := rfl
@[simp] theorem State.setSwitchRecord_epoch (s : State) (x : Option SwitchRecord) : (s.setSwitchRecord x).epoch = s.epoch := rfl
@[simp] theorem State.setSwitchRecord_staged (s : State) (x : Option SwitchRecord) : (s.setSwitchRecord x).staged = s.staged := rfl
@[simp] theorem State.setSwitchRecord_markerCount (s : State) (x : Option SwitchRecord) : (s.setSwitchRecord x).markerCount = s.markerCount := rfl
@[simp] theorem State.setSwitchRecord_switchRecord (s : State) (x : Option SwitchRecord) : (s.setSwitchRecord x).switchRecord = x := rfl
@[simp] theorem State.setSwitchRecord_links (s : State) (x : Option SwitchRecord) : (s.setSwitchRecord x).links = s.links := rfl
@[simp] theorem State.setSwitchRecord_engine (s : State) (x : Option SwitchRecord) : (s.setSwitchRecord x).engine = s.engine := rfl
@[simp] theorem State.setSwitchRecord_snap (s : State) (x : Option SwitchRecord) : (s.setSwitchRecord x).snap = s.snap := rfl
@[simp] theorem State.setSwitchRecord_flash (s : State) (x : Option SwitchRecord) : (s.setSwitchRecord x).flash = s.flash := rfl
@[simp] theorem State.setSwitchRecord_host (s : State) (x : Option SwitchRecord) : (s.setSwitchRecord x).host = s.host := rfl
@[simp] theorem State.setSwitchRecord_service (s : State) (x : Option SwitchRecord) : (s.setSwitchRecord x).service = s.service := rfl
@[simp] theorem State.setSwitchRecord_opState (s : State) (x : Option SwitchRecord) : (s.setSwitchRecord x).opState = s.opState := rfl
@[simp] theorem State.setSwitchRecord_eventSet (s : State) (x : Option SwitchRecord) : (s.setSwitchRecord x).eventSet = s.eventSet := rfl
@[simp] theorem State.setSwitchRecord_hostMask (s : State) (x : Option SwitchRecord) : (s.setSwitchRecord x).hostMask = s.hostMask := rfl
@[simp] theorem State.setSwitchRecord_serviceMask (s : State) (x : Option SwitchRecord) : (s.setSwitchRecord x).serviceMask = s.serviceMask := rfl
@[simp] theorem State.setSwitchRecord_params (s : State) (x : Option SwitchRecord) : (s.setSwitchRecord x).params = s.params := rfl
@[simp] theorem State.setSwitchRecord_freeTick (s : State) (x : Option SwitchRecord) : (s.setSwitchRecord x).freeTick = s.freeTick := rfl

/-! ### `setLinks` -/

@[simp] theorem State.setLinks_pending (s : State) (x : Table Link) : (s.setLinks x).pending = s.pending := rfl
@[simp] theorem State.setLinks_rows (s : State) (x : Table Link) : (s.setLinks x).rows = s.rows := rfl
@[simp] theorem State.setLinks_spanIndex (s : State) (x : Table Link) : (s.setLinks x).spanIndex = s.spanIndex := rfl
@[simp] theorem State.setLinks_copies (s : State) (x : Table Link) : (s.setLinks x).copies = s.copies := rfl
@[simp] theorem State.setLinks_freeCount (s : State) (x : Table Link) : (s.setLinks x).freeCount = s.freeCount := rfl
@[simp] theorem State.setLinks_superseded (s : State) (x : Table Link) : (s.setLinks x).superseded = s.superseded := rfl
@[simp] theorem State.setLinks_lowArmed (s : State) (x : Table Link) : (s.setLinks x).lowArmed = s.lowArmed := rfl
@[simp] theorem State.setLinks_slots (s : State) (x : Table Link) : (s.setLinks x).slots = s.slots := rfl
@[simp] theorem State.setLinks_session (s : State) (x : Table Link) : (s.setLinks x).session = s.session := rfl
@[simp] theorem State.setLinks_epoch (s : State) (x : Table Link) : (s.setLinks x).epoch = s.epoch := rfl
@[simp] theorem State.setLinks_staged (s : State) (x : Table Link) : (s.setLinks x).staged = s.staged := rfl
@[simp] theorem State.setLinks_markerCount (s : State) (x : Table Link) : (s.setLinks x).markerCount = s.markerCount := rfl
@[simp] theorem State.setLinks_switchRecord (s : State) (x : Table Link) : (s.setLinks x).switchRecord = s.switchRecord := rfl
@[simp] theorem State.setLinks_links (s : State) (x : Table Link) : (s.setLinks x).links = x := rfl
@[simp] theorem State.setLinks_engine (s : State) (x : Table Link) : (s.setLinks x).engine = s.engine := rfl
@[simp] theorem State.setLinks_snap (s : State) (x : Table Link) : (s.setLinks x).snap = s.snap := rfl
@[simp] theorem State.setLinks_flash (s : State) (x : Table Link) : (s.setLinks x).flash = s.flash := rfl
@[simp] theorem State.setLinks_host (s : State) (x : Table Link) : (s.setLinks x).host = s.host := rfl
@[simp] theorem State.setLinks_service (s : State) (x : Table Link) : (s.setLinks x).service = s.service := rfl
@[simp] theorem State.setLinks_opState (s : State) (x : Table Link) : (s.setLinks x).opState = s.opState := rfl
@[simp] theorem State.setLinks_eventSet (s : State) (x : Table Link) : (s.setLinks x).eventSet = s.eventSet := rfl
@[simp] theorem State.setLinks_hostMask (s : State) (x : Table Link) : (s.setLinks x).hostMask = s.hostMask := rfl
@[simp] theorem State.setLinks_serviceMask (s : State) (x : Table Link) : (s.setLinks x).serviceMask = s.serviceMask := rfl
@[simp] theorem State.setLinks_params (s : State) (x : Table Link) : (s.setLinks x).params = s.params := rfl
@[simp] theorem State.setLinks_freeTick (s : State) (x : Table Link) : (s.setLinks x).freeTick = s.freeTick := rfl

/-! ### `setEngine` -/

@[simp] theorem State.setEngine_pending (s : State) (x : Nat) : (s.setEngine x).pending = s.pending := rfl
@[simp] theorem State.setEngine_rows (s : State) (x : Nat) : (s.setEngine x).rows = s.rows := rfl
@[simp] theorem State.setEngine_spanIndex (s : State) (x : Nat) : (s.setEngine x).spanIndex = s.spanIndex := rfl
@[simp] theorem State.setEngine_copies (s : State) (x : Nat) : (s.setEngine x).copies = s.copies := rfl
@[simp] theorem State.setEngine_freeCount (s : State) (x : Nat) : (s.setEngine x).freeCount = s.freeCount := rfl
@[simp] theorem State.setEngine_superseded (s : State) (x : Nat) : (s.setEngine x).superseded = s.superseded := rfl
@[simp] theorem State.setEngine_lowArmed (s : State) (x : Nat) : (s.setEngine x).lowArmed = s.lowArmed := rfl
@[simp] theorem State.setEngine_slots (s : State) (x : Nat) : (s.setEngine x).slots = s.slots := rfl
@[simp] theorem State.setEngine_session (s : State) (x : Nat) : (s.setEngine x).session = s.session := rfl
@[simp] theorem State.setEngine_epoch (s : State) (x : Nat) : (s.setEngine x).epoch = s.epoch := rfl
@[simp] theorem State.setEngine_staged (s : State) (x : Nat) : (s.setEngine x).staged = s.staged := rfl
@[simp] theorem State.setEngine_markerCount (s : State) (x : Nat) : (s.setEngine x).markerCount = s.markerCount := rfl
@[simp] theorem State.setEngine_switchRecord (s : State) (x : Nat) : (s.setEngine x).switchRecord = s.switchRecord := rfl
@[simp] theorem State.setEngine_links (s : State) (x : Nat) : (s.setEngine x).links = s.links := rfl
@[simp] theorem State.setEngine_engine (s : State) (x : Nat) : (s.setEngine x).engine = x := rfl
@[simp] theorem State.setEngine_snap (s : State) (x : Nat) : (s.setEngine x).snap = s.snap := rfl
@[simp] theorem State.setEngine_flash (s : State) (x : Nat) : (s.setEngine x).flash = s.flash := rfl
@[simp] theorem State.setEngine_host (s : State) (x : Nat) : (s.setEngine x).host = s.host := rfl
@[simp] theorem State.setEngine_service (s : State) (x : Nat) : (s.setEngine x).service = s.service := rfl
@[simp] theorem State.setEngine_opState (s : State) (x : Nat) : (s.setEngine x).opState = s.opState := rfl
@[simp] theorem State.setEngine_eventSet (s : State) (x : Nat) : (s.setEngine x).eventSet = s.eventSet := rfl
@[simp] theorem State.setEngine_hostMask (s : State) (x : Nat) : (s.setEngine x).hostMask = s.hostMask := rfl
@[simp] theorem State.setEngine_serviceMask (s : State) (x : Nat) : (s.setEngine x).serviceMask = s.serviceMask := rfl
@[simp] theorem State.setEngine_params (s : State) (x : Nat) : (s.setEngine x).params = s.params := rfl
@[simp] theorem State.setEngine_freeTick (s : State) (x : Nat) : (s.setEngine x).freeTick = s.freeTick := rfl

/-! ### `setSnap` -/

@[simp] theorem State.setSnap_pending (s : State) (x : Snapshot) : (s.setSnap x).pending = s.pending := rfl
@[simp] theorem State.setSnap_rows (s : State) (x : Snapshot) : (s.setSnap x).rows = s.rows := rfl
@[simp] theorem State.setSnap_spanIndex (s : State) (x : Snapshot) : (s.setSnap x).spanIndex = s.spanIndex := rfl
@[simp] theorem State.setSnap_copies (s : State) (x : Snapshot) : (s.setSnap x).copies = s.copies := rfl
@[simp] theorem State.setSnap_freeCount (s : State) (x : Snapshot) : (s.setSnap x).freeCount = s.freeCount := rfl
@[simp] theorem State.setSnap_superseded (s : State) (x : Snapshot) : (s.setSnap x).superseded = s.superseded := rfl
@[simp] theorem State.setSnap_lowArmed (s : State) (x : Snapshot) : (s.setSnap x).lowArmed = s.lowArmed := rfl
@[simp] theorem State.setSnap_slots (s : State) (x : Snapshot) : (s.setSnap x).slots = s.slots := rfl
@[simp] theorem State.setSnap_session (s : State) (x : Snapshot) : (s.setSnap x).session = s.session := rfl
@[simp] theorem State.setSnap_epoch (s : State) (x : Snapshot) : (s.setSnap x).epoch = s.epoch := rfl
@[simp] theorem State.setSnap_staged (s : State) (x : Snapshot) : (s.setSnap x).staged = s.staged := rfl
@[simp] theorem State.setSnap_markerCount (s : State) (x : Snapshot) : (s.setSnap x).markerCount = s.markerCount := rfl
@[simp] theorem State.setSnap_switchRecord (s : State) (x : Snapshot) : (s.setSnap x).switchRecord = s.switchRecord := rfl
@[simp] theorem State.setSnap_links (s : State) (x : Snapshot) : (s.setSnap x).links = s.links := rfl
@[simp] theorem State.setSnap_engine (s : State) (x : Snapshot) : (s.setSnap x).engine = s.engine := rfl
@[simp] theorem State.setSnap_snap (s : State) (x : Snapshot) : (s.setSnap x).snap = x := rfl
@[simp] theorem State.setSnap_flash (s : State) (x : Snapshot) : (s.setSnap x).flash = s.flash := rfl
@[simp] theorem State.setSnap_host (s : State) (x : Snapshot) : (s.setSnap x).host = s.host := rfl
@[simp] theorem State.setSnap_service (s : State) (x : Snapshot) : (s.setSnap x).service = s.service := rfl
@[simp] theorem State.setSnap_opState (s : State) (x : Snapshot) : (s.setSnap x).opState = s.opState := rfl
@[simp] theorem State.setSnap_eventSet (s : State) (x : Snapshot) : (s.setSnap x).eventSet = s.eventSet := rfl
@[simp] theorem State.setSnap_hostMask (s : State) (x : Snapshot) : (s.setSnap x).hostMask = s.hostMask := rfl
@[simp] theorem State.setSnap_serviceMask (s : State) (x : Snapshot) : (s.setSnap x).serviceMask = s.serviceMask := rfl
@[simp] theorem State.setSnap_params (s : State) (x : Snapshot) : (s.setSnap x).params = s.params := rfl
@[simp] theorem State.setSnap_freeTick (s : State) (x : Snapshot) : (s.setSnap x).freeTick = s.freeTick := rfl

/-! ### `setFlash` -/

@[simp] theorem State.setFlash_pending (s : State) (x : Flash) : (s.setFlash x).pending = s.pending := rfl
@[simp] theorem State.setFlash_rows (s : State) (x : Flash) : (s.setFlash x).rows = s.rows := rfl
@[simp] theorem State.setFlash_spanIndex (s : State) (x : Flash) : (s.setFlash x).spanIndex = s.spanIndex := rfl
@[simp] theorem State.setFlash_copies (s : State) (x : Flash) : (s.setFlash x).copies = s.copies := rfl
@[simp] theorem State.setFlash_freeCount (s : State) (x : Flash) : (s.setFlash x).freeCount = s.freeCount := rfl
@[simp] theorem State.setFlash_superseded (s : State) (x : Flash) : (s.setFlash x).superseded = s.superseded := rfl
@[simp] theorem State.setFlash_lowArmed (s : State) (x : Flash) : (s.setFlash x).lowArmed = s.lowArmed := rfl
@[simp] theorem State.setFlash_slots (s : State) (x : Flash) : (s.setFlash x).slots = s.slots := rfl
@[simp] theorem State.setFlash_session (s : State) (x : Flash) : (s.setFlash x).session = s.session := rfl
@[simp] theorem State.setFlash_epoch (s : State) (x : Flash) : (s.setFlash x).epoch = s.epoch := rfl
@[simp] theorem State.setFlash_staged (s : State) (x : Flash) : (s.setFlash x).staged = s.staged := rfl
@[simp] theorem State.setFlash_markerCount (s : State) (x : Flash) : (s.setFlash x).markerCount = s.markerCount := rfl
@[simp] theorem State.setFlash_switchRecord (s : State) (x : Flash) : (s.setFlash x).switchRecord = s.switchRecord := rfl
@[simp] theorem State.setFlash_links (s : State) (x : Flash) : (s.setFlash x).links = s.links := rfl
@[simp] theorem State.setFlash_engine (s : State) (x : Flash) : (s.setFlash x).engine = s.engine := rfl
@[simp] theorem State.setFlash_snap (s : State) (x : Flash) : (s.setFlash x).snap = s.snap := rfl
@[simp] theorem State.setFlash_flash (s : State) (x : Flash) : (s.setFlash x).flash = x := rfl
@[simp] theorem State.setFlash_host (s : State) (x : Flash) : (s.setFlash x).host = s.host := rfl
@[simp] theorem State.setFlash_service (s : State) (x : Flash) : (s.setFlash x).service = s.service := rfl
@[simp] theorem State.setFlash_opState (s : State) (x : Flash) : (s.setFlash x).opState = s.opState := rfl
@[simp] theorem State.setFlash_eventSet (s : State) (x : Flash) : (s.setFlash x).eventSet = s.eventSet := rfl
@[simp] theorem State.setFlash_hostMask (s : State) (x : Flash) : (s.setFlash x).hostMask = s.hostMask := rfl
@[simp] theorem State.setFlash_serviceMask (s : State) (x : Flash) : (s.setFlash x).serviceMask = s.serviceMask := rfl
@[simp] theorem State.setFlash_params (s : State) (x : Flash) : (s.setFlash x).params = s.params := rfl
@[simp] theorem State.setFlash_freeTick (s : State) (x : Flash) : (s.setFlash x).freeTick = s.freeTick := rfl

/-! ### `setHost` -/

@[simp] theorem State.setHost_pending (s : State) (x : PortState) : (s.setHost x).pending = s.pending := rfl
@[simp] theorem State.setHost_rows (s : State) (x : PortState) : (s.setHost x).rows = s.rows := rfl
@[simp] theorem State.setHost_spanIndex (s : State) (x : PortState) : (s.setHost x).spanIndex = s.spanIndex := rfl
@[simp] theorem State.setHost_copies (s : State) (x : PortState) : (s.setHost x).copies = s.copies := rfl
@[simp] theorem State.setHost_freeCount (s : State) (x : PortState) : (s.setHost x).freeCount = s.freeCount := rfl
@[simp] theorem State.setHost_superseded (s : State) (x : PortState) : (s.setHost x).superseded = s.superseded := rfl
@[simp] theorem State.setHost_lowArmed (s : State) (x : PortState) : (s.setHost x).lowArmed = s.lowArmed := rfl
@[simp] theorem State.setHost_slots (s : State) (x : PortState) : (s.setHost x).slots = s.slots := rfl
@[simp] theorem State.setHost_session (s : State) (x : PortState) : (s.setHost x).session = s.session := rfl
@[simp] theorem State.setHost_epoch (s : State) (x : PortState) : (s.setHost x).epoch = s.epoch := rfl
@[simp] theorem State.setHost_staged (s : State) (x : PortState) : (s.setHost x).staged = s.staged := rfl
@[simp] theorem State.setHost_markerCount (s : State) (x : PortState) : (s.setHost x).markerCount = s.markerCount := rfl
@[simp] theorem State.setHost_switchRecord (s : State) (x : PortState) : (s.setHost x).switchRecord = s.switchRecord := rfl
@[simp] theorem State.setHost_links (s : State) (x : PortState) : (s.setHost x).links = s.links := rfl
@[simp] theorem State.setHost_engine (s : State) (x : PortState) : (s.setHost x).engine = s.engine := rfl
@[simp] theorem State.setHost_snap (s : State) (x : PortState) : (s.setHost x).snap = s.snap := rfl
@[simp] theorem State.setHost_flash (s : State) (x : PortState) : (s.setHost x).flash = s.flash := rfl
@[simp] theorem State.setHost_host (s : State) (x : PortState) : (s.setHost x).host = x := rfl
@[simp] theorem State.setHost_service (s : State) (x : PortState) : (s.setHost x).service = s.service := rfl
@[simp] theorem State.setHost_opState (s : State) (x : PortState) : (s.setHost x).opState = s.opState := rfl
@[simp] theorem State.setHost_eventSet (s : State) (x : PortState) : (s.setHost x).eventSet = s.eventSet := rfl
@[simp] theorem State.setHost_hostMask (s : State) (x : PortState) : (s.setHost x).hostMask = s.hostMask := rfl
@[simp] theorem State.setHost_serviceMask (s : State) (x : PortState) : (s.setHost x).serviceMask = s.serviceMask := rfl
@[simp] theorem State.setHost_params (s : State) (x : PortState) : (s.setHost x).params = s.params := rfl
@[simp] theorem State.setHost_freeTick (s : State) (x : PortState) : (s.setHost x).freeTick = s.freeTick := rfl

/-! ### `setService` -/

@[simp] theorem State.setService_pending (s : State) (x : PortState) : (s.setService x).pending = s.pending := rfl
@[simp] theorem State.setService_rows (s : State) (x : PortState) : (s.setService x).rows = s.rows := rfl
@[simp] theorem State.setService_spanIndex (s : State) (x : PortState) : (s.setService x).spanIndex = s.spanIndex := rfl
@[simp] theorem State.setService_copies (s : State) (x : PortState) : (s.setService x).copies = s.copies := rfl
@[simp] theorem State.setService_freeCount (s : State) (x : PortState) : (s.setService x).freeCount = s.freeCount := rfl
@[simp] theorem State.setService_superseded (s : State) (x : PortState) : (s.setService x).superseded = s.superseded := rfl
@[simp] theorem State.setService_lowArmed (s : State) (x : PortState) : (s.setService x).lowArmed = s.lowArmed := rfl
@[simp] theorem State.setService_slots (s : State) (x : PortState) : (s.setService x).slots = s.slots := rfl
@[simp] theorem State.setService_session (s : State) (x : PortState) : (s.setService x).session = s.session := rfl
@[simp] theorem State.setService_epoch (s : State) (x : PortState) : (s.setService x).epoch = s.epoch := rfl
@[simp] theorem State.setService_staged (s : State) (x : PortState) : (s.setService x).staged = s.staged := rfl
@[simp] theorem State.setService_markerCount (s : State) (x : PortState) : (s.setService x).markerCount = s.markerCount := rfl
@[simp] theorem State.setService_switchRecord (s : State) (x : PortState) : (s.setService x).switchRecord = s.switchRecord := rfl
@[simp] theorem State.setService_links (s : State) (x : PortState) : (s.setService x).links = s.links := rfl
@[simp] theorem State.setService_engine (s : State) (x : PortState) : (s.setService x).engine = s.engine := rfl
@[simp] theorem State.setService_snap (s : State) (x : PortState) : (s.setService x).snap = s.snap := rfl
@[simp] theorem State.setService_flash (s : State) (x : PortState) : (s.setService x).flash = s.flash := rfl
@[simp] theorem State.setService_host (s : State) (x : PortState) : (s.setService x).host = s.host := rfl
@[simp] theorem State.setService_service (s : State) (x : PortState) : (s.setService x).service = x := rfl
@[simp] theorem State.setService_opState (s : State) (x : PortState) : (s.setService x).opState = s.opState := rfl
@[simp] theorem State.setService_eventSet (s : State) (x : PortState) : (s.setService x).eventSet = s.eventSet := rfl
@[simp] theorem State.setService_hostMask (s : State) (x : PortState) : (s.setService x).hostMask = s.hostMask := rfl
@[simp] theorem State.setService_serviceMask (s : State) (x : PortState) : (s.setService x).serviceMask = s.serviceMask := rfl
@[simp] theorem State.setService_params (s : State) (x : PortState) : (s.setService x).params = s.params := rfl
@[simp] theorem State.setService_freeTick (s : State) (x : PortState) : (s.setService x).freeTick = s.freeTick := rfl

/-! ### `setOpState` -/

@[simp] theorem State.setOpState_pending (s : State) (x : OpState) : (s.setOpState x).pending = s.pending := rfl
@[simp] theorem State.setOpState_rows (s : State) (x : OpState) : (s.setOpState x).rows = s.rows := rfl
@[simp] theorem State.setOpState_spanIndex (s : State) (x : OpState) : (s.setOpState x).spanIndex = s.spanIndex := rfl
@[simp] theorem State.setOpState_copies (s : State) (x : OpState) : (s.setOpState x).copies = s.copies := rfl
@[simp] theorem State.setOpState_freeCount (s : State) (x : OpState) : (s.setOpState x).freeCount = s.freeCount := rfl
@[simp] theorem State.setOpState_superseded (s : State) (x : OpState) : (s.setOpState x).superseded = s.superseded := rfl
@[simp] theorem State.setOpState_lowArmed (s : State) (x : OpState) : (s.setOpState x).lowArmed = s.lowArmed := rfl
@[simp] theorem State.setOpState_slots (s : State) (x : OpState) : (s.setOpState x).slots = s.slots := rfl
@[simp] theorem State.setOpState_session (s : State) (x : OpState) : (s.setOpState x).session = s.session := rfl
@[simp] theorem State.setOpState_epoch (s : State) (x : OpState) : (s.setOpState x).epoch = s.epoch := rfl
@[simp] theorem State.setOpState_staged (s : State) (x : OpState) : (s.setOpState x).staged = s.staged := rfl
@[simp] theorem State.setOpState_markerCount (s : State) (x : OpState) : (s.setOpState x).markerCount = s.markerCount := rfl
@[simp] theorem State.setOpState_switchRecord (s : State) (x : OpState) : (s.setOpState x).switchRecord = s.switchRecord := rfl
@[simp] theorem State.setOpState_links (s : State) (x : OpState) : (s.setOpState x).links = s.links := rfl
@[simp] theorem State.setOpState_engine (s : State) (x : OpState) : (s.setOpState x).engine = s.engine := rfl
@[simp] theorem State.setOpState_snap (s : State) (x : OpState) : (s.setOpState x).snap = s.snap := rfl
@[simp] theorem State.setOpState_flash (s : State) (x : OpState) : (s.setOpState x).flash = s.flash := rfl
@[simp] theorem State.setOpState_host (s : State) (x : OpState) : (s.setOpState x).host = s.host := rfl
@[simp] theorem State.setOpState_service (s : State) (x : OpState) : (s.setOpState x).service = s.service := rfl
@[simp] theorem State.setOpState_opState (s : State) (x : OpState) : (s.setOpState x).opState = x := rfl
@[simp] theorem State.setOpState_eventSet (s : State) (x : OpState) : (s.setOpState x).eventSet = s.eventSet := rfl
@[simp] theorem State.setOpState_hostMask (s : State) (x : OpState) : (s.setOpState x).hostMask = s.hostMask := rfl
@[simp] theorem State.setOpState_serviceMask (s : State) (x : OpState) : (s.setOpState x).serviceMask = s.serviceMask := rfl
@[simp] theorem State.setOpState_params (s : State) (x : OpState) : (s.setOpState x).params = s.params := rfl
@[simp] theorem State.setOpState_freeTick (s : State) (x : OpState) : (s.setOpState x).freeTick = s.freeTick := rfl

/-! ### `setEventSet` -/

@[simp] theorem State.setEventSet_pending (s : State) (x : EventSet) : (s.setEventSet x).pending = s.pending := rfl
@[simp] theorem State.setEventSet_rows (s : State) (x : EventSet) : (s.setEventSet x).rows = s.rows := rfl
@[simp] theorem State.setEventSet_spanIndex (s : State) (x : EventSet) : (s.setEventSet x).spanIndex = s.spanIndex := rfl
@[simp] theorem State.setEventSet_copies (s : State) (x : EventSet) : (s.setEventSet x).copies = s.copies := rfl
@[simp] theorem State.setEventSet_freeCount (s : State) (x : EventSet) : (s.setEventSet x).freeCount = s.freeCount := rfl
@[simp] theorem State.setEventSet_superseded (s : State) (x : EventSet) : (s.setEventSet x).superseded = s.superseded := rfl
@[simp] theorem State.setEventSet_lowArmed (s : State) (x : EventSet) : (s.setEventSet x).lowArmed = s.lowArmed := rfl
@[simp] theorem State.setEventSet_slots (s : State) (x : EventSet) : (s.setEventSet x).slots = s.slots := rfl
@[simp] theorem State.setEventSet_session (s : State) (x : EventSet) : (s.setEventSet x).session = s.session := rfl
@[simp] theorem State.setEventSet_epoch (s : State) (x : EventSet) : (s.setEventSet x).epoch = s.epoch := rfl
@[simp] theorem State.setEventSet_staged (s : State) (x : EventSet) : (s.setEventSet x).staged = s.staged := rfl
@[simp] theorem State.setEventSet_markerCount (s : State) (x : EventSet) : (s.setEventSet x).markerCount = s.markerCount := rfl
@[simp] theorem State.setEventSet_switchRecord (s : State) (x : EventSet) : (s.setEventSet x).switchRecord = s.switchRecord := rfl
@[simp] theorem State.setEventSet_links (s : State) (x : EventSet) : (s.setEventSet x).links = s.links := rfl
@[simp] theorem State.setEventSet_engine (s : State) (x : EventSet) : (s.setEventSet x).engine = s.engine := rfl
@[simp] theorem State.setEventSet_snap (s : State) (x : EventSet) : (s.setEventSet x).snap = s.snap := rfl
@[simp] theorem State.setEventSet_flash (s : State) (x : EventSet) : (s.setEventSet x).flash = s.flash := rfl
@[simp] theorem State.setEventSet_host (s : State) (x : EventSet) : (s.setEventSet x).host = s.host := rfl
@[simp] theorem State.setEventSet_service (s : State) (x : EventSet) : (s.setEventSet x).service = s.service := rfl
@[simp] theorem State.setEventSet_opState (s : State) (x : EventSet) : (s.setEventSet x).opState = s.opState := rfl
@[simp] theorem State.setEventSet_eventSet (s : State) (x : EventSet) : (s.setEventSet x).eventSet = x := rfl
@[simp] theorem State.setEventSet_hostMask (s : State) (x : EventSet) : (s.setEventSet x).hostMask = s.hostMask := rfl
@[simp] theorem State.setEventSet_serviceMask (s : State) (x : EventSet) : (s.setEventSet x).serviceMask = s.serviceMask := rfl
@[simp] theorem State.setEventSet_params (s : State) (x : EventSet) : (s.setEventSet x).params = s.params := rfl
@[simp] theorem State.setEventSet_freeTick (s : State) (x : EventSet) : (s.setEventSet x).freeTick = s.freeTick := rfl

/-! ### `setHostMask` -/

@[simp] theorem State.setHostMask_pending (s : State) (x : BitVec 12) : (s.setHostMask x).pending = s.pending := rfl
@[simp] theorem State.setHostMask_rows (s : State) (x : BitVec 12) : (s.setHostMask x).rows = s.rows := rfl
@[simp] theorem State.setHostMask_spanIndex (s : State) (x : BitVec 12) : (s.setHostMask x).spanIndex = s.spanIndex := rfl
@[simp] theorem State.setHostMask_copies (s : State) (x : BitVec 12) : (s.setHostMask x).copies = s.copies := rfl
@[simp] theorem State.setHostMask_freeCount (s : State) (x : BitVec 12) : (s.setHostMask x).freeCount = s.freeCount := rfl
@[simp] theorem State.setHostMask_superseded (s : State) (x : BitVec 12) : (s.setHostMask x).superseded = s.superseded := rfl
@[simp] theorem State.setHostMask_lowArmed (s : State) (x : BitVec 12) : (s.setHostMask x).lowArmed = s.lowArmed := rfl
@[simp] theorem State.setHostMask_slots (s : State) (x : BitVec 12) : (s.setHostMask x).slots = s.slots := rfl
@[simp] theorem State.setHostMask_session (s : State) (x : BitVec 12) : (s.setHostMask x).session = s.session := rfl
@[simp] theorem State.setHostMask_epoch (s : State) (x : BitVec 12) : (s.setHostMask x).epoch = s.epoch := rfl
@[simp] theorem State.setHostMask_staged (s : State) (x : BitVec 12) : (s.setHostMask x).staged = s.staged := rfl
@[simp] theorem State.setHostMask_markerCount (s : State) (x : BitVec 12) : (s.setHostMask x).markerCount = s.markerCount := rfl
@[simp] theorem State.setHostMask_switchRecord (s : State) (x : BitVec 12) : (s.setHostMask x).switchRecord = s.switchRecord := rfl
@[simp] theorem State.setHostMask_links (s : State) (x : BitVec 12) : (s.setHostMask x).links = s.links := rfl
@[simp] theorem State.setHostMask_engine (s : State) (x : BitVec 12) : (s.setHostMask x).engine = s.engine := rfl
@[simp] theorem State.setHostMask_snap (s : State) (x : BitVec 12) : (s.setHostMask x).snap = s.snap := rfl
@[simp] theorem State.setHostMask_flash (s : State) (x : BitVec 12) : (s.setHostMask x).flash = s.flash := rfl
@[simp] theorem State.setHostMask_host (s : State) (x : BitVec 12) : (s.setHostMask x).host = s.host := rfl
@[simp] theorem State.setHostMask_service (s : State) (x : BitVec 12) : (s.setHostMask x).service = s.service := rfl
@[simp] theorem State.setHostMask_opState (s : State) (x : BitVec 12) : (s.setHostMask x).opState = s.opState := rfl
@[simp] theorem State.setHostMask_eventSet (s : State) (x : BitVec 12) : (s.setHostMask x).eventSet = s.eventSet := rfl
@[simp] theorem State.setHostMask_hostMask (s : State) (x : BitVec 12) : (s.setHostMask x).hostMask = x := rfl
@[simp] theorem State.setHostMask_serviceMask (s : State) (x : BitVec 12) : (s.setHostMask x).serviceMask = s.serviceMask := rfl
@[simp] theorem State.setHostMask_params (s : State) (x : BitVec 12) : (s.setHostMask x).params = s.params := rfl
@[simp] theorem State.setHostMask_freeTick (s : State) (x : BitVec 12) : (s.setHostMask x).freeTick = s.freeTick := rfl

/-! ### `setServiceMask` -/

@[simp] theorem State.setServiceMask_pending (s : State) (x : BitVec 12) : (s.setServiceMask x).pending = s.pending := rfl
@[simp] theorem State.setServiceMask_rows (s : State) (x : BitVec 12) : (s.setServiceMask x).rows = s.rows := rfl
@[simp] theorem State.setServiceMask_spanIndex (s : State) (x : BitVec 12) : (s.setServiceMask x).spanIndex = s.spanIndex := rfl
@[simp] theorem State.setServiceMask_copies (s : State) (x : BitVec 12) : (s.setServiceMask x).copies = s.copies := rfl
@[simp] theorem State.setServiceMask_freeCount (s : State) (x : BitVec 12) : (s.setServiceMask x).freeCount = s.freeCount := rfl
@[simp] theorem State.setServiceMask_superseded (s : State) (x : BitVec 12) : (s.setServiceMask x).superseded = s.superseded := rfl
@[simp] theorem State.setServiceMask_lowArmed (s : State) (x : BitVec 12) : (s.setServiceMask x).lowArmed = s.lowArmed := rfl
@[simp] theorem State.setServiceMask_slots (s : State) (x : BitVec 12) : (s.setServiceMask x).slots = s.slots := rfl
@[simp] theorem State.setServiceMask_session (s : State) (x : BitVec 12) : (s.setServiceMask x).session = s.session := rfl
@[simp] theorem State.setServiceMask_epoch (s : State) (x : BitVec 12) : (s.setServiceMask x).epoch = s.epoch := rfl
@[simp] theorem State.setServiceMask_staged (s : State) (x : BitVec 12) : (s.setServiceMask x).staged = s.staged := rfl
@[simp] theorem State.setServiceMask_markerCount (s : State) (x : BitVec 12) : (s.setServiceMask x).markerCount = s.markerCount := rfl
@[simp] theorem State.setServiceMask_switchRecord (s : State) (x : BitVec 12) : (s.setServiceMask x).switchRecord = s.switchRecord := rfl
@[simp] theorem State.setServiceMask_links (s : State) (x : BitVec 12) : (s.setServiceMask x).links = s.links := rfl
@[simp] theorem State.setServiceMask_engine (s : State) (x : BitVec 12) : (s.setServiceMask x).engine = s.engine := rfl
@[simp] theorem State.setServiceMask_snap (s : State) (x : BitVec 12) : (s.setServiceMask x).snap = s.snap := rfl
@[simp] theorem State.setServiceMask_flash (s : State) (x : BitVec 12) : (s.setServiceMask x).flash = s.flash := rfl
@[simp] theorem State.setServiceMask_host (s : State) (x : BitVec 12) : (s.setServiceMask x).host = s.host := rfl
@[simp] theorem State.setServiceMask_service (s : State) (x : BitVec 12) : (s.setServiceMask x).service = s.service := rfl
@[simp] theorem State.setServiceMask_opState (s : State) (x : BitVec 12) : (s.setServiceMask x).opState = s.opState := rfl
@[simp] theorem State.setServiceMask_eventSet (s : State) (x : BitVec 12) : (s.setServiceMask x).eventSet = s.eventSet := rfl
@[simp] theorem State.setServiceMask_hostMask (s : State) (x : BitVec 12) : (s.setServiceMask x).hostMask = s.hostMask := rfl
@[simp] theorem State.setServiceMask_serviceMask (s : State) (x : BitVec 12) : (s.setServiceMask x).serviceMask = x := rfl
@[simp] theorem State.setServiceMask_params (s : State) (x : BitVec 12) : (s.setServiceMask x).params = s.params := rfl
@[simp] theorem State.setServiceMask_freeTick (s : State) (x : BitVec 12) : (s.setServiceMask x).freeTick = s.freeTick := rfl

/-! ### `setParams` -/

@[simp] theorem State.setParams_pending (s : State) (x : Params) : (s.setParams x).pending = s.pending := rfl
@[simp] theorem State.setParams_rows (s : State) (x : Params) : (s.setParams x).rows = s.rows := rfl
@[simp] theorem State.setParams_spanIndex (s : State) (x : Params) : (s.setParams x).spanIndex = s.spanIndex := rfl
@[simp] theorem State.setParams_copies (s : State) (x : Params) : (s.setParams x).copies = s.copies := rfl
@[simp] theorem State.setParams_freeCount (s : State) (x : Params) : (s.setParams x).freeCount = s.freeCount := rfl
@[simp] theorem State.setParams_superseded (s : State) (x : Params) : (s.setParams x).superseded = s.superseded := rfl
@[simp] theorem State.setParams_lowArmed (s : State) (x : Params) : (s.setParams x).lowArmed = s.lowArmed := rfl
@[simp] theorem State.setParams_slots (s : State) (x : Params) : (s.setParams x).slots = s.slots := rfl
@[simp] theorem State.setParams_session (s : State) (x : Params) : (s.setParams x).session = s.session := rfl
@[simp] theorem State.setParams_epoch (s : State) (x : Params) : (s.setParams x).epoch = s.epoch := rfl
@[simp] theorem State.setParams_staged (s : State) (x : Params) : (s.setParams x).staged = s.staged := rfl
@[simp] theorem State.setParams_markerCount (s : State) (x : Params) : (s.setParams x).markerCount = s.markerCount := rfl
@[simp] theorem State.setParams_switchRecord (s : State) (x : Params) : (s.setParams x).switchRecord = s.switchRecord := rfl
@[simp] theorem State.setParams_links (s : State) (x : Params) : (s.setParams x).links = s.links := rfl
@[simp] theorem State.setParams_engine (s : State) (x : Params) : (s.setParams x).engine = s.engine := rfl
@[simp] theorem State.setParams_snap (s : State) (x : Params) : (s.setParams x).snap = s.snap := rfl
@[simp] theorem State.setParams_flash (s : State) (x : Params) : (s.setParams x).flash = s.flash := rfl
@[simp] theorem State.setParams_host (s : State) (x : Params) : (s.setParams x).host = s.host := rfl
@[simp] theorem State.setParams_service (s : State) (x : Params) : (s.setParams x).service = s.service := rfl
@[simp] theorem State.setParams_opState (s : State) (x : Params) : (s.setParams x).opState = s.opState := rfl
@[simp] theorem State.setParams_eventSet (s : State) (x : Params) : (s.setParams x).eventSet = s.eventSet := rfl
@[simp] theorem State.setParams_hostMask (s : State) (x : Params) : (s.setParams x).hostMask = s.hostMask := rfl
@[simp] theorem State.setParams_serviceMask (s : State) (x : Params) : (s.setParams x).serviceMask = s.serviceMask := rfl
@[simp] theorem State.setParams_params (s : State) (x : Params) : (s.setParams x).params = x := rfl
@[simp] theorem State.setParams_freeTick (s : State) (x : Params) : (s.setParams x).freeTick = s.freeTick := rfl

/-! ### `setFreeTick` -/

@[simp] theorem State.setFreeTick_pending (s : State) (x : Nat) : (s.setFreeTick x).pending = s.pending := rfl
@[simp] theorem State.setFreeTick_rows (s : State) (x : Nat) : (s.setFreeTick x).rows = s.rows := rfl
@[simp] theorem State.setFreeTick_spanIndex (s : State) (x : Nat) : (s.setFreeTick x).spanIndex = s.spanIndex := rfl
@[simp] theorem State.setFreeTick_copies (s : State) (x : Nat) : (s.setFreeTick x).copies = s.copies := rfl
@[simp] theorem State.setFreeTick_freeCount (s : State) (x : Nat) : (s.setFreeTick x).freeCount = s.freeCount := rfl
@[simp] theorem State.setFreeTick_superseded (s : State) (x : Nat) : (s.setFreeTick x).superseded = s.superseded := rfl
@[simp] theorem State.setFreeTick_lowArmed (s : State) (x : Nat) : (s.setFreeTick x).lowArmed = s.lowArmed := rfl
@[simp] theorem State.setFreeTick_slots (s : State) (x : Nat) : (s.setFreeTick x).slots = s.slots := rfl
@[simp] theorem State.setFreeTick_session (s : State) (x : Nat) : (s.setFreeTick x).session = s.session := rfl
@[simp] theorem State.setFreeTick_epoch (s : State) (x : Nat) : (s.setFreeTick x).epoch = s.epoch := rfl
@[simp] theorem State.setFreeTick_staged (s : State) (x : Nat) : (s.setFreeTick x).staged = s.staged := rfl
@[simp] theorem State.setFreeTick_markerCount (s : State) (x : Nat) : (s.setFreeTick x).markerCount = s.markerCount := rfl
@[simp] theorem State.setFreeTick_switchRecord (s : State) (x : Nat) : (s.setFreeTick x).switchRecord = s.switchRecord := rfl
@[simp] theorem State.setFreeTick_links (s : State) (x : Nat) : (s.setFreeTick x).links = s.links := rfl
@[simp] theorem State.setFreeTick_engine (s : State) (x : Nat) : (s.setFreeTick x).engine = s.engine := rfl
@[simp] theorem State.setFreeTick_snap (s : State) (x : Nat) : (s.setFreeTick x).snap = s.snap := rfl
@[simp] theorem State.setFreeTick_flash (s : State) (x : Nat) : (s.setFreeTick x).flash = s.flash := rfl
@[simp] theorem State.setFreeTick_host (s : State) (x : Nat) : (s.setFreeTick x).host = s.host := rfl
@[simp] theorem State.setFreeTick_service (s : State) (x : Nat) : (s.setFreeTick x).service = s.service := rfl
@[simp] theorem State.setFreeTick_opState (s : State) (x : Nat) : (s.setFreeTick x).opState = s.opState := rfl
@[simp] theorem State.setFreeTick_eventSet (s : State) (x : Nat) : (s.setFreeTick x).eventSet = s.eventSet := rfl
@[simp] theorem State.setFreeTick_hostMask (s : State) (x : Nat) : (s.setFreeTick x).hostMask = s.hostMask := rfl
@[simp] theorem State.setFreeTick_serviceMask (s : State) (x : Nat) : (s.setFreeTick x).serviceMask = s.serviceMask := rfl
@[simp] theorem State.setFreeTick_params (s : State) (x : Nat) : (s.setFreeTick x).params = s.params := rfl
@[simp] theorem State.setFreeTick_freeTick (s : State) (x : Nat) : (s.setFreeTick x).freeTick = x := rfl

end Sys2Proof.Machine
end

