-- ==== Sys2Proof/Laws/Tables.lean ====
section
/-! SUPPORT. What the sparse tables and the flash bytes do: reading after writing, and the canonical form that every operation
keeps. -/

namespace Sys2Proof.Machine

variable {α : Type}

/-! ### find, put, drop -/

@[simp] theorem Table.find_nil (i : Nat) : Table.find ([] : Table α) i = none := rfl

theorem Table.find_cons (j : Nat) (a : α) (t : Table α) (i : Nat) :
    Table.find ((j, a) :: t) i = if i = j then some a else Table.find t i := rfl

theorem Table.find_put (i : Nat) (a : α) (t : Table α) (k : Nat) :
    Table.find (Table.put i a t) k = if k = i then some a else Table.find t k := by
  induction t with
  | nil => simp [Table.put, Table.find]
  | cons e t ih =>
    obtain ⟨j, b⟩ := e
    simp only [Table.put]
    split
    · simp [Table.find]
    · split
      · subst_vars
        simp only [Table.find]
        split <;> simp_all
      · simp only [Table.find_cons, ih]
        split <;> split <;> simp_all

theorem Table.find_drop (i : Nat) (t : Table α) (k : Nat) :
    Table.find (Table.drop i t) k = if k = i then none else Table.find t k := by
  induction t with
  | nil => simp [Table.drop, Table.find]
  | cons e t ih =>
    obtain ⟨j, b⟩ := e
    simp only [Table.drop]
    split
    · subst_vars
      rw [ih, Table.find_cons]
      split <;> simp_all
    · simp only [Table.find_cons, ih]
      split <;> split <;> simp_all

/-- A read after a write: the value written at its number, the old value at every other. -/
@[simp] theorem Table.read_write [DecidableEq α] (d : α) (i : Nat) (a : α) (t : Table α) (k : Nat) :
    Table.read d (Table.write d i a t) k = if k = i then a else Table.read d t k := by
  unfold Table.read Table.write
  by_cases h : a = d
  · subst h
    simp only [if_true, Table.find_drop]
    split <;> simp
  · simp only [h, if_false, Table.find_put]
    split <;> simp

theorem Table.read_write_same [DecidableEq α] (d : α) (i : Nat) (a : α) (t : Table α) :
    Table.read d (Table.write d i a t) i = a := by simp

@[simp] theorem Table.read_nil (d : α) (i : Nat) : Table.read d ([] : Table α) i = d := rfl

theorem Table.find_mapValues (f : α → α) (t : Table α) (i : Nat) :
    Table.find (Table.mapValues f t) i = (Table.find t i).map f := by
  induction t with
  | nil => rfl
  | cons e t ih =>
    obtain ⟨j, b⟩ := e
    simp only [Table.mapValues, Table.find_cons, ih]
    split <;> simp

/-- A read after a change of every listed value, where the default is left as it is. -/
theorem Table.read_mapValues (d : α) (f : α → α) (hd : f d = d) (t : Table α) (i : Nat) :
    Table.read d (Table.mapValues f t) i = f (Table.read d t i) := by
  unfold Table.read
  rw [Table.find_mapValues]
  cases Table.find t i <;> simp [hd]

/-! ### The canonical form -/

/-- Every listed number is at least `n`. -/
def Table.from (n : Nat) (t : Table α) : Prop := ∀ e ∈ t, n ≤ e.1

theorem Table.rising_cons {i : Nat} {a : α} {t : Table α} :
    Table.rising ((i, a) :: t) = true ↔ Table.from (i + 1) t ∧ Table.rising t = true := by
  induction t generalizing i a with
  | nil => simp [Table.rising, Table.from]
  | cons e t ih =>
    obtain ⟨j, b⟩ := e
    simp only [Table.rising, Bool.and_eq_true, decide_eq_true_eq]
    rw [ih]
    simp only [Table.from, List.mem_cons, forall_eq_or_imp]
    constructor
    · rintro ⟨h1, h2, h3⟩
      exact ⟨⟨h1, fun e he => by have := h2 e he; omega⟩, h2, h3⟩
    · rintro ⟨⟨h1, _⟩, h2, h3⟩
      exact ⟨h1, h2, h3⟩

theorem Table.mem_put {i : Nat} {a : α} {t : Table α} {e : Nat × α} (h : e ∈ Table.put i a t) : e = (i, a) ∨ e ∈ t := by
  induction t with
  | nil => simpa [Table.put] using h
  | cons x t ih =>
    obtain ⟨j, b⟩ := x
    simp only [Table.put] at h
    split at h
    · simpa using h
    · split at h
      · rcases List.mem_cons.1 h with h | h
        · exact .inl h
        · exact .inr (List.mem_cons_of_mem _ h)
      · rcases List.mem_cons.1 h with h | h
        · exact .inr (h ▸ List.mem_cons_self)
        · exact (ih h).imp_right (List.mem_cons_of_mem _)

theorem Table.mem_drop {i : Nat} {t : Table α} {e : Nat × α} (h : e ∈ Table.drop i t) : e ∈ t ∧ e.1 ≠ i := by
  induction t with
  | nil => simp [Table.drop] at h
  | cons x t ih =>
    obtain ⟨j, b⟩ := x
    simp only [Table.drop] at h
    split at h
    · exact ⟨List.mem_cons_of_mem _ (ih h).1, (ih h).2⟩
    · rename_i hne
      rcases List.mem_cons.1 h with h | h
      · subst h; exact ⟨List.mem_cons_self, fun hc => hne hc.symm⟩
      · exact ⟨List.mem_cons_of_mem _ (ih h).1, (ih h).2⟩

theorem Table.rising_put {i : Nat} {a : α} {t : Table α} (h : Table.rising t = true) :
    Table.rising (Table.put i a t) = true := by
  induction t with
  | nil => rfl
  | cons x t ih =>
    obtain ⟨j, b⟩ := x
    have hj := Table.rising_cons.1 h
    simp only [Table.put]
    split
    · rename_i hlt
      refine Table.rising_cons.2 ⟨?_, h⟩
      intro e he
      rcases List.mem_cons.1 he with rfl | he
      · exact hlt
      · have := hj.1 e he; omega
    · split
      · subst_vars; exact Table.rising_cons.2 hj
      · refine Table.rising_cons.2 ⟨?_, ih hj.2⟩
        intro e he
        rcases Table.mem_put he with rfl | he
        · simp only; omega
        · exact hj.1 e he

theorem Table.rising_drop {i : Nat} {t : Table α} (h : Table.rising t = true) : Table.rising (Table.drop i t) = true := by
  induction t with
  | nil => rfl
  | cons x t ih =>
    obtain ⟨j, b⟩ := x
    have hj := Table.rising_cons.1 h
    simp only [Table.drop]
    split
    · exact ih hj.2
    · exact Table.rising_cons.2 ⟨fun e he => hj.1 e (Table.mem_drop he).1, ih hj.2⟩

/-- A write keeps the canonical form. -/
theorem Table.wf_write [DecidableEq α] {d : α} (i : Nat) (a : α) {t : Table α} (h : Table.wf d t = true) :
    Table.wf d (Table.write d i a t) = true := by
  simp only [Table.wf, Bool.and_eq_true, List.all_eq_true, decide_eq_true_eq] at h ⊢
  unfold Table.write
  split
  · exact ⟨Table.rising_drop h.1, fun e he => h.2 e (Table.mem_drop he).1⟩
  · rename_i hne
    refine ⟨Table.rising_put h.1, fun e he => ?_⟩
    rcases Table.mem_put he with rfl | he
    · exact hne
    · exact h.2 e he

theorem Table.rising_filter {p : Nat × α → Bool} {t : Table α} (h : Table.rising t = true) :
    Table.rising (t.filter p) = true := by
  induction t with
  | nil => rfl
  | cons x t ih =>
    obtain ⟨j, b⟩ := x
    have hj := Table.rising_cons.1 h
    rw [List.filter_cons]
    split
    · exact Table.rising_cons.2 ⟨fun e he => hj.1 e (List.mem_filter.1 he).1, ih hj.2⟩
    · exact ih hj.2

/-- Taking entries away keeps the canonical form. -/
theorem Table.wf_filter [DecidableEq α] {d : α} (p : Nat × α → Bool) {t : Table α} (h : Table.wf d t = true) :
    Table.wf d (t.filter p) = true := by
  simp only [Table.wf, Bool.and_eq_true, List.all_eq_true, decide_eq_true_eq] at h ⊢
  exact ⟨Table.rising_filter h.1, fun e he => h.2 e (List.mem_filter.1 he).1⟩

/-! ### Flash bytes -/

theorem Table.mem_write [DecidableEq α] {d : α} {i : Nat} {a : α} {t : Table α} {e : Nat × α}
    (h : e ∈ Table.write d i a t) : e = (i, a) ∨ e ∈ t := by
  unfold Table.write at h
  split at h
  · exact .inr (Table.mem_drop h).1
  · exact Table.mem_put h

theorem Memory.wf_writeByte (a : Nat) (v : Byte) {cells : List Host.Cell} (h : Memory.wf cells = true) :
    Memory.wf (writeByte a v cells) = true := by
  unfold writeByte
  split
  · rename_i ha
    simp only [Memory.wf, Bool.and_eq_true, List.all_eq_true, decide_eq_true_eq] at h ⊢
    refine ⟨Table.wf_write a v h.1, fun c hc => ?_⟩
    rcases Table.mem_write hc with rfl | hc
    · exact ha
    · exact h.2 c hc
  · exact h

theorem Memory.wf_writeBytes (a : Nat) (vs : List Byte) {cells : List Host.Cell} (h : Memory.wf cells = true) :
    Memory.wf (writeBytes a vs cells) = true := by
  induction vs generalizing a cells with
  | nil => exact h
  | cons v vs ih => exact ih (a + 1) (Memory.wf_writeByte a v h)

theorem Memory.wf_applyChanges (cs : List Host.Cell) {cells : List Host.Cell} (h : Memory.wf cells = true) :
    Memory.wf (applyChanges cs cells) = true := by
  induction cs generalizing cells with
  | nil => exact h
  | cons c cs ih =>
    obtain ⟨a, v⟩ := c
    exact ih (Memory.wf_writeByte a v h)

theorem Memory.wf_eraseBank (b : Bank) {cells : List Host.Cell} (h : Memory.wf cells = true) :
    Memory.wf (eraseBank b cells) = true := by
  simp only [Memory.wf, Bool.and_eq_true, List.all_eq_true, decide_eq_true_eq] at h ⊢
  exact ⟨Table.wf_filter _ h.1, fun c hc => h.2 c (List.mem_filter.1 hc).1⟩

/-- Every device operation keeps the canonical form of the flash. -/
theorem Memory.wf_effect (d : DeviceOp) {cells : List Host.Cell} (h : Memory.wf cells = true) :
    Memory.wf (d.effect cells) = true := by
  cases d with
  | erase b => exact Memory.wf_eraseBank b h
  | program b page bytes => exact Memory.wf_writeBytes _ _ h

/-- A flash byte after one byte was written. -/
theorem readByte_writeByte (a : Nat) (v : Byte) (cells : List Host.Cell) (k : Nat) :
    readByte (writeByte a v cells) k = if k = a ∧ a < Config.flashBytes then v else readByte cells k := by
  unfold readByte writeByte
  split
  · rename_i h
    simp [h]
  · rename_i h
    rw [if_neg (fun hc => h hc.2)]

theorem Table.find_filter (p : Nat → Bool) (t : Table α) (k : Nat) :
    Table.find (t.filter (fun e => p e.1)) k = if p k then Table.find t k else none := by
  induction t with
  | nil => simp
  | cons e t ih =>
    obtain ⟨j, b⟩ := e
    rw [List.filter_cons]
    by_cases hp : p j = true
    · simp only [hp, if_true, Table.find_cons, ih]
      by_cases hk : k = j
      · simp [hk, hp]
      · simp [hk]
    · rw [if_neg hp, ih, Table.find_cons]
      by_cases hk : k = j
      · subst hk; simp [hp]
      · simp [hk]

/-- A flash byte after a bank was erased: erased in the bank, as it was outside it (R159). -/
theorem readByte_eraseBank (b : Bank) (cells : List Host.Cell) (k : Nat) :
    readByte (eraseBank b cells) k =
      if pageAddress b 0 ≤ k ∧ k < pageAddress b 0 + Config.bankBytes then Config.erased else readByte cells k := by
  unfold readByte eraseBank Table.read
  have h := Table.find_filter (fun a => decide (a < pageAddress b 0) || decide (pageAddress b 0 + Config.bankBytes ≤ a))
    cells k
  rw [h]
  by_cases h1 : k < pageAddress b 0
  · simp [h1, Nat.not_le.2 h1]
  · by_cases h2 : pageAddress b 0 + Config.bankBytes ≤ k
    · simp [h2, Nat.not_lt.2 h2]
    · simp [h1, h2, Nat.not_lt.1 h1, Nat.not_le.1 h2]

end Sys2Proof.Machine
end

