-- ==== Sys2Proof/Laws/Access.lean ====
section
/-! SUPPORT. Rows, copies, slots, links, ports and masks after every update: what a read by number gives, so that no proof
unfolds an accessor. -/

namespace Sys2Proof.Machine

/-! ### `row` after the setters -/

@[simp] theorem State.row_setPending (s : State) (x : List Instr) (k : Nat) : (s.setPending x).row k = s.row k := rfl
@[simp] theorem State.row_setSpanIndex (s : State) (x : List IndexItem) (k : Nat) : (s.setSpanIndex x).row k = s.row k := rfl
@[simp] theorem State.row_setCopies (s : State) (x : Table Copy) (k : Nat) : (s.setCopies x).row k = s.row k := rfl
@[simp] theorem State.row_setFreeCount (s : State) (x : Nat) (k : Nat) : (s.setFreeCount x).row k = s.row k := rfl
@[simp] theorem State.row_setSuperseded (s : State) (x : List Nat) (k : Nat) : (s.setSuperseded x).row k = s.row k := rfl
@[simp] theorem State.row_setLowArmed (s : State) (x : Bool) (k : Nat) : (s.setLowArmed x).row k = s.row k := rfl
@[simp] theorem State.row_setSlots (s : State) (x : Table Slot) (k : Nat) : (s.setSlots x).row k = s.row k := rfl
@[simp] theorem State.row_setSession (s : State) (x : Option Session) (k : Nat) : (s.setSession x).row k = s.row k := rfl
@[simp] theorem State.row_setEpoch (s : State) (x : Nat) (k : Nat) : (s.setEpoch x).row k = s.row k := rfl
@[simp] theorem State.row_setStaged (s : State) (x : Option StagedSet) (k : Nat) : (s.setStaged x).row k = s.row k := rfl
@[simp] theorem State.row_setMarkerCount (s : State) (x : Nat) (k : Nat) : (s.setMarkerCount x).row k = s.row k := rfl
@[simp] theorem State.row_setSwitchRecord (s : State) (x : Option SwitchRecord) (k : Nat) : (s.setSwitchRecord x).row k = s.row k := rfl
@[simp] theorem State.row_setLinks (s : State) (x : Table Link) (k : Nat) : (s.setLinks x).row k = s.row k := rfl
@[simp] theorem State.row_setEngine (s : State) (x : Nat) (k : Nat) : (s.setEngine x).row k = s.row k := rfl
@[simp] theorem State.row_setSnap (s : State) (x : Snapshot) (k : Nat) : (s.setSnap x).row k = s.row k := rfl
@[simp] theorem State.row_setFlash (s : State) (x : Flash) (k : Nat) : (s.setFlash x).row k = s.row k := rfl
@[simp] theorem State.row_setHost (s : State) (x : PortState) (k : Nat) : (s.setHost x).row k = s.row k := rfl
@[simp] theorem State.row_setService (s : State) (x : PortState) (k : Nat) : (s.setService x).row k = s.row k := rfl
@[simp] theorem State.row_setOpState (s : State) (x : OpState) (k : Nat) : (s.setOpState x).row k = s.row k := rfl
@[simp] theorem State.row_setEventSet (s : State) (x : EventSet) (k : Nat) : (s.setEventSet x).row k = s.row k := rfl
@[simp] theorem State.row_setHostMask (s : State) (x : BitVec 12) (k : Nat) : (s.setHostMask x).row k = s.row k := rfl
@[simp] theorem State.row_setServiceMask (s : State) (x : BitVec 12) (k : Nat) : (s.setServiceMask x).row k = s.row k := rfl
@[simp] theorem State.row_setParams (s : State) (x : Params) (k : Nat) : (s.setParams x).row k = s.row k := rfl
@[simp] theorem State.row_setFreeTick (s : State) (x : Nat) (k : Nat) : (s.setFreeTick x).row k = s.row k := rfl

/-! ### `copy` after the setters -/

@[simp] theorem State.copy_setPending (s : State) (x : List Instr) (k : Nat) : (s.setPending x).copy k = s.copy k := rfl
@[simp] theorem State.copy_setRows (s : State) (x : Table Row) (k : Nat) : (s.setRows x).copy k = s.copy k := rfl
@[simp] theorem State.copy_setSpanIndex (s : State) (x : List IndexItem) (k : Nat) : (s.setSpanIndex x).copy k = s.copy k := rfl
@[simp] theorem State.copy_setFreeCount (s : State) (x : Nat) (k : Nat) : (s.setFreeCount x).copy k = s.copy k := rfl
@[simp] theorem State.copy_setSuperseded (s : State) (x : List Nat) (k : Nat) : (s.setSuperseded x).copy k = s.copy k := rfl
@[simp] theorem State.copy_setLowArmed (s : State) (x : Bool) (k : Nat) : (s.setLowArmed x).copy k = s.copy k := rfl
@[simp] theorem State.copy_setSlots (s : State) (x : Table Slot) (k : Nat) : (s.setSlots x).copy k = s.copy k := rfl
@[simp] theorem State.copy_setSession (s : State) (x : Option Session) (k : Nat) : (s.setSession x).copy k = s.copy k := rfl
@[simp] theorem State.copy_setEpoch (s : State) (x : Nat) (k : Nat) : (s.setEpoch x).copy k = s.copy k := rfl
@[simp] theorem State.copy_setStaged (s : State) (x : Option StagedSet) (k : Nat) : (s.setStaged x).copy k = s.copy k := rfl
@[simp] theorem State.copy_setMarkerCount (s : State) (x : Nat) (k : Nat) : (s.setMarkerCount x).copy k = s.copy k := rfl
@[simp] theorem State.copy_setSwitchRecord (s : State) (x : Option SwitchRecord) (k : Nat) : (s.setSwitchRecord x).copy k = s.copy k := rfl
@[simp] theorem State.copy_setLinks (s : State) (x : Table Link) (k : Nat) : (s.setLinks x).copy k = s.copy k := rfl
@[simp] theorem State.copy_setEngine (s : State) (x : Nat) (k : Nat) : (s.setEngine x).copy k = s.copy k := rfl
@[simp] theorem State.copy_setSnap (s : State) (x : Snapshot) (k : Nat) : (s.setSnap x).copy k = s.copy k := rfl
@[simp] theorem State.copy_setFlash (s : State) (x : Flash) (k : Nat) : (s.setFlash x).copy k = s.copy k := rfl
@[simp] theorem State.copy_setHost (s : State) (x : PortState) (k : Nat) : (s.setHost x).copy k = s.copy k := rfl
@[simp] theorem State.copy_setService (s : State) (x : PortState) (k : Nat) : (s.setService x).copy k = s.copy k := rfl
@[simp] theorem State.copy_setOpState (s : State) (x : OpState) (k : Nat) : (s.setOpState x).copy k = s.copy k := rfl
@[simp] theorem State.copy_setEventSet (s : State) (x : EventSet) (k : Nat) : (s.setEventSet x).copy k = s.copy k := rfl
@[simp] theorem State.copy_setHostMask (s : State) (x : BitVec 12) (k : Nat) : (s.setHostMask x).copy k = s.copy k := rfl
@[simp] theorem State.copy_setServiceMask (s : State) (x : BitVec 12) (k : Nat) : (s.setServiceMask x).copy k = s.copy k := rfl
@[simp] theorem State.copy_setParams (s : State) (x : Params) (k : Nat) : (s.setParams x).copy k = s.copy k := rfl
@[simp] theorem State.copy_setFreeTick (s : State) (x : Nat) (k : Nat) : (s.setFreeTick x).copy k = s.copy k := rfl

/-! ### `slot` after the setters -/

@[simp] theorem State.slot_setPending (s : State) (x : List Instr) (k : Nat) : (s.setPending x).slot k = s.slot k := rfl
@[simp] theorem State.slot_setRows (s : State) (x : Table Row) (k : Nat) : (s.setRows x).slot k = s.slot k := rfl
@[simp] theorem State.slot_setSpanIndex (s : State) (x : List IndexItem) (k : Nat) : (s.setSpanIndex x).slot k = s.slot k := rfl
@[simp] theorem State.slot_setCopies (s : State) (x : Table Copy) (k : Nat) : (s.setCopies x).slot k = s.slot k := rfl
@[simp] theorem State.slot_setFreeCount (s : State) (x : Nat) (k : Nat) : (s.setFreeCount x).slot k = s.slot k := rfl
@[simp] theorem State.slot_setSuperseded (s : State) (x : List Nat) (k : Nat) : (s.setSuperseded x).slot k = s.slot k := rfl
@[simp] theorem State.slot_setLowArmed (s : State) (x : Bool) (k : Nat) : (s.setLowArmed x).slot k = s.slot k := rfl
@[simp] theorem State.slot_setSession (s : State) (x : Option Session) (k : Nat) : (s.setSession x).slot k = s.slot k := rfl
@[simp] theorem State.slot_setEpoch (s : State) (x : Nat) (k : Nat) : (s.setEpoch x).slot k = s.slot k := rfl
@[simp] theorem State.slot_setStaged (s : State) (x : Option StagedSet) (k : Nat) : (s.setStaged x).slot k = s.slot k := rfl
@[simp] theorem State.slot_setMarkerCount (s : State) (x : Nat) (k : Nat) : (s.setMarkerCount x).slot k = s.slot k := rfl
@[simp] theorem State.slot_setSwitchRecord (s : State) (x : Option SwitchRecord) (k : Nat) : (s.setSwitchRecord x).slot k = s.slot k := rfl
@[simp] theorem State.slot_setLinks (s : State) (x : Table Link) (k : Nat) : (s.setLinks x).slot k = s.slot k := rfl
@[simp] theorem State.slot_setEngine (s : State) (x : Nat) (k : Nat) : (s.setEngine x).slot k = s.slot k := rfl
@[simp] theorem State.slot_setSnap (s : State) (x : Snapshot) (k : Nat) : (s.setSnap x).slot k = s.slot k := rfl
@[simp] theorem State.slot_setFlash (s : State) (x : Flash) (k : Nat) : (s.setFlash x).slot k = s.slot k := rfl
@[simp] theorem State.slot_setHost (s : State) (x : PortState) (k : Nat) : (s.setHost x).slot k = s.slot k := rfl
@[simp] theorem State.slot_setService (s : State) (x : PortState) (k : Nat) : (s.setService x).slot k = s.slot k := rfl
@[simp] theorem State.slot_setOpState (s : State) (x : OpState) (k : Nat) : (s.setOpState x).slot k = s.slot k := rfl
@[simp] theorem State.slot_setEventSet (s : State) (x : EventSet) (k : Nat) : (s.setEventSet x).slot k = s.slot k := rfl
@[simp] theorem State.slot_setHostMask (s : State) (x : BitVec 12) (k : Nat) : (s.setHostMask x).slot k = s.slot k := rfl
@[simp] theorem State.slot_setServiceMask (s : State) (x : BitVec 12) (k : Nat) : (s.setServiceMask x).slot k = s.slot k := rfl
@[simp] theorem State.slot_setParams (s : State) (x : Params) (k : Nat) : (s.setParams x).slot k = s.slot k := rfl
@[simp] theorem State.slot_setFreeTick (s : State) (x : Nat) (k : Nat) : (s.setFreeTick x).slot k = s.slot k := rfl

/-! ### `link` after the setters -/

@[simp] theorem State.link_setPending (s : State) (x : List Instr) (k : Nat) : (s.setPending x).link k = s.link k := rfl
@[simp] theorem State.link_setRows (s : State) (x : Table Row) (k : Nat) : (s.setRows x).link k = s.link k := rfl
@[simp] theorem State.link_setSpanIndex (s : State) (x : List IndexItem) (k : Nat) : (s.setSpanIndex x).link k = s.link k := rfl
@[simp] theorem State.link_setCopies (s : State) (x : Table Copy) (k : Nat) : (s.setCopies x).link k = s.link k := rfl
@[simp] theorem State.link_setFreeCount (s : State) (x : Nat) (k : Nat) : (s.setFreeCount x).link k = s.link k := rfl
@[simp] theorem State.link_setSuperseded (s : State) (x : List Nat) (k : Nat) : (s.setSuperseded x).link k = s.link k := rfl
@[simp] theorem State.link_setLowArmed (s : State) (x : Bool) (k : Nat) : (s.setLowArmed x).link k = s.link k := rfl
@[simp] theorem State.link_setSlots (s : State) (x : Table Slot) (k : Nat) : (s.setSlots x).link k = s.link k := rfl
@[simp] theorem State.link_setSession (s : State) (x : Option Session) (k : Nat) : (s.setSession x).link k = s.link k := rfl
@[simp] theorem State.link_setEpoch (s : State) (x : Nat) (k : Nat) : (s.setEpoch x).link k = s.link k := rfl
@[simp] theorem State.link_setStaged (s : State) (x : Option StagedSet) (k : Nat) : (s.setStaged x).link k = s.link k := rfl
@[simp] theorem State.link_setMarkerCount (s : State) (x : Nat) (k : Nat) : (s.setMarkerCount x).link k = s.link k := rfl
@[simp] theorem State.link_setSwitchRecord (s : State) (x : Option SwitchRecord) (k : Nat) : (s.setSwitchRecord x).link k = s.link k := rfl
@[simp] theorem State.link_setEngine (s : State) (x : Nat) (k : Nat) : (s.setEngine x).link k = s.link k := rfl
@[simp] theorem State.link_setSnap (s : State) (x : Snapshot) (k : Nat) : (s.setSnap x).link k = s.link k := rfl
@[simp] theorem State.link_setFlash (s : State) (x : Flash) (k : Nat) : (s.setFlash x).link k = s.link k := rfl
@[simp] theorem State.link_setHost (s : State) (x : PortState) (k : Nat) : (s.setHost x).link k = s.link k := rfl
@[simp] theorem State.link_setService (s : State) (x : PortState) (k : Nat) : (s.setService x).link k = s.link k := rfl
@[simp] theorem State.link_setOpState (s : State) (x : OpState) (k : Nat) : (s.setOpState x).link k = s.link k := rfl
@[simp] theorem State.link_setEventSet (s : State) (x : EventSet) (k : Nat) : (s.setEventSet x).link k = s.link k := rfl
@[simp] theorem State.link_setHostMask (s : State) (x : BitVec 12) (k : Nat) : (s.setHostMask x).link k = s.link k := rfl
@[simp] theorem State.link_setServiceMask (s : State) (x : BitVec 12) (k : Nat) : (s.setServiceMask x).link k = s.link k := rfl
@[simp] theorem State.link_setParams (s : State) (x : Params) (k : Nat) : (s.setParams x).link k = s.link k := rfl
@[simp] theorem State.link_setFreeTick (s : State) (x : Nat) (k : Nat) : (s.setFreeTick x).link k = s.link k := rfl

/-! ### `port` after the setters -/

@[simp] theorem State.port_setPending (s : State) (x : List Instr) (p : Port) : (s.setPending x).port p = s.port p := by cases p <;> rfl
@[simp] theorem State.port_setRows (s : State) (x : Table Row) (p : Port) : (s.setRows x).port p = s.port p := by cases p <;> rfl
@[simp] theorem State.port_setSpanIndex (s : State) (x : List IndexItem) (p : Port) : (s.setSpanIndex x).port p = s.port p := by cases p <;> rfl
@[simp] theorem State.port_setCopies (s : State) (x : Table Copy) (p : Port) : (s.setCopies x).port p = s.port p := by cases p <;> rfl
@[simp] theorem State.port_setFreeCount (s : State) (x : Nat) (p : Port) : (s.setFreeCount x).port p = s.port p := by cases p <;> rfl
@[simp] theorem State.port_setSuperseded (s : State) (x : List Nat) (p : Port) : (s.setSuperseded x).port p = s.port p := by cases p <;> rfl
@[simp] theorem State.port_setLowArmed (s : State) (x : Bool) (p : Port) : (s.setLowArmed x).port p = s.port p := by cases p <;> rfl
@[simp] theorem State.port_setSlots (s : State) (x : Table Slot) (p : Port) : (s.setSlots x).port p = s.port p := by cases p <;> rfl
@[simp] theorem State.port_setSession (s : State) (x : Option Session) (p : Port) : (s.setSession x).port p = s.port p := by cases p <;> rfl
@[simp] theorem State.port_setEpoch (s : State) (x : Nat) (p : Port) : (s.setEpoch x).port p = s.port p := by cases p <;> rfl
@[simp] theorem State.port_setStaged (s : State) (x : Option StagedSet) (p : Port) : (s.setStaged x).port p = s.port p := by cases p <;> rfl
@[simp] theorem State.port_setMarkerCount (s : State) (x : Nat) (p : Port) : (s.setMarkerCount x).port p = s.port p := by cases p <;> rfl
@[simp] theorem State.port_setSwitchRecord (s : State) (x : Option SwitchRecord) (p : Port) : (s.setSwitchRecord x).port p = s.port p := by cases p <;> rfl
@[simp] theorem State.port_setLinks (s : State) (x : Table Link) (p : Port) : (s.setLinks x).port p = s.port p := by cases p <;> rfl
@[simp] theorem State.port_setEngine (s : State) (x : Nat) (p : Port) : (s.setEngine x).port p = s.port p := by cases p <;> rfl
@[simp] theorem State.port_setSnap (s : State) (x : Snapshot) (p : Port) : (s.setSnap x).port p = s.port p := by cases p <;> rfl
@[simp] theorem State.port_setFlash (s : State) (x : Flash) (p : Port) : (s.setFlash x).port p = s.port p := by cases p <;> rfl
@[simp] theorem State.port_setOpState (s : State) (x : OpState) (p : Port) : (s.setOpState x).port p = s.port p := by cases p <;> rfl
@[simp] theorem State.port_setEventSet (s : State) (x : EventSet) (p : Port) : (s.setEventSet x).port p = s.port p := by cases p <;> rfl
@[simp] theorem State.port_setHostMask (s : State) (x : BitVec 12) (p : Port) : (s.setHostMask x).port p = s.port p := by cases p <;> rfl
@[simp] theorem State.port_setServiceMask (s : State) (x : BitVec 12) (p : Port) : (s.setServiceMask x).port p = s.port p := by cases p <;> rfl
@[simp] theorem State.port_setParams (s : State) (x : Params) (p : Port) : (s.setParams x).port p = s.port p := by cases p <;> rfl
@[simp] theorem State.port_setFreeTick (s : State) (x : Nat) (p : Port) : (s.setFreeTick x).port p = s.port p := by cases p <;> rfl

/-! ### `mask` after the setters -/

@[simp] theorem State.mask_setPending (s : State) (x : List Instr) (p : Port) : (s.setPending x).mask p = s.mask p := by cases p <;> rfl
@[simp] theorem State.mask_setRows (s : State) (x : Table Row) (p : Port) : (s.setRows x).mask p = s.mask p := by cases p <;> rfl
@[simp] theorem State.mask_setSpanIndex (s : State) (x : List IndexItem) (p : Port) : (s.setSpanIndex x).mask p = s.mask p := by cases p <;> rfl
@[simp] theorem State.mask_setCopies (s : State) (x : Table Copy) (p : Port) : (s.setCopies x).mask p = s.mask p := by cases p <;> rfl
@[simp] theorem State.mask_setFreeCount (s : State) (x : Nat) (p : Port) : (s.setFreeCount x).mask p = s.mask p := by cases p <;> rfl
@[simp] theorem State.mask_setSuperseded (s : State) (x : List Nat) (p : Port) : (s.setSuperseded x).mask p = s.mask p := by cases p <;> rfl
@[simp] theorem State.mask_setLowArmed (s : State) (x : Bool) (p : Port) : (s.setLowArmed x).mask p = s.mask p := by cases p <;> rfl
@[simp] theorem State.mask_setSlots (s : State) (x : Table Slot) (p : Port) : (s.setSlots x).mask p = s.mask p := by cases p <;> rfl
@[simp] theorem State.mask_setSession (s : State) (x : Option Session) (p : Port) : (s.setSession x).mask p = s.mask p := by cases p <;> rfl
@[simp] theorem State.mask_setEpoch (s : State) (x : Nat) (p : Port) : (s.setEpoch x).mask p = s.mask p := by cases p <;> rfl
@[simp] theorem State.mask_setStaged (s : State) (x : Option StagedSet) (p : Port) : (s.setStaged x).mask p = s.mask p := by cases p <;> rfl
@[simp] theorem State.mask_setMarkerCount (s : State) (x : Nat) (p : Port) : (s.setMarkerCount x).mask p = s.mask p := by cases p <;> rfl
@[simp] theorem State.mask_setSwitchRecord (s : State) (x : Option SwitchRecord) (p : Port) : (s.setSwitchRecord x).mask p = s.mask p := by cases p <;> rfl
@[simp] theorem State.mask_setLinks (s : State) (x : Table Link) (p : Port) : (s.setLinks x).mask p = s.mask p := by cases p <;> rfl
@[simp] theorem State.mask_setEngine (s : State) (x : Nat) (p : Port) : (s.setEngine x).mask p = s.mask p := by cases p <;> rfl
@[simp] theorem State.mask_setSnap (s : State) (x : Snapshot) (p : Port) : (s.setSnap x).mask p = s.mask p := by cases p <;> rfl
@[simp] theorem State.mask_setFlash (s : State) (x : Flash) (p : Port) : (s.setFlash x).mask p = s.mask p := by cases p <;> rfl
@[simp] theorem State.mask_setHost (s : State) (x : PortState) (p : Port) : (s.setHost x).mask p = s.mask p := by cases p <;> rfl
@[simp] theorem State.mask_setService (s : State) (x : PortState) (p : Port) : (s.setService x).mask p = s.mask p := by cases p <;> rfl
@[simp] theorem State.mask_setOpState (s : State) (x : OpState) (p : Port) : (s.setOpState x).mask p = s.mask p := by cases p <;> rfl
@[simp] theorem State.mask_setEventSet (s : State) (x : EventSet) (p : Port) : (s.setEventSet x).mask p = s.mask p := by cases p <;> rfl
@[simp] theorem State.mask_setParams (s : State) (x : Params) (p : Port) : (s.setParams x).mask p = s.mask p := by cases p <;> rfl
@[simp] theorem State.mask_setFreeTick (s : State) (x : Nat) (p : Port) : (s.setFreeTick x).mask p = s.mask p := by cases p <;> rfl

/-! ### Every field after `putRow` -/

@[simp] theorem State.putRow_pending (s : State) (n : Nat) (x : Row) : (s.putRow n x).pending = s.pending := rfl
@[simp] theorem State.putRow_spanIndex (s : State) (n : Nat) (x : Row) : (s.putRow n x).spanIndex = s.spanIndex := rfl
@[simp] theorem State.putRow_copies (s : State) (n : Nat) (x : Row) : (s.putRow n x).copies = s.copies := rfl
@[simp] theorem State.putRow_freeCount (s : State) (n : Nat) (x : Row) : (s.putRow n x).freeCount = s.freeCount := rfl
@[simp] theorem State.putRow_superseded (s : State) (n : Nat) (x : Row) : (s.putRow n x).superseded = s.superseded := rfl
@[simp] theorem State.putRow_lowArmed (s : State) (n : Nat) (x : Row) : (s.putRow n x).lowArmed = s.lowArmed := rfl
@[simp] theorem State.putRow_slots (s : State) (n : Nat) (x : Row) : (s.putRow n x).slots = s.slots := rfl
@[simp] theorem State.putRow_session (s : State) (n : Nat) (x : Row) : (s.putRow n x).session = s.session := rfl
@[simp] theorem State.putRow_epoch (s : State) (n : Nat) (x : Row) : (s.putRow n x).epoch = s.epoch := rfl
@[simp] theorem State.putRow_staged (s : State) (n : Nat) (x : Row) : (s.putRow n x).staged = s.staged := rfl
@[simp] theorem State.putRow_markerCount (s : State) (n : Nat) (x : Row) : (s.putRow n x).markerCount = s.markerCount := rfl
@[simp] theorem State.putRow_switchRecord (s : State) (n : Nat) (x : Row) : (s.putRow n x).switchRecord = s.switchRecord := rfl
@[simp] theorem State.putRow_links (s : State) (n : Nat) (x : Row) : (s.putRow n x).links = s.links := rfl
@[simp] theorem State.putRow_engine (s : State) (n : Nat) (x : Row) : (s.putRow n x).engine = s.engine := rfl
@[simp] theorem State.putRow_snap (s : State) (n : Nat) (x : Row) : (s.putRow n x).snap = s.snap := rfl
@[simp] theorem State.putRow_flash (s : State) (n : Nat) (x : Row) : (s.putRow n x).flash = s.flash := rfl
@[simp] theorem State.putRow_host (s : State) (n : Nat) (x : Row) : (s.putRow n x).host = s.host := rfl
@[simp] theorem State.putRow_service (s : State) (n : Nat) (x : Row) : (s.putRow n x).service = s.service := rfl
@[simp] theorem State.putRow_opState (s : State) (n : Nat) (x : Row) : (s.putRow n x).opState = s.opState := rfl
@[simp] theorem State.putRow_eventSet (s : State) (n : Nat) (x : Row) : (s.putRow n x).eventSet = s.eventSet := rfl
@[simp] theorem State.putRow_hostMask (s : State) (n : Nat) (x : Row) : (s.putRow n x).hostMask = s.hostMask := rfl
@[simp] theorem State.putRow_serviceMask (s : State) (n : Nat) (x : Row) : (s.putRow n x).serviceMask = s.serviceMask := rfl
@[simp] theorem State.putRow_params (s : State) (n : Nat) (x : Row) : (s.putRow n x).params = s.params := rfl
@[simp] theorem State.putRow_freeTick (s : State) (n : Nat) (x : Row) : (s.putRow n x).freeTick = s.freeTick := rfl
@[simp] theorem State.putRow_rows (s : State) (n : Nat) (x : Row) :
    (s.putRow n x).rows = Table.write Row.free n x s.rows := rfl

/-- A row read after a row was written. -/
@[simp] theorem State.row_putRow (s : State) (n : Nat) (x : Row) (k : Nat) :
    (s.putRow n x).row k = if k = n then x else s.row k := by
  simp [State.row]

@[simp] theorem State.copy_putRow (s : State) (n : Nat) (x : Row) (k : Nat) : (s.putRow n x).copy k = s.copy k := rfl
@[simp] theorem State.slot_putRow (s : State) (n : Nat) (x : Row) (k : Nat) : (s.putRow n x).slot k = s.slot k := rfl
@[simp] theorem State.link_putRow (s : State) (n : Nat) (x : Row) (k : Nat) : (s.putRow n x).link k = s.link k := rfl
@[simp] theorem State.port_putRow (s : State) (n : Nat) (x : Row) (p : Port) : (s.putRow n x).port p = s.port p := by
  cases p <;> rfl
@[simp] theorem State.mask_putRow (s : State) (n : Nat) (x : Row) (p : Port) : (s.putRow n x).mask p = s.mask p := by
  cases p <;> rfl

/-! ### Every field after `putCopy` -/

@[simp] theorem State.putCopy_pending (s : State) (n : Nat) (x : Copy) : (s.putCopy n x).pending = s.pending := rfl
@[simp] theorem State.putCopy_rows (s : State) (n : Nat) (x : Copy) : (s.putCopy n x).rows = s.rows := rfl
@[simp] theorem State.putCopy_spanIndex (s : State) (n : Nat) (x : Copy) : (s.putCopy n x).spanIndex = s.spanIndex := rfl
@[simp] theorem State.putCopy_freeCount (s : State) (n : Nat) (x : Copy) : (s.putCopy n x).freeCount = s.freeCount := rfl
@[simp] theorem State.putCopy_superseded (s : State) (n : Nat) (x : Copy) : (s.putCopy n x).superseded = s.superseded := rfl
@[simp] theorem State.putCopy_lowArmed (s : State) (n : Nat) (x : Copy) : (s.putCopy n x).lowArmed = s.lowArmed := rfl
@[simp] theorem State.putCopy_slots (s : State) (n : Nat) (x : Copy) : (s.putCopy n x).slots = s.slots := rfl
@[simp] theorem State.putCopy_session (s : State) (n : Nat) (x : Copy) : (s.putCopy n x).session = s.session := rfl
@[simp] theorem State.putCopy_epoch (s : State) (n : Nat) (x : Copy) : (s.putCopy n x).epoch = s.epoch := rfl
@[simp] theorem State.putCopy_staged (s : State) (n : Nat) (x : Copy) : (s.putCopy n x).staged = s.staged := rfl
@[simp] theorem State.putCopy_markerCount (s : State) (n : Nat) (x : Copy) : (s.putCopy n x).markerCount = s.markerCount := rfl
@[simp] theorem State.putCopy_switchRecord (s : State) (n : Nat) (x : Copy) : (s.putCopy n x).switchRecord = s.switchRecord := rfl
@[simp] theorem State.putCopy_links (s : State) (n : Nat) (x : Copy) : (s.putCopy n x).links = s.links := rfl
@[simp] theorem State.putCopy_engine (s : State) (n : Nat) (x : Copy) : (s.putCopy n x).engine = s.engine := rfl
@[simp] theorem State.putCopy_snap (s : State) (n : Nat) (x : Copy) : (s.putCopy n x).snap = s.snap := rfl
@[simp] theorem State.putCopy_flash (s : State) (n : Nat) (x : Copy) : (s.putCopy n x).flash = s.flash := rfl
@[simp] theorem State.putCopy_host (s : State) (n : Nat) (x : Copy) : (s.putCopy n x).host = s.host := rfl
@[simp] theorem State.putCopy_service (s : State) (n : Nat) (x : Copy) : (s.putCopy n x).service = s.service := rfl
@[simp] theorem State.putCopy_opState (s : State) (n : Nat) (x : Copy) : (s.putCopy n x).opState = s.opState := rfl
@[simp] theorem State.putCopy_eventSet (s : State) (n : Nat) (x : Copy) : (s.putCopy n x).eventSet = s.eventSet := rfl
@[simp] theorem State.putCopy_hostMask (s : State) (n : Nat) (x : Copy) : (s.putCopy n x).hostMask = s.hostMask := rfl
@[simp] theorem State.putCopy_serviceMask (s : State) (n : Nat) (x : Copy) : (s.putCopy n x).serviceMask = s.serviceMask := rfl
@[simp] theorem State.putCopy_params (s : State) (n : Nat) (x : Copy) : (s.putCopy n x).params = s.params := rfl
@[simp] theorem State.putCopy_freeTick (s : State) (n : Nat) (x : Copy) : (s.putCopy n x).freeTick = s.freeTick := rfl
@[simp] theorem State.putCopy_copies (s : State) (n : Nat) (x : Copy) :
    (s.putCopy n x).copies = Table.write Copy.free n x s.copies := rfl
@[simp] theorem State.row_putCopy (s : State) (n : Nat) (x : Copy) (k : Nat) : (s.putCopy n x).row k = s.row k := rfl

/-- A copy read after a copy was written. -/
@[simp] theorem State.copy_putCopy (s : State) (n : Nat) (x : Copy) (k : Nat) :
    (s.putCopy n x).copy k = if k = n then x else s.copy k := by
  simp [State.copy]

@[simp] theorem State.slot_putCopy (s : State) (n : Nat) (x : Copy) (k : Nat) : (s.putCopy n x).slot k = s.slot k := rfl
@[simp] theorem State.link_putCopy (s : State) (n : Nat) (x : Copy) (k : Nat) : (s.putCopy n x).link k = s.link k := rfl
@[simp] theorem State.port_putCopy (s : State) (n : Nat) (x : Copy) (p : Port) : (s.putCopy n x).port p = s.port p := by
  cases p <;> rfl
@[simp] theorem State.mask_putCopy (s : State) (n : Nat) (x : Copy) (p : Port) : (s.putCopy n x).mask p = s.mask p := by
  cases p <;> rfl

/-! ### Every field after `putSlot` -/

@[simp] theorem State.putSlot_pending (s : State) (n : Nat) (x : Slot) : (s.putSlot n x).pending = s.pending := rfl
@[simp] theorem State.putSlot_rows (s : State) (n : Nat) (x : Slot) : (s.putSlot n x).rows = s.rows := rfl
@[simp] theorem State.putSlot_spanIndex (s : State) (n : Nat) (x : Slot) : (s.putSlot n x).spanIndex = s.spanIndex := rfl
@[simp] theorem State.putSlot_copies (s : State) (n : Nat) (x : Slot) : (s.putSlot n x).copies = s.copies := rfl
@[simp] theorem State.putSlot_freeCount (s : State) (n : Nat) (x : Slot) : (s.putSlot n x).freeCount = s.freeCount := rfl
@[simp] theorem State.putSlot_superseded (s : State) (n : Nat) (x : Slot) : (s.putSlot n x).superseded = s.superseded := rfl
@[simp] theorem State.putSlot_lowArmed (s : State) (n : Nat) (x : Slot) : (s.putSlot n x).lowArmed = s.lowArmed := rfl
@[simp] theorem State.putSlot_session (s : State) (n : Nat) (x : Slot) : (s.putSlot n x).session = s.session := rfl
@[simp] theorem State.putSlot_epoch (s : State) (n : Nat) (x : Slot) : (s.putSlot n x).epoch = s.epoch := rfl
@[simp] theorem State.putSlot_staged (s : State) (n : Nat) (x : Slot) : (s.putSlot n x).staged = s.staged := rfl
@[simp] theorem State.putSlot_markerCount (s : State) (n : Nat) (x : Slot) : (s.putSlot n x).markerCount = s.markerCount := rfl
@[simp] theorem State.putSlot_switchRecord (s : State) (n : Nat) (x : Slot) : (s.putSlot n x).switchRecord = s.switchRecord := rfl
@[simp] theorem State.putSlot_links (s : State) (n : Nat) (x : Slot) : (s.putSlot n x).links = s.links := rfl
@[simp] theorem State.putSlot_engine (s : State) (n : Nat) (x : Slot) : (s.putSlot n x).engine = s.engine := rfl
@[simp] theorem State.putSlot_snap (s : State) (n : Nat) (x : Slot) : (s.putSlot n x).snap = s.snap := rfl
@[simp] theorem State.putSlot_flash (s : State) (n : Nat) (x : Slot) : (s.putSlot n x).flash = s.flash := rfl
@[simp] theorem State.putSlot_host (s : State) (n : Nat) (x : Slot) : (s.putSlot n x).host = s.host := rfl
@[simp] theorem State.putSlot_service (s : State) (n : Nat) (x : Slot) : (s.putSlot n x).service = s.service := rfl
@[simp] theorem State.putSlot_opState (s : State) (n : Nat) (x : Slot) : (s.putSlot n x).opState = s.opState := rfl
@[simp] theorem State.putSlot_eventSet (s : State) (n : Nat) (x : Slot) : (s.putSlot n x).eventSet = s.eventSet := rfl
@[simp] theorem State.putSlot_hostMask (s : State) (n : Nat) (x : Slot) : (s.putSlot n x).hostMask = s.hostMask := rfl
@[simp] theorem State.putSlot_serviceMask (s : State) (n : Nat) (x : Slot) : (s.putSlot n x).serviceMask = s.serviceMask := rfl
@[simp] theorem State.putSlot_params (s : State) (n : Nat) (x : Slot) : (s.putSlot n x).params = s.params := rfl
@[simp] theorem State.putSlot_freeTick (s : State) (n : Nat) (x : Slot) : (s.putSlot n x).freeTick = s.freeTick := rfl
@[simp] theorem State.putSlot_slots (s : State) (n : Nat) (x : Slot) :
    (s.putSlot n x).slots = Table.write Slot.free n x s.slots := rfl
@[simp] theorem State.row_putSlot (s : State) (n : Nat) (x : Slot) (k : Nat) : (s.putSlot n x).row k = s.row k := rfl
@[simp] theorem State.copy_putSlot (s : State) (n : Nat) (x : Slot) (k : Nat) : (s.putSlot n x).copy k = s.copy k := rfl

/-- A slot read after a slot was written. -/
@[simp] theorem State.slot_putSlot (s : State) (n : Nat) (x : Slot) (k : Nat) :
    (s.putSlot n x).slot k = if k = n then x else s.slot k := by
  simp [State.slot]

@[simp] theorem State.link_putSlot (s : State) (n : Nat) (x : Slot) (k : Nat) : (s.putSlot n x).link k = s.link k := rfl
@[simp] theorem State.port_putSlot (s : State) (n : Nat) (x : Slot) (p : Port) : (s.putSlot n x).port p = s.port p := by
  cases p <;> rfl
@[simp] theorem State.mask_putSlot (s : State) (n : Nat) (x : Slot) (p : Port) : (s.putSlot n x).mask p = s.mask p := by
  cases p <;> rfl

/-! ### Every field after `putLink` -/

@[simp] theorem State.putLink_pending (s : State) (n : Nat) (x : Link) : (s.putLink n x).pending = s.pending := rfl
@[simp] theorem State.putLink_rows (s : State) (n : Nat) (x : Link) : (s.putLink n x).rows = s.rows := rfl
@[simp] theorem State.putLink_spanIndex (s : State) (n : Nat) (x : Link) : (s.putLink n x).spanIndex = s.spanIndex := rfl
@[simp] theorem State.putLink_copies (s : State) (n : Nat) (x : Link) : (s.putLink n x).copies = s.copies := rfl
@[simp] theorem State.putLink_freeCount (s : State) (n : Nat) (x : Link) : (s.putLink n x).freeCount = s.freeCount := rfl
@[simp] theorem State.putLink_superseded (s : State) (n : Nat) (x : Link) : (s.putLink n x).superseded = s.superseded := rfl
@[simp] theorem State.putLink_lowArmed (s : State) (n : Nat) (x : Link) : (s.putLink n x).lowArmed = s.lowArmed := rfl
@[simp] theorem State.putLink_slots (s : State) (n : Nat) (x : Link) : (s.putLink n x).slots = s.slots := rfl
@[simp] theorem State.putLink_session (s : State) (n : Nat) (x : Link) : (s.putLink n x).session = s.session := rfl
@[simp] theorem State.putLink_epoch (s : State) (n : Nat) (x : Link) : (s.putLink n x).epoch = s.epoch := rfl
@[simp] theorem State.putLink_staged (s : State) (n : Nat) (x : Link) : (s.putLink n x).staged = s.staged := rfl
@[simp] theorem State.putLink_markerCount (s : State) (n : Nat) (x : Link) : (s.putLink n x).markerCount = s.markerCount := rfl
@[simp] theorem State.putLink_switchRecord (s : State) (n : Nat) (x : Link) : (s.putLink n x).switchRecord = s.switchRecord := rfl
@[simp] theorem State.putLink_engine (s : State) (n : Nat) (x : Link) : (s.putLink n x).engine = s.engine := rfl
@[simp] theorem State.putLink_snap (s : State) (n : Nat) (x : Link) : (s.putLink n x).snap = s.snap := rfl
@[simp] theorem State.putLink_flash (s : State) (n : Nat) (x : Link) : (s.putLink n x).flash = s.flash := rfl
@[simp] theorem State.putLink_host (s : State) (n : Nat) (x : Link) : (s.putLink n x).host = s.host := rfl
@[simp] theorem State.putLink_service (s : State) (n : Nat) (x : Link) : (s.putLink n x).service = s.service := rfl
@[simp] theorem State.putLink_opState (s : State) (n : Nat) (x : Link) : (s.putLink n x).opState = s.opState := rfl
@[simp] theorem State.putLink_eventSet (s : State) (n : Nat) (x : Link) : (s.putLink n x).eventSet = s.eventSet := rfl
@[simp] theorem State.putLink_hostMask (s : State) (n : Nat) (x : Link) : (s.putLink n x).hostMask = s.hostMask := rfl
@[simp] theorem State.putLink_serviceMask (s : State) (n : Nat) (x : Link) : (s.putLink n x).serviceMask = s.serviceMask := rfl
@[simp] theorem State.putLink_params (s : State) (n : Nat) (x : Link) : (s.putLink n x).params = s.params := rfl
@[simp] theorem State.putLink_freeTick (s : State) (n : Nat) (x : Link) : (s.putLink n x).freeTick = s.freeTick := rfl
@[simp] theorem State.putLink_links (s : State) (n : Nat) (x : Link) :
    (s.putLink n x).links = Table.write Link.reset n x s.links := rfl
@[simp] theorem State.row_putLink (s : State) (n : Nat) (x : Link) (k : Nat) : (s.putLink n x).row k = s.row k := rfl
@[simp] theorem State.copy_putLink (s : State) (n : Nat) (x : Link) (k : Nat) : (s.putLink n x).copy k = s.copy k := rfl
@[simp] theorem State.slot_putLink (s : State) (n : Nat) (x : Link) (k : Nat) : (s.putLink n x).slot k = s.slot k := rfl

/-- A link read after a link was written. -/
@[simp] theorem State.link_putLink (s : State) (n : Nat) (x : Link) (k : Nat) :
    (s.putLink n x).link k = if k = n then x else s.link k := by
  simp [State.link]

@[simp] theorem State.port_putLink (s : State) (n : Nat) (x : Link) (p : Port) : (s.putLink n x).port p = s.port p := by
  cases p <;> rfl
@[simp] theorem State.mask_putLink (s : State) (n : Nat) (x : Link) (p : Port) : (s.putLink n x).mask p = s.mask p := by
  cases p <;> rfl

/-! ### Every field after `putPort` -/

@[simp] theorem State.putPort_pending (s : State) (p : Port) (x : PortState) : (s.putPort p x).pending = s.pending := by cases p <;> rfl
@[simp] theorem State.putPort_rows (s : State) (p : Port) (x : PortState) : (s.putPort p x).rows = s.rows := by cases p <;> rfl
@[simp] theorem State.putPort_spanIndex (s : State) (p : Port) (x : PortState) : (s.putPort p x).spanIndex = s.spanIndex := by cases p <;> rfl
@[simp] theorem State.putPort_copies (s : State) (p : Port) (x : PortState) : (s.putPort p x).copies = s.copies := by cases p <;> rfl
@[simp] theorem State.putPort_freeCount (s : State) (p : Port) (x : PortState) : (s.putPort p x).freeCount = s.freeCount := by cases p <;> rfl
@[simp] theorem State.putPort_superseded (s : State) (p : Port) (x : PortState) : (s.putPort p x).superseded = s.superseded := by cases p <;> rfl
@[simp] theorem State.putPort_lowArmed (s : State) (p : Port) (x : PortState) : (s.putPort p x).lowArmed = s.lowArmed := by cases p <;> rfl
@[simp] theorem State.putPort_slots (s : State) (p : Port) (x : PortState) : (s.putPort p x).slots = s.slots := by cases p <;> rfl
@[simp] theorem State.putPort_session (s : State) (p : Port) (x : PortState) : (s.putPort p x).session = s.session := by cases p <;> rfl
@[simp] theorem State.putPort_epoch (s : State) (p : Port) (x : PortState) : (s.putPort p x).epoch = s.epoch := by cases p <;> rfl
@[simp] theorem State.putPort_staged (s : State) (p : Port) (x : PortState) : (s.putPort p x).staged = s.staged := by cases p <;> rfl
@[simp] theorem State.putPort_markerCount (s : State) (p : Port) (x : PortState) : (s.putPort p x).markerCount = s.markerCount := by cases p <;> rfl
@[simp] theorem State.putPort_switchRecord (s : State) (p : Port) (x : PortState) : (s.putPort p x).switchRecord = s.switchRecord := by cases p <;> rfl
@[simp] theorem State.putPort_links (s : State) (p : Port) (x : PortState) : (s.putPort p x).links = s.links := by cases p <;> rfl
@[simp] theorem State.putPort_engine (s : State) (p : Port) (x : PortState) : (s.putPort p x).engine = s.engine := by cases p <;> rfl
@[simp] theorem State.putPort_snap (s : State) (p : Port) (x : PortState) : (s.putPort p x).snap = s.snap := by cases p <;> rfl
@[simp] theorem State.putPort_flash (s : State) (p : Port) (x : PortState) : (s.putPort p x).flash = s.flash := by cases p <;> rfl
@[simp] theorem State.putPort_opState (s : State) (p : Port) (x : PortState) : (s.putPort p x).opState = s.opState := by cases p <;> rfl
@[simp] theorem State.putPort_eventSet (s : State) (p : Port) (x : PortState) : (s.putPort p x).eventSet = s.eventSet := by cases p <;> rfl
@[simp] theorem State.putPort_hostMask (s : State) (p : Port) (x : PortState) : (s.putPort p x).hostMask = s.hostMask := by cases p <;> rfl
@[simp] theorem State.putPort_serviceMask (s : State) (p : Port) (x : PortState) : (s.putPort p x).serviceMask = s.serviceMask := by cases p <;> rfl
@[simp] theorem State.putPort_params (s : State) (p : Port) (x : PortState) : (s.putPort p x).params = s.params := by cases p <;> rfl
@[simp] theorem State.putPort_freeTick (s : State) (p : Port) (x : PortState) : (s.putPort p x).freeTick = s.freeTick := by cases p <;> rfl
@[simp] theorem State.row_putPort (s : State) (p : Port) (x : PortState) (k : Nat) : (s.putPort p x).row k = s.row k := by
  cases p <;> rfl
@[simp] theorem State.copy_putPort (s : State) (p : Port) (x : PortState) (k : Nat) : (s.putPort p x).copy k = s.copy k := by
  cases p <;> rfl
@[simp] theorem State.slot_putPort (s : State) (p : Port) (x : PortState) (k : Nat) : (s.putPort p x).slot k = s.slot k := by
  cases p <;> rfl
@[simp] theorem State.link_putPort (s : State) (p : Port) (x : PortState) (k : Nat) : (s.putPort p x).link k = s.link k := by
  cases p <;> rfl

/-- A port read after a port was written. -/
@[simp] theorem State.port_putPort (s : State) (p : Port) (x : PortState) (q : Port) :
    (s.putPort p x).port q = if q = p then x else s.port q := by
  cases p <;> cases q <;> rfl

@[simp] theorem State.mask_putPort (s : State) (p : Port) (x : PortState) (q : Port) : (s.putPort p x).mask q = s.mask q := by
  cases p <;> cases q <;> rfl

/-! ### Every field after `putMask` -/

@[simp] theorem State.putMask_pending (s : State) (p : Port) (x : BitVec 12) : (s.putMask p x).pending = s.pending := by cases p <;> rfl
@[simp] theorem State.putMask_rows (s : State) (p : Port) (x : BitVec 12) : (s.putMask p x).rows = s.rows := by cases p <;> rfl
@[simp] theorem State.putMask_spanIndex (s : State) (p : Port) (x : BitVec 12) : (s.putMask p x).spanIndex = s.spanIndex := by cases p <;> rfl
@[simp] theorem State.putMask_copies (s : State) (p : Port) (x : BitVec 12) : (s.putMask p x).copies = s.copies := by cases p <;> rfl
@[simp] theorem State.putMask_freeCount (s : State) (p : Port) (x : BitVec 12) : (s.putMask p x).freeCount = s.freeCount := by cases p <;> rfl
@[simp] theorem State.putMask_superseded (s : State) (p : Port) (x : BitVec 12) : (s.putMask p x).superseded = s.superseded := by cases p <;> rfl
@[simp] theorem State.putMask_lowArmed (s : State) (p : Port) (x : BitVec 12) : (s.putMask p x).lowArmed = s.lowArmed := by cases p <;> rfl
@[simp] theorem State.putMask_slots (s : State) (p : Port) (x : BitVec 12) : (s.putMask p x).slots = s.slots := by cases p <;> rfl
@[simp] theorem State.putMask_session (s : State) (p : Port) (x : BitVec 12) : (s.putMask p x).session = s.session := by cases p <;> rfl
@[simp] theorem State.putMask_epoch (s : State) (p : Port) (x : BitVec 12) : (s.putMask p x).epoch = s.epoch := by cases p <;> rfl
@[simp] theorem State.putMask_staged (s : State) (p : Port) (x : BitVec 12) : (s.putMask p x).staged = s.staged := by cases p <;> rfl
@[simp] theorem State.putMask_markerCount (s : State) (p : Port) (x : BitVec 12) : (s.putMask p x).markerCount = s.markerCount := by cases p <;> rfl
@[simp] theorem State.putMask_switchRecord (s : State) (p : Port) (x : BitVec 12) : (s.putMask p x).switchRecord = s.switchRecord := by cases p <;> rfl
@[simp] theorem State.putMask_links (s : State) (p : Port) (x : BitVec 12) : (s.putMask p x).links = s.links := by cases p <;> rfl
@[simp] theorem State.putMask_engine (s : State) (p : Port) (x : BitVec 12) : (s.putMask p x).engine = s.engine := by cases p <;> rfl
@[simp] theorem State.putMask_snap (s : State) (p : Port) (x : BitVec 12) : (s.putMask p x).snap = s.snap := by cases p <;> rfl
@[simp] theorem State.putMask_flash (s : State) (p : Port) (x : BitVec 12) : (s.putMask p x).flash = s.flash := by cases p <;> rfl
@[simp] theorem State.putMask_host (s : State) (p : Port) (x : BitVec 12) : (s.putMask p x).host = s.host := by cases p <;> rfl
@[simp] theorem State.putMask_service (s : State) (p : Port) (x : BitVec 12) : (s.putMask p x).service = s.service := by cases p <;> rfl
@[simp] theorem State.putMask_opState (s : State) (p : Port) (x : BitVec 12) : (s.putMask p x).opState = s.opState := by cases p <;> rfl
@[simp] theorem State.putMask_eventSet (s : State) (p : Port) (x : BitVec 12) : (s.putMask p x).eventSet = s.eventSet := by cases p <;> rfl
@[simp] theorem State.putMask_params (s : State) (p : Port) (x : BitVec 12) : (s.putMask p x).params = s.params := by cases p <;> rfl
@[simp] theorem State.putMask_freeTick (s : State) (p : Port) (x : BitVec 12) : (s.putMask p x).freeTick = s.freeTick := by cases p <;> rfl
@[simp] theorem State.row_putMask (s : State) (p : Port) (x : BitVec 12) (k : Nat) : (s.putMask p x).row k = s.row k := by
  cases p <;> rfl
@[simp] theorem State.copy_putMask (s : State) (p : Port) (x : BitVec 12) (k : Nat) : (s.putMask p x).copy k = s.copy k := by
  cases p <;> rfl
@[simp] theorem State.slot_putMask (s : State) (p : Port) (x : BitVec 12) (k : Nat) : (s.putMask p x).slot k = s.slot k := by
  cases p <;> rfl
@[simp] theorem State.link_putMask (s : State) (p : Port) (x : BitVec 12) (k : Nat) : (s.putMask p x).link k = s.link k := by
  cases p <;> rfl

/-- A mask read after a mask was written. -/
@[simp] theorem State.mask_putMask (s : State) (p : Port) (x : BitVec 12) (q : Port) :
    (s.putMask p x).mask q = if q = p then x else s.mask q := by
  cases p <;> cases q <;> rfl

@[simp] theorem State.port_putMask (s : State) (p : Port) (x : BitVec 12) (q : Port) : (s.putMask p x).port q = s.port q := by
  cases p <;> cases q <;> rfl

/-! ### Writing back and writing twice -/

/-- A port written with what it holds: nothing changes. -/
@[simp] theorem State.putPort_port (s : State) (p : Port) : s.putPort p (s.port p) = s := by cases p <;> rfl

/-- Of two writes of one port the second stands. -/
@[simp] theorem State.putPort_putPort (s : State) (p : Port) (x y : PortState) :
    (s.putPort p x).putPort p y = s.putPort p y := by cases p <;> rfl

/-! ### Events raised -/

@[simp] theorem State.raise_eventSet (s : State) (o : Occurrence) :
    (s.raise o).eventSet = { s.eventSet.withDetail o with set := s.eventSet.set ||| o.bit } := rfl
@[simp] theorem State.raise_pending (s : State) (o : Occurrence) : (s.raise o).pending = s.pending := rfl
@[simp] theorem State.raise_rows (s : State) (o : Occurrence) : (s.raise o).rows = s.rows := rfl
@[simp] theorem State.raise_spanIndex (s : State) (o : Occurrence) : (s.raise o).spanIndex = s.spanIndex := rfl
@[simp] theorem State.raise_copies (s : State) (o : Occurrence) : (s.raise o).copies = s.copies := rfl
@[simp] theorem State.raise_freeCount (s : State) (o : Occurrence) : (s.raise o).freeCount = s.freeCount := rfl
@[simp] theorem State.raise_superseded (s : State) (o : Occurrence) : (s.raise o).superseded = s.superseded := rfl
@[simp] theorem State.raise_lowArmed (s : State) (o : Occurrence) : (s.raise o).lowArmed = s.lowArmed := rfl
@[simp] theorem State.raise_slots (s : State) (o : Occurrence) : (s.raise o).slots = s.slots := rfl
@[simp] theorem State.raise_session (s : State) (o : Occurrence) : (s.raise o).session = s.session := rfl
@[simp] theorem State.raise_epoch (s : State) (o : Occurrence) : (s.raise o).epoch = s.epoch := rfl
@[simp] theorem State.raise_staged (s : State) (o : Occurrence) : (s.raise o).staged = s.staged := rfl
@[simp] theorem State.raise_markerCount (s : State) (o : Occurrence) : (s.raise o).markerCount = s.markerCount := rfl
@[simp] theorem State.raise_switchRecord (s : State) (o : Occurrence) : (s.raise o).switchRecord = s.switchRecord := rfl
@[simp] theorem State.raise_links (s : State) (o : Occurrence) : (s.raise o).links = s.links := rfl
@[simp] theorem State.raise_engine (s : State) (o : Occurrence) : (s.raise o).engine = s.engine := rfl
@[simp] theorem State.raise_snap (s : State) (o : Occurrence) : (s.raise o).snap = s.snap := rfl
@[simp] theorem State.raise_flash (s : State) (o : Occurrence) : (s.raise o).flash = s.flash := rfl
@[simp] theorem State.raise_host (s : State) (o : Occurrence) : (s.raise o).host = s.host := rfl
@[simp] theorem State.raise_service (s : State) (o : Occurrence) : (s.raise o).service = s.service := rfl
@[simp] theorem State.raise_opState (s : State) (o : Occurrence) : (s.raise o).opState = s.opState := rfl
@[simp] theorem State.raise_hostMask (s : State) (o : Occurrence) : (s.raise o).hostMask = s.hostMask := rfl
@[simp] theorem State.raise_serviceMask (s : State) (o : Occurrence) : (s.raise o).serviceMask = s.serviceMask := rfl
@[simp] theorem State.raise_params (s : State) (o : Occurrence) : (s.raise o).params = s.params := rfl
@[simp] theorem State.raise_freeTick (s : State) (o : Occurrence) : (s.raise o).freeTick = s.freeTick := rfl
@[simp] theorem State.row_raise (s : State) (o : Occurrence) (k : Nat) : (s.raise o).row k = s.row k := rfl
@[simp] theorem State.copy_raise (s : State) (o : Occurrence) (k : Nat) : (s.raise o).copy k = s.copy k := rfl
@[simp] theorem State.slot_raise (s : State) (o : Occurrence) (k : Nat) : (s.raise o).slot k = s.slot k := rfl
@[simp] theorem State.link_raise (s : State) (o : Occurrence) (k : Nat) : (s.raise o).link k = s.link k := rfl
@[simp] theorem State.port_raise (s : State) (o : Occurrence) (p : Port) : (s.raise o).port p = s.port p := by cases p <;> rfl
@[simp] theorem State.mask_raise (s : State) (o : Occurrence) (p : Port) : (s.raise o).mask p = s.mask p := by cases p <;> rfl

@[simp] theorem mem_allLinks (n : LinkId) : (n : Nat) ∈ allLinks := by
  revert n; decide

end Sys2Proof.Machine
end

