-- ==== Sys2Proof/Laws/Frames.lean ====
section
/-! SUPPORT. What the shared operations leave alone, said once for each: an operation that works on the stores, the links, the
engine's pointer and the event set only is `StoresOnly`. -/

namespace Sys2Proof.Machine

/-- From `s` to `t` nothing changed but the directory, the copy pool, the profile table, the link controllers, the engine's
pointer and the event set. -/
structure StoresOnly (s t : State) : Prop where
  pending : t.pending = s.pending
  session : t.session = s.session
  epoch : t.epoch = s.epoch
  staged : t.staged = s.staged
  markerCount : t.markerCount = s.markerCount
  switchRecord : t.switchRecord = s.switchRecord
  snap : t.snap = s.snap
  flash : t.flash = s.flash
  host : t.host = s.host
  service : t.service = s.service
  opState : t.opState = s.opState
  hostMask : t.hostMask = s.hostMask
  serviceMask : t.serviceMask = s.serviceMask
  params : t.params = s.params
  freeTick : t.freeTick = s.freeTick

namespace StoresOnly

variable {s t u : State}

theorem refl (s : State) : StoresOnly s s := ⟨rfl, rfl, rfl, rfl, rfl, rfl, rfl, rfl, rfl, rfl, rfl, rfl, rfl, rfl, rfl⟩

theorem trans (h : StoresOnly s t) (k : StoresOnly t u) : StoresOnly s u :=
  ⟨k.pending.trans h.pending, k.session.trans h.session, k.epoch.trans h.epoch, k.staged.trans h.staged,
    k.markerCount.trans h.markerCount, k.switchRecord.trans h.switchRecord, k.snap.trans h.snap, k.flash.trans h.flash,
    k.host.trans h.host, k.service.trans h.service, k.opState.trans h.opState, k.hostMask.trans h.hostMask,
    k.serviceMask.trans h.serviceMask, k.params.trans h.params, k.freeTick.trans h.freeTick⟩

/-- The ports are as they were. -/
theorem port (h : StoresOnly s t) (p : Port) : t.port p = s.port p := by
  cases p
  · exact h.host
  · exact h.service

theorem ite {c : Prop} [Decidable c] {a b : State} (ha : StoresOnly s a) (hb : StoresOnly s b) :
    StoresOnly s (if c then a else b) := by
  split <;> assumption

/-! ### The plain updates -/

theorem row (s : State) (r : Nat) (x : Row) : StoresOnly s (s.putRow r x) :=
  ⟨rfl, rfl, rfl, rfl, rfl, rfl, rfl, rfl, rfl, rfl, rfl, rfl, rfl, rfl, rfl⟩

theorem copy (s : State) (c : Nat) (x : Copy) : StoresOnly s (s.putCopy c x) :=
  ⟨rfl, rfl, rfl, rfl, rfl, rfl, rfl, rfl, rfl, rfl, rfl, rfl, rfl, rfl, rfl⟩

theorem slot (s : State) (k : Nat) (x : Slot) : StoresOnly s (s.putSlot k x) :=
  ⟨rfl, rfl, rfl, rfl, rfl, rfl, rfl, rfl, rfl, rfl, rfl, rfl, rfl, rfl, rfl⟩

theorem link (s : State) (n : Nat) (x : Link) : StoresOnly s (s.putLink n x) :=
  ⟨rfl, rfl, rfl, rfl, rfl, rfl, rfl, rfl, rfl, rfl, rfl, rfl, rfl, rfl, rfl⟩

theorem setRows (s : State) (x : Table Row) : StoresOnly s (s.setRows x) :=
  ⟨rfl, rfl, rfl, rfl, rfl, rfl, rfl, rfl, rfl, rfl, rfl, rfl, rfl, rfl, rfl⟩

theorem setSpanIndex (s : State) (x : List IndexItem) : StoresOnly s (s.setSpanIndex x) :=
  ⟨rfl, rfl, rfl, rfl, rfl, rfl, rfl, rfl, rfl, rfl, rfl, rfl, rfl, rfl, rfl⟩

theorem setCopies (s : State) (x : Table Copy) : StoresOnly s (s.setCopies x) :=
  ⟨rfl, rfl, rfl, rfl, rfl, rfl, rfl, rfl, rfl, rfl, rfl, rfl, rfl, rfl, rfl⟩

theorem setSlots (s : State) (x : Table Slot) : StoresOnly s (s.setSlots x) :=
  ⟨rfl, rfl, rfl, rfl, rfl, rfl, rfl, rfl, rfl, rfl, rfl, rfl, rfl, rfl, rfl⟩

theorem setFreeCount (s : State) (x : Nat) : StoresOnly s (s.setFreeCount x) :=
  ⟨rfl, rfl, rfl, rfl, rfl, rfl, rfl, rfl, rfl, rfl, rfl, rfl, rfl, rfl, rfl⟩

theorem setSuperseded (s : State) (x : List Nat) : StoresOnly s (s.setSuperseded x) :=
  ⟨rfl, rfl, rfl, rfl, rfl, rfl, rfl, rfl, rfl, rfl, rfl, rfl, rfl, rfl, rfl⟩

theorem setLowArmed (s : State) (x : Bool) : StoresOnly s (s.setLowArmed x) :=
  ⟨rfl, rfl, rfl, rfl, rfl, rfl, rfl, rfl, rfl, rfl, rfl, rfl, rfl, rfl, rfl⟩

theorem setEngine (s : State) (x : Nat) : StoresOnly s (s.setEngine x) :=
  ⟨rfl, rfl, rfl, rfl, rfl, rfl, rfl, rfl, rfl, rfl, rfl, rfl, rfl, rfl, rfl⟩

theorem raise (s : State) (o : Occurrence) : StoresOnly s (s.raise o) :=
  ⟨rfl, rfl, rfl, rfl, rfl, rfl, rfl, rfl, rfl, rfl, rfl, rfl, rfl, rfl, rfl⟩

/-! ### Repetition -/

theorem forEach {f : Nat → State → State} (hf : ∀ n s, StoresOnly s (f n s)) (l : List Nat) (s : State) :
    StoresOnly s (State.forEach f l s) := by
  induction l generalizing s with
  | nil => exact refl s
  | cons n ns ih => exact (hf n s).trans (ih _)

theorem foldl {β : Type} {f : State → β → State} (hf : ∀ s x, StoresOnly s (f s x)) (l : List β) (s : State) :
    StoresOnly s (l.foldl f s) := by
  induction l generalizing s with
  | nil => exact refl s
  | cons x xs ih => exact (hf s x).trans (ih _)

/-! ### Directory, pool, profiles -/

theorem watchFalls (n : Nat) (s : State) : StoresOnly s (s.watchFalls n) := link s n _

theorem emptyWatchSet (r : Nat) (s : State) : StoresOnly s (s.emptyWatchSet r) :=
  (row s r _).trans (forEach watchFalls _ _)

theorem freeRow (r : Nat) (s : State) : StoresOnly s (s.freeRow r) :=
  ((emptyWatchSet r s).trans (row _ r _)).trans (setSpanIndex _ _)

theorem claimRow (r : Nat) (sp : Span) (x : Row) (s : State) : StoresOnly s (s.claimRow r sp x) :=
  (row s r x).trans (setSpanIndex _ _)

theorem reapRow (r : Nat) (s : State) : StoresOnly s (s.reapRow r) := ite (freeRow r s) (refl s)

theorem leaveWatchSets (n : Nat) (s : State) : StoresOnly s (s.leaveWatchSets n) := setRows s _

theorem addRef (k : Option Nat) (s : State) : StoresOnly s (s.addRef k) := by
  cases k with
  | none => exact refl s
  | some k => exact slot s k _

theorem dropRef (k : Option Nat) (s : State) : StoresOnly s (s.dropRef k) := by
  cases k with
  | none => exact refl s
  | some k => exact slot s k _

theorem checkLow (s : State) : StoresOnly s s.checkLow := ite ((setLowArmed s _).trans (raise _ _)) (refl s)

theorem checkArm (s : State) : StoresOnly s s.checkArm := ite (setLowArmed s _) (refl s)

theorem allocCopy (c : Nat) (x : Copy) (s : State) : StoresOnly s (s.allocCopy c x) :=
  (((copy s c x).trans (addRef _ _)).trans (setFreeCount _ _)).trans (checkLow _)

theorem freeCopy (c : Nat) (s : State) : StoresOnly s (s.freeCopy c) :=
  ((((copy s c _).trans (dropRef _ _)).trans (setSuperseded _ _)).trans (setFreeCount _ _)).trans (checkArm _)

theorem settleCopy (c : Nat) (s : State) : StoresOnly s (s.settleCopy c) := by
  unfold State.settleCopy
  split
  · split
    · exact freeCopy c s
    · exact (freeCopy c s).trans (reapRow _ _)
  · exact refl s

theorem addFetchPin (c : Nat) (s : State) : StoresOnly s (s.addFetchPin c) := copy s c _

theorem dropFetchPin (c : Nat) (s : State) : StoresOnly s (s.dropFetchPin c) := (copy s c _).trans (settleCopy c _)

theorem setSnapPin (c : Nat) (s : State) : StoresOnly s (s.setSnapPin c) := copy s c _

theorem clearSnapPin (c : Nat) (s : State) : StoresOnly s (s.clearSnapPin c) :=
  ite ((copy s c _).trans (settleCopy c _)) (refl s)

theorem addReader (k : Nat) (s : State) : StoresOnly s (s.addReader k) := slot s k _

theorem dropReader (k : Nat) (s : State) : StoresOnly s (s.dropReader k) := slot s k _

theorem emptyStores (s : State) : StoresOnly s s.emptyStores := by
  unfold State.emptyStores
  exact (((((((setRows s _).trans (setSpanIndex _ _)).trans (setCopies _ _)).trans (setSuperseded _ _)).trans
    (setSlots _ _)).trans (setFreeCount _ _))).trans (checkArm _)

/-! ### Links -/

theorem kick (n : Nat) (s : State) : StoresOnly s (s.kick n) := by
  unfold State.kick
  split
  · split
    · exact link s n _
    · exact refl s
  · exact refl s

theorem kickAll (s : State) : StoresOnly s s.kickAll := forEach kick _ _

theorem frameEnds (n : Nat) (s : State) : StoresOnly s (s.frameEnds n) := (link s n _).trans (kick n _)

theorem releaseRequest (q : Request) (s : State) : StoresOnly s (s.releaseRequest q) := by
  unfold State.releaseRequest
  have h : StoresOnly s (match q.boundCopy with | some c => s.dropFetchPin c | none => s) := by
    split
    · exact dropFetchPin _ s
    · exact refl s
  dsimp only
  split
  · exact h.trans (dropReader _ _)
  · exact h

theorem releaseRequests (l : List Request) (s : State) : StoresOnly s (State.releaseRequests l s) := by
  induction l generalizing s with
  | nil => exact refl s
  | cons q qs ih => exact (releaseRequest q s).trans (ih _)

theorem resetLink (n : Nat) (s : State) : StoresOnly s (s.resetLink n) :=
  ((leaveWatchSets n s).trans (releaseRequests _ _)).trans (link _ n _)

theorem resetLinkDown (n : Nat) (s : State) : StoresOnly s (s.resetLinkDown n) :=
  ite (resetLink n s) ((resetLink n s).trans (raise _ _))

theorem moveTo (rx : Receiver) (n : Nat) (s : State) : StoresOnly s (s.moveTo rx n) := link s n _

theorem badFrame (e : FrameError) (rx : Receiver) (n : Nat) (s : State) : StoresOnly s (s.badFrame e rx n) :=
  ite ((link s n _).trans (resetLinkDown n _)) (link s n _)

theorem answerHello (n : Nat) (tag : Tag) (level : Nat) (s : State) : StoresOnly s (s.answerHello n tag level) :=
  ite ((link s n _).trans (raise _ _)) (link s n _)

theorem takeHello (n : Nat) (tag : Tag) (level : Nat) (s : State) : StoresOnly s (s.takeHello n tag level) :=
  ite (answerHello n tag level s) (ite ((resetLink n s).trans (answerHello n tag level _))
    (((resetLink n s).trans (raise _ _)).trans (answerHello n tag level _)))

theorem goodFrame (n : Nat) (tag : Tag) (f : BoardFrame) (s : State) : StoresOnly s (s.goodFrame n tag f) := by
  refine StoresOnly.trans ?_ (kick n _)
  cases f with
  | hello level => exact (link s n _).trans (takeHello n tag level _)
  | ask a => exact (link s n _).trans (link _ n _)
  | ackNotice r e => exact (link s n _).trans (link _ n _)
  | ackResync k => exact (link s n _).trans (link _ n _)

theorem receiveFrame (n : Nat) (tag : Tag) (f : BoardFrame) (s : State) : StoresOnly s (s.receiveFrame n tag f) :=
  ite (goodFrame n tag f s) (refl s)

theorem badWord (n : Nat) (s : State) : StoresOnly s (s.badWord n) := by
  unfold State.badWord
  split
  · exact badFrame _ _ n s
  · exact badFrame _ _ n s
  · exact refl s

theorem headWord (d : Half) (n : Nat) (s : State) : StoresOnly s (s.headWord d n) := by
  unfold State.headWord
  split
  · exact moveTo _ n s
  · exact badFrame _ _ n s
  · exact moveTo _ n s

theorem bodyWord (d : Half) (n : Nat) (s : State) : StoresOnly s (s.bodyWord d n) := by
  unfold State.bodyWord
  split
  · exact badFrame _ _ n s
  · exact moveTo _ n s
  · exact refl s

theorem tailWord (d : Half) (n : Nat) (s : State) : StoresOnly s (s.tailWord d n) := by
  unfold State.tailWord
  split
  · exact badFrame _ _ n s
  · split
    · exact badFrame _ _ n s
    · exact goodFrame n _ _ s
  · exact moveTo _ n s

theorem receiveWord (w : WireWord) (n : Nat) (s : State) : StoresOnly s (s.receiveWord w n) := by
  unfold State.receiveWord
  split
  · exact badWord n s
  · split
    · exact refl s
    · exact headWord _ n s
    · exact bodyWord _ n s
    · exact tailWord _ n s

theorem loseLock (n : Nat) (s : State) : StoresOnly s (s.loseLock n) :=
  ite (link s n _) ((link s n _).trans (resetLinkDown n _))

theorem completeRequest (n : Nat) (s : State) : StoresOnly s (s.completeRequest n) := by
  unfold State.completeRequest
  split
  · exact (link s n _).trans (releaseRequest _ _)
  · exact refl s

theorem answerEnds (n : Nat) (c : Content) (s : State) : StoresOnly s (s.answerEnds n c) :=
  ((completeRequest n s).trans (link _ n _)).trans (frameEnds n _)

theorem timerRunsOut (n : Nat) (s : State) : StoresOnly s (s.timerRunsOut n) :=
  ite ((link s n _).trans (kick n _)) (ite ((link s n _).trans (raise _ _)) (link s n _))

theorem resyncUpLinks (s : State) : StoresOnly s s.resyncUpLinks :=
  forEach (fun n s => ite (refl s) (link s n _)) _ _

theorem clearLinks (s : State) : StoresOnly s s.clearLinks := forEach (fun n s => link s n _) _ _

/-! ### The lookup engine -/

theorem passEngine (k : Nat) (s : State) : StoresOnly s (s.passEngine k) := setEngine s _

theorem placeHolds (d : Decision) (s : State) : StoresOnly s (s.placeHolds d) := by
  unfold State.placeHolds
  have h : StoresOnly s (match d.copy with | some c => s.addFetchPin c | none => s) := by
    split
    · exact addFetchPin _ s
    · exact refl s
  dsimp only
  split
  · exact h.trans (addReader _ _)
  · exact h

theorem takeRequest (n : Nat) (d : Decision) (s : State) : StoresOnly s (s.takeRequest n d) :=
  (((placeHolds d s).trans (link _ n _)).trans (passEngine n _)).trans (kick n _)

theorem addWatch (n r : Nat) (s : State) : StoresOnly s (s.addWatch n r) :=
  ite (refl s) ((row s r _).trans (link _ n _))

theorem removeWatch (n r : Nat) (s : State) : StoresOnly s (s.removeWatch n r) :=
  ite ((row s r _).trans (watchFalls n _)) (refl s)

theorem takeWatch (n : Nat) (tag : Tag) (ch : Half) (s : State) : StoresOnly s (s.takeWatch n tag ch) := by
  unfold State.takeWatch
  split
  · exact takeRequest n _ s
  · exact (addWatch n _ s).trans (takeRequest n _ _)

theorem takeUnwatch (n : Nat) (tag : Tag) (row : Half) (s : State) : StoresOnly s (s.takeUnwatch n tag row) :=
  ite (takeRequest n _ s) ((removeWatch n _ s).trans (takeRequest n _ _))

/-! ### Rows, copies and slots at the edits and the switch -/

theorem freeDraft (r : Nat) (s : State) : StoresOnly s (s.freeDraft r) := by
  unfold State.freeDraft
  split
  · exact refl s
  · exact (row s r _).trans (freeCopy _ _)

theorem rewriteBody (c : Nat) (b : Body) (s : State) : StoresOnly s (s.rewriteBody c b) :=
  ite (copy s c _) (((copy s c _).trans (dropRef _ _)).trans (addRef _ _))

theorem abandonRow (s : State) (i : ChangeItem) : StoresOnly s (s.abandonRow i) := by
  cases i with
  | insert r => exact (freeDraft r s).trans (freeRow r _)
  | amend r => exact freeDraft r s
  | retire r => exact refl s
  | defineProfile k => exact refl s

theorem abandonSlot (s : State) (i : ChangeItem) : StoresOnly s (s.abandonSlot i) := by
  cases i with
  | insert r => exact refl s
  | amend r => exact refl s
  | retire r => exact refl s
  | defineProfile k => exact slot s k _

theorem sealRow (s : State) (i : ChangeItem) : StoresOnly s (s.sealRow i) := by
  cases i with
  | insert r => exact row s r _
  | amend r => exact row s r _
  | retire r => exact row s r _
  | defineProfile k => exact refl s

theorem switchRow (e r : Nat) (s : State) : StoresOnly s (s.switchRow e r) := row s r _

theorem supersede (e c : Nat) (s : State) : StoresOnly s (s.supersede e c) :=
  ite ((copy s c _).trans (freeCopy c _)) (copy s c _)

theorem buryRow (e r : Nat) (s : State) : StoresOnly s (s.buryRow e r) :=
  ite (ite ((emptyWatchSet r s).trans (row _ r _)) ((emptyWatchSet r s).trans (freeRow r _))) (refl s)

theorem switchStores (e : Nat) (items : List ChangeItem) (s : State) : StoresOnly s (s.switchStores e items) := by
  unfold State.switchStores
  dsimp only
  exact ((((((setCopies s _).trans (setSlots _ _)).trans (forEach (switchRow e) _ _)).trans (forEach (supersede e) _ _)).trans
    (setSuperseded _ _)).trans (forEach (buryRow e) _ _))

theorem takePostings (ps : List (Nat × Notice)) (fl : List Nat) (s : State) :
    StoresOnly s (State.takePostings ps fl s).1 := by
  induction ps generalizing fl s with
  | nil => exact refl s
  | cons p ps ih => exact (link s p.1 _).trans (ih _ _)

theorem withdrawRow (r : Nat) (s : State) : StoresOnly s (s.withdrawRow r) := by
  unfold State.withdrawRow
  split
  · split
    · exact ((row s r _).trans (freeCopy _ _)).trans (freeRow r _)
    · exact freeRow r s
  · split
    · exact (row s r _).trans (freeCopy _ _)
    · exact refl s
  · exact row s r _
  · exact refl s
  · exact refl s
  · exact refl s

theorem withdrawSlot (s : State) (i : ChangeItem) : StoresOnly s (s.withdrawSlot i) := by
  cases i with
  | insert r => exact refl s
  | amend r => exact refl s
  | retire r => exact refl s
  | defineProfile k => exact slot s k _

theorem clearListedPins (l : List SaveItem) (s : State) : StoresOnly s (s.clearListedPins l) := forEach clearSnapPin _ _

end StoresOnly

/-! ### Commands and flash completions -/

/-- From `s` to `t` the queue, the ports and the masks did not change. -/
structure PortsKept (s t : State) : Prop where
  pending : t.pending = s.pending
  host : t.host = s.host
  service : t.service = s.service
  hostMask : t.hostMask = s.hostMask
  serviceMask : t.serviceMask = s.serviceMask

namespace PortsKept

variable {s t u : State}

theorem refl (s : State) : PortsKept s s := ⟨rfl, rfl, rfl, rfl, rfl⟩

theorem trans (h : PortsKept s t) (k : PortsKept t u) : PortsKept s u :=
  ⟨k.pending.trans h.pending, k.host.trans h.host, k.service.trans h.service, k.hostMask.trans h.hostMask,
    k.serviceMask.trans h.serviceMask⟩

theorem of (h : StoresOnly s t) : PortsKept s t := ⟨h.pending, h.host, h.service, h.hostMask, h.serviceMask⟩

theorem ite {c : Prop} [Decidable c] {a b : State} (ha : PortsKept s a) (hb : PortsKept s b) :
    PortsKept s (if c then a else b) := by
  split <;> assumption

/-- The ports are as they were. -/
theorem port (h : PortsKept s t) (p : Port) : t.port p = s.port p := by
  cases p
  · exact h.host
  · exact h.service

/-- The masks are as they were. -/
theorem mask (h : PortsKept s t) (p : Port) : t.mask p = s.mask p := by
  cases p
  · exact h.hostMask
  · exact h.serviceMask

theorem setSession (s : State) (x : Option Session) : PortsKept s (s.setSession x) := ⟨rfl, rfl, rfl, rfl, rfl⟩

theorem setStaged (s : State) (x : Option StagedSet) : PortsKept s (s.setStaged x) := ⟨rfl, rfl, rfl, rfl, rfl⟩

theorem setEpoch (s : State) (x : Nat) : PortsKept s (s.setEpoch x) := ⟨rfl, rfl, rfl, rfl, rfl⟩

theorem setMarkerCount (s : State) (x : Nat) : PortsKept s (s.setMarkerCount x) := ⟨rfl, rfl, rfl, rfl, rfl⟩

theorem setSwitchRecord (s : State) (x : Option SwitchRecord) : PortsKept s (s.setSwitchRecord x) :=
  ⟨rfl, rfl, rfl, rfl, rfl⟩

theorem setSnap (s : State) (x : Snapshot) : PortsKept s (s.setSnap x) := ⟨rfl, rfl, rfl, rfl, rfl⟩

theorem setFlash (s : State) (x : Flash) : PortsKept s (s.setFlash x) := ⟨rfl, rfl, rfl, rfl, rfl⟩

theorem setOpState (s : State) (x : OpState) : PortsKept s (s.setOpState x) := ⟨rfl, rfl, rfl, rfl, rfl⟩

theorem setParams (s : State) (x : Params) : PortsKept s (s.setParams x) := ⟨rfl, rfl, rfl, rfl, rfl⟩

theorem setFreeTick (s : State) (x : Nat) : PortsKept s (s.setFreeTick x) := ⟨rfl, rfl, rfl, rfl, rfl⟩

/-! ### Edit commands -/

theorem putItems (l : List ChangeItem) (s : State) : PortsKept s (s.putItems l) := by
  unfold State.putItems
  split
  · exact refl s
  · exact setSession s _

theorem restartTimer (p : Port) (s : State) : PortsKept s (s.restartTimer p) := by
  unfold State.restartTimer
  split
  · exact refl s
  · exact ite (setSession s _) (refl s)

theorem guardEdit (p : Port) (act : State → State × Reply) (ha : ∀ s, PortsKept s (act s).1) (s : State) :
    PortsKept s (s.guardEdit p act).1 := by
  unfold State.guardEdit
  split
  · exact refl s
  · exact ha s

theorem takeOpenEdit (p : Port) (s : State) : PortsKept s (s.takeOpenEdit p).1 := by
  unfold State.takeOpenEdit
  split
  · exact refl s
  · split
    · exact setSession s _
    · split <;> exact refl s

theorem insertSpan (sp : Span) (b : Body) (s : State) : PortsKept s (s.insertSpan sp b).1 := by
  unfold State.insertSpan
  split
  · exact refl s
  · split
    · exact refl s
    · split
      · exact refl s
      · exact (of ((StoresOnly.claimRow _ _ _ s).trans (StoresOnly.allocCopy _ _ _))).trans (putItems _ _)

theorem amendRow (r : Nat) (sel : Bool) (f : Body → Body) (s : State) : PortsKept s (s.amendRow r sel f).1 := by
  unfold State.amendRow
  dsimp only
  split
  · exact refl s
  · split
    · exact of (StoresOnly.rewriteBody _ _ s)
    · split
      · exact refl s
      · split
        · exact refl s
        · exact (of ((StoresOnly.row s _ _).trans (StoresOnly.allocCopy _ _ _))).trans (putItems _ _)

theorem retireEffect (r : Nat) (s : State) : PortsKept s (s.retireEffect r) := by
  unfold State.retireEffect
  split
  · exact (of ((StoresOnly.freeDraft r s).trans (StoresOnly.freeRow r _))).trans (putItems _ _)
  · exact (of (StoresOnly.freeDraft r s)).trans (putItems _ _)
  · exact putItems _ s

theorem retireRow (r : Nat) (s : State) : PortsKept s (s.retireRow r).1 := by
  unfold State.retireRow
  split
  · exact refl s
  · split
    · exact refl s
    · exact retireEffect r s

theorem forEach {f : Nat → State → State} (hf : ∀ n s, PortsKept s (f n s)) (l : List Nat) (s : State) :
    PortsKept s (State.forEach f l s) := by
  induction l generalizing s with
  | nil => exact refl s
  | cons n ns ih => exact (hf n s).trans (ih _)

theorem retireGroup (g : Nat) (s : State) : PortsKept s (s.retireGroup g).1 := by
  unfold State.retireGroup
  dsimp only
  split
  · exact refl s
  · exact forEach retireEffect _ s

theorem defineProfile (k : Nat) (pts : List Point) (s : State) : PortsKept s (s.defineProfile k pts).1 := by
  unfold State.defineProfile
  split
  · exact refl s
  · exact refl s
  · split
    · exact refl s
    · split
      · exact refl s
      · exact (of (StoresOnly.slot s _ _)).trans (putItems _ _)
  · split
    · exact refl s
    · exact of (StoresOnly.slot s _ _)

theorem dropProfile (k : Nat) (s : State) : PortsKept s (s.dropProfile k).1 := by
  unfold State.dropProfile
  split
  · exact refl s
  · split
    · exact refl s
    · exact refl s
    · split
      · exact refl s
      · exact (of (StoresOnly.slot s _ _)).trans (putItems _ _)
    · split
      · exact refl s
      · exact of (StoresOnly.slot s _ _)

theorem abandonSession (s : State) : PortsKept s s.abandonSession :=
  (of ((StoresOnly.foldl StoresOnly.abandonRow _ s).trans (StoresOnly.foldl StoresOnly.abandonSlot _ _))).trans
    (setSession _ _)

theorem sealWith (pol : Policy) (s : State) : PortsKept s (s.sealWith pol).1 := by
  unfold State.sealWith
  split
  · exact refl s
  · split
    · exact setSession s _
    · unfold State.sealSession
      dsimp only
      exact (of (((StoresOnly.foldl StoresOnly.sealRow _ s).trans (StoresOnly.setCopies _ _)).trans
        (StoresOnly.setSlots _ _))).trans ((setStaged _ _).trans (setSession _ _))

/-! ### The switch, withdrawing, the snapshot store -/

theorem raiseOverflows (fl : List Nat) (s : State) : PortsKept s (s.raiseOverflows fl) := by
  unfold State.raiseOverflows
  split
  · exact refl s
  · exact of (StoresOnly.raise s _)
  · exact (of (StoresOnly.raise s _)).trans (setFreeTick _ _)

theorem switchSet (trig : Trigger) (st : StagedSet) (s : State) : PortsKept s (s.switchSet trig st) := by
  unfold State.switchSet
  dsimp only
  refine PortsKept.trans ?_ (of (StoresOnly.kickAll _))
  refine PortsKept.trans ?_ (of (StoresOnly.raise _ _))
  refine PortsKept.trans ?_ (raiseOverflows _ _)
  refine PortsKept.trans ?_ (of (StoresOnly.takePostings _ _ _))
  exact (((setEpoch s _).trans (of (StoresOnly.switchStores _ _ _))).trans (setSwitchRecord _ _)).trans (setStaged _ _)

theorem takeSwitch (s : State) : PortsKept s s.takeSwitch.1 := by
  unfold State.takeSwitch
  split
  · exact refl s
  · split
    · exact refl s
    · split
      · exact refl s
      · dsimp only
        exact switchSet _ _ s

theorem takeWithdraw (s : State) : PortsKept s s.takeWithdraw.1 := by
  unfold State.takeWithdraw
  split
  · exact refl s
  · split
    · exact refl s
    · split
      · exact refl s
      · exact (of ((StoresOnly.forEach StoresOnly.withdrawRow _ s).trans
          (StoresOnly.foldl StoresOnly.withdrawSlot _ _))).trans (setStaged _ _)

theorem takeSave (s : State) : PortsKept s s.takeSave.1 := by
  unfold State.takeSave
  split
  · exact refl s
  · split
    · exact refl s
    · exact (of (StoresOnly.forEach StoresOnly.setSnapPin _ s)).trans ((setSnap _ _).trans (setFlash _ _))

theorem endSave (k : FailKind) (s : State) : PortsKept s (s.endSave k) := by
  unfold State.endSave
  dsimp only
  exact (((of (StoresOnly.clearListedPins _ s)).trans (setSnap _ _)).trans (setFlash _ _)).trans (of (StoresOnly.raise _ _))

theorem takeAbortSave (s : State) : PortsKept s s.takeAbortSave.1 := by
  unfold State.takeAbortSave
  split
  · exact refl s
  · exact refl s
  · exact endSave _ s
  · exact endSave _ s
  · exact endSave _ s

theorem beginRestore (o : Origin) (s : State) : PortsKept s (s.beginRestore o) :=
  ((setSnap s _).trans (setOpState _ _)).trans (setFlash _ _)

theorem takeRestore (s : State) : PortsKept s s.takeRestore.1 := by
  unfold State.takeRestore
  split
  · exact refl s
  · split
    · exact refl s
    · split
      · exact refl s
      · exact beginRestore _ s

theorem extendCheck (bytes : List Byte) (s : State) : PortsKept s (s.extendCheck bytes) := setSnap s _

theorem loadProfile {e : Nat} {entry : List Byte} (h : s.loadProfile e entry = some t) : PortsKept s t := by
  unfold State.loadProfile at h
  simp only at h
  split at h
  · cases h; exact of (StoresOnly.slot _ _ _)
  · cases h

/-- A record that loads is a row claimed and a copy allocated. -/
theorem loadRecord_stores {e : Nat} {entry : List Byte} (h : s.loadRecord e entry = some t) : StoresOnly s t := by
  unfold State.loadRecord at h
  simp only at h
  split at h
  · split at h
    · cases h; exact (StoresOnly.claimRow _ _ _ s).trans (StoresOnly.allocCopy _ _ _)
    · cases h
  all_goals cases h

theorem loadRecord {e : Nat} {entry : List Byte} (h : s.loadRecord e entry = some t) : PortsKept s t := of (loadRecord_stores h)

/-- The entries of a page change no more than each of them does. -/
theorem loadEntries {load : List Byte → State → Option State} (hl : ∀ {entry s t}, load entry s = some t → PortsKept s t) :
    ∀ (l : List (List Byte)) (s : State), PortsKept s (State.loadEntries load l s).1
  | [], s => refl s
  | en :: ens, s => by
    unfold State.loadEntries
    split
    · next t h => exact ((extendCheck en s).trans (hl h)).trans (loadEntries hl ens t)
    · exact refl s

theorem loadPage (h : BankHeader) (i : Nat) (page : List Byte) (s : State) : PortsKept s (s.loadPage h i page).1 := by
  unfold State.loadPage
  simp only
  split
  · exact loadEntries loadProfile _ s
  · exact loadEntries loadRecord _ s

theorem takeGate (target : OpState) (s : State) : PortsKept s (s.takeGate target).1 := by
  unfold State.takeGate
  split
  · exact setOpState s _
  · exact refl s

theorem takeStartEmpty (s : State) : PortsKept s s.takeStartEmpty.1 := by
  unfold State.takeStartEmpty
  split
  · exact setOpState s _
  · exact refl s

theorem takeClearAll (s : State) : PortsKept s s.takeClearAll.1 := by
  unfold State.takeClearAll
  split
  · exact refl s
  · dsimp only [State.clearStores]
    exact ((((of (StoresOnly.emptyStores s)).trans (of (StoresOnly.setLowArmed _ _))).trans (setStaged _ _)).trans
      (of (StoresOnly.clearLinks _))).trans (of (StoresOnly.kickAll _))

theorem takeSetParam (sel v : Nat) (s : State) : PortsKept s (s.takeSetParam sel v).1 := by
  unfold State.takeSetParam
  dsimp only
  exact ite ((setParams s _).trans (of (StoresOnly.checkArm _))) (setParams s _)

theorem linkStatus (n : Nat) (c : Bool) (s : State) : PortsKept s (s.linkStatus n c).1 := by
  unfold State.linkStatus
  exact ite (of (StoresOnly.link s n _)) (refl s)

/-- No command touches the ports but by its response. -/
theorem perform (p : Port) (k : CmdKind) (args : List Word) (s : State) : PortsKept s (s.perform p k args).1 := by
  cases k with
  | readStatus => exact refl s
  | readRow => exact refl s
  | readCopy => exact refl s
  | readProfile => exact refl s
  | listSpans => exact refl s
  | query => exact refl s
  | linkStatus => exact linkStatus _ _ s
  | openEdit => exact takeOpenEdit p s
  | insert => exact guardEdit p _ (insertSpan _ _) s
  | amend => exact guardEdit p _ (amendRow _ _ _) s
  | retire => exact guardEdit p _ (retireRow _) s
  | retireGroup => exact guardEdit p _ (retireGroup _) s
  | defineProfile => exact guardEdit p _ (defineProfile _ _) s
  | dropProfile => exact guardEdit p _ (dropProfile _) s
  | sealSession => exact guardEdit p _ (sealWith _) s
  | abandon => exact guardEdit p _ abandonSession s
  | touch => exact guardEdit p _ refl s
  | switch => exact takeSwitch s
  | withdraw => exact takeWithdraw s
  | save => exact takeSave s
  | abortSave => exact takeAbortSave s
  | restore => exact takeRestore s
  | startEmpty => exact takeStartEmpty s
  | hold => exact takeGate _ s
  | resume => exact takeGate _ s
  | clearAll => exact takeClearAll s
  | resetLink => exact of (StoresOnly.resetLinkDown _ s)
  | setParam => exact takeSetParam _ _ s

theorem restartFor (p : Port) (q : QueuedCommand) (s : State) : PortsKept s (s.restartFor p q) := by
  unfold State.restartFor
  split
  · exact refl s
  · exact ite (restartTimer p s) (refl s)

theorem carryOut (p : Port) (q : QueuedCommand) (s : State) : PortsKept s (s.carryOut p q).1 := by
  unfold State.carryOut
  split
  · exact refl s
  · exact perform p _ _ s
  · exact refl s

end PortsKept

end Sys2Proof.Machine
end

