-- ==== Sys2Proof/Laws/Ports.lean ====
section
/-! SUPPORT. The command header, and what a whole command written to a quiet port does: the lemmas that every statement about a
software command rests on. -/

namespace Sys2Proof.Machine

/-! ### The header (11.4) -/

theorem testBit_high {m i : Nat} (h : m < 64) (hi : 6 ≤ i) : m.testBit i = false :=
  Nat.testBit_lt_two_pow (Nat.lt_of_lt_of_le (show m < 2 ^ 6 from h) (Nat.pow_le_pow_right (by decide) hi))

@[simp] theorem headerKind_headerWord (kind : Byte) (n : Nat) (seq : Half) : headerKind (headerWord kind n seq) = kind := by
  have hm : (n - 1) % 64 < 64 := Nat.mod_lt _ (by decide)
  unfold headerKind headerWord
  generalize (n - 1) % 64 = m at hm
  ext i hi
  have h1 : seq.getLsbD (24 + i) = false := BitVec.getLsbD_of_ge _ _ (by omega)
  have h2 : (BitVec.ofNat 32 m)[8 + i] = false := by
    rw [← BitVec.getLsbD_eq_getElem, BitVec.getLsbD_ofNat, testBit_high hm (by omega), Bool.and_false]
  simp [h1, h2, show ¬ (24 + i < 24) by omega, show ¬ (24 + i < 16) by omega,
    show 24 + i - 24 = i by omega, show 24 + i - 16 = 8 + i by omega, show 24 + i < 32 by omega,
    BitVec.getLsbD_eq_getElem hi]

@[simp] theorem headerSeq_headerWord (kind : Byte) (n : Nat) (seq : Half) : headerSeq (headerWord kind n seq) = seq := by
  unfold headerSeq headerWord
  ext i hi
  simp [hi, show i < 24 by omega, show i < 32 by omega]

theorem headerCount_headerWord (kind : Byte) (n : Nat) (seq : Half) :
    headerCount (headerWord kind n seq) = (n - 1) % 64 + 1 := by
  have hm : (n - 1) % 64 < 64 := Nat.mod_lt _ (by decide)
  unfold headerCount headerWord bitsAt
  generalize (n - 1) % 64 = m at hm
  congr 1
  have : ((kind.zeroExtend 32 <<< 24 ||| BitVec.ofNat 32 m <<< 16 ||| seq.zeroExtend 32).extractLsb' 16 6)
      = BitVec.ofNat 6 m := by
    ext i hi
    have h2 : (BitVec.ofNat 32 m)[i] = (BitVec.ofNat 6 m)[i] := by
      rw [← BitVec.getLsbD_eq_getElem, ← BitVec.getLsbD_eq_getElem, BitVec.getLsbD_ofNat, BitVec.getLsbD_ofNat]
      simp [hi, show i < 32 by omega]
    simp [h2, show 16 + i < 24 by omega, show ¬ (16 + i < 16) by omega, show 16 + i < 32 by omega]
  rw [this, BitVec.toNat_ofNat]
  exact Nat.mod_eq_of_lt hm

/-- A code names the kind it is the code of. -/
@[simp] theorem CmdKind.ofCode_code (k : CmdKind) : CmdKind.ofCode k.code = some k := by cases k <;> rfl

/-! ### A whole command at a quiet port -/

/-- The command that a header and argument words make, whole (R180). -/
def wholeCommand (kind : Byte) (seq : Half) (args : List Word) : QueuedCommand :=
  { words := headerWord kind (args.length + 1) seq :: args, cut := false, released := false }

@[simp] theorem wholeCommand_header (kind : Byte) (seq : Half) (args : List Word) :
    (wholeCommand kind seq args).header = headerWord kind (args.length + 1) seq := rfl

@[simp] theorem wholeCommand_args (kind : Byte) (seq : Half) (args : List Word) :
    (wholeCommand kind seq args).args = args := rfl

@[simp] theorem wholeCommand_kind (kind : Byte) (seq : Half) (args : List Word) :
    (wholeCommand kind seq args).kind = CmdKind.ofCode kind := by simp [QueuedCommand.kind]

/-- A port whose command FIFO holds one command, still incomplete: nothing is taken. -/
theorem takeAll_incomplete {s : State} {p : Port} {q : QueuedCommand} (h : (s.port p).commands = [q])
    (hr : q.ready = false) : s.takeAll p = s := by
  simp [State.takeAll, State.takings, PortState.takeable, h, hr]

/-- The port with one command in its FIFO, its words so far. -/
def withWords (s : State) (p : Port) (ws : List Word) : State :=
  s.putPort p { s.port p with commands := [{ words := ws, cut := false, released := false }] }

@[simp] theorem withWords_port (s : State) (p : Port) (ws : List Word) :
    (withWords s p ws).port p =
      { s.port p with commands := [{ words := ws, cut := false, released := false }] } := by
  simp [withWords]

theorem whole_iff (ws : List Word) (hd : Word) (h : ws.head? = some hd) :
    QueuedCommand.whole { words := ws, cut := false, released := false } = decide (headerCount hd ≤ ws.length) := by
  cases ws with
  | nil => simp at h
  | cons a as =>
    simp only [List.head?_cons, Option.some.injEq] at h
    subst h
    rfl

theorem offerWord_withWords {s : State} {p : Port} {ws : List Word} {hd : Word} (w : Word)
    (ho : (s.port p).overflow = false) (hh : ws.head? = some hd) (hi : ws.length < headerCount hd)
    (hf : ws.length < Config.fifoWords) : (withWords s p ws).offerWord p w = withWords s p (ws ++ [w]) := by
  have hw := whole_iff ws hd hh
  have hq : QueuedCommand.incomplete { words := ws, cut := false, released := false } = true := by
    simp [QueuedCommand.incomplete, hw, hi]
  unfold State.offerWord
  simp only [withWords_port, ho, PortState.wordCount, List.map_cons, List.map_nil, List.sum_cons, List.sum_nil,
    Nat.add_zero, hf, if_true, joinWord, hq]
  simp [withWords, ho]

theorem head?_append_one {ws : List Word} {hd : Word} (hh : ws.head? = some hd) (w : Word) :
    (ws ++ [w]).head? = some hd := by
  cases ws with
  | nil => simp at hh
  | cons a as => simpa using hh

/-- The last words of a command join the words that stand in the FIFO, and only the last of them lets it be taken. -/
theorem writeWords_withWords {s : State} {p : Port} {hd : Word} (ho : (s.port p).overflow = false) :
    ∀ (rest ws : List Word), ws.head? = some hd → ws.length + rest.length = headerCount hd →
      headerCount hd ≤ Config.fifoWords → rest ≠ [] →
      State.writeWords p rest (withWords s p ws) = (withWords s p (ws ++ rest)).takeAll p := by
  intro rest
  induction rest with
  | nil => intro ws _ _ _ h; exact absurd rfl h
  | cons w rest ih =>
    intro ws hh hlen hmax _
    have h1 : ws.length < headerCount hd := by rw [← hlen]; simp
    have h2 : ws.length < Config.fifoWords := by omega
    simp only [State.writeWords, State.writeCommandIn]
    rw [offerWord_withWords w ho hh h1 h2]
    cases rest with
    | nil => rfl
    | cons v rest =>
      have h3 : QueuedCommand.ready { words := ws ++ [w], cut := false, released := false } = false := by
        simp only [QueuedCommand.ready]
        rw [if_neg (by decide), whole_iff _ hd (head?_append_one hh w)]
        simp only [List.length_cons] at hlen
        simp
        omega
      rw [takeAll_incomplete (by simp) h3, ih (ws ++ [w]) (head?_append_one hh w) (by simp at hlen ⊢; omega) hmax (by simp)]
      simp

/-- A command written whole at a quiet port stands in its FIFO, and what can be taken is taken (R181, R184). -/
theorem deliver_eq {s : State} {p : Port} (kind : Byte) (seq : Half) {args : List Word}
    (hc : (s.port p).commands = []) (ho : (s.port p).overflow = false) (ha : args.length ≤ 63) :
    s.deliver p kind seq args = (s.putPort p { s.port p with commands := [wholeCommand kind seq args] }).takeAll p := by
  have hcount : headerCount (headerWord kind (args.length + 1) seq) = args.length + 1 := by
    rw [headerCount_headerWord]; omega
  have hfirst : s.offerWord p (headerWord kind (args.length + 1) seq) =
      withWords s p [headerWord kind (args.length + 1) seq] := by
    simp [State.offerWord, ho, PortState.wordCount, hc, joinWord, withWords]
  unfold State.deliver
  simp only [State.writeWords, State.writeCommandIn]
  rw [hfirst]
  cases args with
  | nil => rfl
  | cons a as =>
    have h3 : QueuedCommand.ready { words := [headerWord kind ((a :: as).length + 1) seq], cut := false, released := false }
        = false := by
      simp only [QueuedCommand.ready]
      rw [if_neg (by decide), whole_iff _ _ rfl, hcount]
      simp
    rw [takeAll_incomplete (by simp) h3,
      writeWords_withWords ho _ _ rfl (by rw [hcount]; simp; omega) (by rw [hcount]; exact Nat.succ_le_succ ha) (by simp)]
    rfl

/-- What a command written whole at a quiet port does, when its response has room and it is no QUERY of right form: it is
carried out on the state as it was, and the response is placed (R181 to R183). -/
theorem deliver_taken {s : State} {p : Port} (kind : Byte) (seq : Half) {args : List Word}
    (hc : (s.port p).commands = []) (ho : (s.port p).overflow = false) (ha : args.length ≤ 63)
    (hr : (s.port p).hasRoom (wholeCommand kind seq args) = true)
    (hq : ¬(CmdKind.ofCode kind = some .query ∧ (wholeCommand kind seq args).formError = none)) :
    s.deliver p kind seq args =
      (((s.restartFor p (wholeCommand kind seq args)).carryOut p (wholeCommand kind seq args)).1).respond p seq
        ((s.restartFor p (wholeCommand kind seq args)).carryOut p (wholeCommand kind seq args)).2 := by
  have hready : (wholeCommand kind seq args).ready = true := by
    have hcount : headerCount (headerWord kind (args.length + 1) seq) = args.length + 1 := by
      rw [headerCount_headerWord]; omega
    simp [QueuedCommand.ready, wholeCommand, QueuedCommand.whole, QueuedCommand.header, hcount]
  rw [deliver_eq kind seq hc ho ha]
  have hpop : (s.putPort p { s.port p with commands := [wholeCommand kind seq args] }).popCommand p = s := by
    have : ({ s.port p with commands := [] } : PortState) = s.port p := by rw [← hc]
    simp [State.popCommand, this]
  simp only [State.takeAll, State.port_putPort, if_true, List.length_singleton, State.takings, PortState.takeable,
    List.head?_cons, hready, true_and, wholeCommand_kind]
  have hr' : ({ s.port p with commands := [wholeCommand kind seq args] } : PortState).hasRoom (wholeCommand kind seq args)
      = true := hr
  simp only [hr', true_and]
  rw [if_pos hq]
  simp only [State.takeCommand, hpop, wholeCommand_header, headerSeq_headerWord]

/-- The form of a whole command of a known kind is right when its length and its arguments are (R182). -/
theorem formError_none {k : CmdKind} {seq : Half} {args : List Word} (ha : args.length ≤ 63)
    (hl : lengthOk k args = true) (hg : rangeOk k args = true) : (wholeCommand k.code seq args).formError = none := by
  have hcount : headerCount (headerWord k.code (args.length + 1) seq) = args.length + 1 := by
    rw [headerCount_headerWord]; omega
  have hw : (wholeCommand k.code seq args).words.length = headerCount (headerWord k.code (args.length + 1) seq) := by
    rw [hcount]; rfl
  simp only [QueuedCommand.formError, wholeCommand_kind, CmdKind.ofCode_code, wholeCommand_args, wholeCommand_header, hl, hg]
  rw [if_neg]
  · simp
  · rintro (h | h | h)
    · exact Bool.noConfusion h
    · exact h hw
    · exact Bool.noConfusion h

/-- A command of right form at a port that is ready for it: it does what its kind does, with the idle timer restarted first for
an edit command of the owner (R59), and its response is placed. -/
theorem deliver_perform {s : State} {p : Port} {k : CmdKind} (seq : Half) {args : List Word} (h : s.Ready p k)
    (ha : args.length ≤ 63) (hl : lengthOk k args = true) (hg : rangeOk k args = true) (hk : k ≠ .query) :
    s.deliver p k.code seq args =
      let t := if k.isEdit then s.restartTimer p else s
      ((t.perform p k args).1).respond p seq (t.perform p k args).2 := by
  have hf := formError_none (seq := seq) ha hl hg
  have hroom : (s.port p).hasRoom (wholeCommand k.code seq args) = true := by
    simp only [PortState.hasRoom, QueuedCommand.roomNeeded, wholeCommand_kind, CmdKind.ofCode_code, decide_eq_true_eq]
    exact h.room
  rw [deliver_taken k.code seq h.empty h.clear ha hroom (by simp [hk])]
  simp only [State.restartFor, wholeCommand_kind, CmdKind.ofCode_code, State.carryOut, hf, wholeCommand_args]

/-- A command refused for form: nothing but the response changes, and the idle timer for an edit command of the owner (R182). -/
theorem deliver_refused {s : State} {p : Port} (kind : Byte) (seq : Half) {args : List Word} {c : Code}
    (hc : (s.port p).commands = []) (ho : (s.port p).overflow = false) (ha : args.length ≤ 63)
    (hr : (s.port p).hasRoom (wholeCommand kind seq args) = true)
    (hf : (wholeCommand kind seq args).formError = some c) :
    s.deliver p kind seq args = (s.restartFor p (wholeCommand kind seq args)).respond p seq (.bare c) := by
  rw [deliver_taken kind seq hc ho ha hr (by simp [hf])]
  simp [State.carryOut, hf]

/-! ### Responses -/

/-- A response changes its port's response FIFO and nothing else (R183). -/
theorem respond_eq (s : State) (p : Port) (seq : Half) (r : Reply) :
    s.respond p seq r = s.putPort p { s.port p with
      responses := (s.port p).responses ++ responseHeader r.code seq r.data.length :: r.data } := rfl

/-! ### Service port transactions (R179) -/

/-- A word event that is a row of the table leaves what that row leaves, and any other changes nothing. -/
theorem wordEvent_state (p : Port) (s : State) (e : WordEvent) :
    (s.wordEvent p e).1 = match e.row? p with
      | none => s
      | some i => s.ran i := by
  cases e with
  | read w => cases w <;> rfl
  | write w v => cases w <;> rfl

/-- Word events leave what the rows they are leave, one after another. -/
theorem wordEvents_state (p : Port) : ∀ (es : List WordEvent) (s : State),
    (State.wordEvents p es s).1 = (es.filterMap (WordEvent.row? p)).foldl State.ran s := by
  intro es
  induction es with
  | nil => intro s; rfl
  | cons e es ih =>
    intro s
    have h := wordEvent_state p s e
    simp only [State.wordEvents, ih, h, List.filterMap_cons]
    cases e.row? p <;> rfl

end Sys2Proof.Machine
end

