-- ==== Sys2Proof/Laws/Edits.lean ====
section
/-! SUPPORT. What the statements about edit commands share: the owner's timer, the change set after it, a command of the owner taken,
the lowest FREE row and copy. -/

namespace Sys2Proof.Machine

/-! ### The state with its idle timer restarted (R59, R75) -/

@[simp] theorem timerRestarted_row (s : State) (x : Session) (k : Nat) : (s.timerRestarted x).row k = s.row k := rfl
@[simp] theorem timerRestarted_copy (s : State) (x : Session) (k : Nat) : (s.timerRestarted x).copy k = s.copy k := rfl
@[simp] theorem timerRestarted_slot (s : State) (x : Session) (k : Nat) : (s.timerRestarted x).slot k = s.slot k := rfl
@[simp] theorem timerRestarted_link (s : State) (x : Session) (k : Nat) : (s.timerRestarted x).link k = s.link k := rfl
@[simp] theorem timerRestarted_rows (s : State) (x : Session) : (s.timerRestarted x).rows = s.rows := rfl
@[simp] theorem timerRestarted_copies (s : State) (x : Session) : (s.timerRestarted x).copies = s.copies := rfl
@[simp] theorem timerRestarted_slots (s : State) (x : Session) : (s.timerRestarted x).slots = s.slots := rfl
@[simp] theorem timerRestarted_staged (s : State) (x : Session) : (s.timerRestarted x).staged = s.staged := rfl
@[simp] theorem timerRestarted_opState (s : State) (x : Session) : (s.timerRestarted x).opState = s.opState := rfl
@[simp] theorem timerRestarted_params (s : State) (x : Session) : (s.timerRestarted x).params = s.params := rfl
@[simp] theorem timerRestarted_saving (s : State) (x : Session) : (s.timerRestarted x).saving = s.saving := rfl
@[simp] theorem timerRestarted_session (s : State) (x : Session) :
    (s.timerRestarted x).session = some { x with timer := s.params.editTimeout } := rfl
@[simp] theorem timerRestarted_port (s : State) (x : Session) (p : Port) : (s.timerRestarted x).port p = s.port p := by
  cases p <;> rfl

/-! ### The change set -/

@[simp] theorem items_timerRestarted (s : State) (x : Session) : (s.timerRestarted x).items = x.items := rfl
@[simp] theorem items_withItems (s : State) (p : Port) (l : List ChangeItem) : (s.withItems p l).items = l := rfl
@[simp] theorem items_putSlot (s : State) (k : Nat) (x : Slot) : (s.putSlot k x).items = s.items := rfl
@[simp] theorem items_putRow (s : State) (k : Nat) (x : Row) : (s.putRow k x).items = s.items := rfl
@[simp] theorem items_putCopy (s : State) (k : Nat) (x : Copy) : (s.putCopy k x).items = s.items := rfl
@[simp] theorem putItems_timerRestarted (s : State) (x : Session) (l : List ChangeItem) :
    (s.timerRestarted x).putItems l = s.withItems x.owner l := rfl
@[simp] theorem putItems_putSlot_timerRestarted (s : State) (x : Session) (k : Nat) (y : Slot) (l : List ChangeItem) :
    ((s.timerRestarted x).putSlot k y).putItems l = (s.withItems x.owner l).putSlot k y := rfl
@[simp] theorem itemCountWord_timerRestarted (s : State) (x : Session) :
    (s.timerRestarted x).itemCountWord = packWord [(x.items.length, 0)] := rfl
@[simp] theorem itemCountWord_withItems (s : State) (p : Port) (l : List ChangeItem) :
    (s.withItems p l).itemCountWord = packWord [(l.length, 0)] := rfl
@[simp] theorem itemCountWord_putSlot (s : State) (k : Nat) (x : Slot) : (s.putSlot k x).itemCountWord = s.itemCountWord := rfl

/-! ### A command of the owner -/

variable {s : State} {p : Port} {x : Session}

theorem restartTimer_owner (h : s.Owns p x) : s.restartTimer p = s.timerRestarted x := by
  simp [State.restartTimer, h.session, h.owner, State.timerRestarted]

theorem restartTimer_of_none (h : s.session = none) : s.restartTimer p = s := by simp [State.restartTimer, h]

theorem restartTimer_other (h : s.session = some x) (ho : x.owner ≠ p) : s.restartTimer p = s := by
  simp [State.restartTimer, h, ho]

/-- The owner passes the checks of operating state and lock (R59). -/
theorem editRefusal_owner (h : s.Owns p x) : s.editRefusal p = none := by
  have := h.working
  unfold State.editRefusal
  rw [h.session]
  cases hs : s.opState <;> simp_all [OpState.working, h.owner]

theorem Owns_timerRestarted (h : s.Owns p x) : (s.timerRestarted x).Owns p { x with timer := s.params.editTimeout } :=
  ⟨h.working, rfl, h.owner⟩

/-- An edit command of the owner, of right form, is carried out with the timer restarted, and answered (R59, R75, R181). -/
theorem deliver_owner {k : CmdKind} (seq : Half) {args : List Word} (h : s.Ready p k) (ho : s.Owns p x) (hk : k.isEdit = true)
    (ha : args.length ≤ 63) (hl : lengthOk k args = true) (hg : rangeOk k args = true) :
    s.deliver p k.code seq args =
      (((s.timerRestarted x).perform p k args).1).respond p seq ((s.timerRestarted x).perform p k args).2 := by
  rw [deliver_perform seq h ha hl hg (by rintro rfl; exact Bool.noConfusion hk)]
  simp only [hk, if_true, restartTimer_owner ho]

/-! ### The lowest FREE row and copy -/

theorem lowestFrom_eq {q : Nat → Bool} : ∀ {n i j : Nat}, i ≤ j → j < i + n → q j = true → (∀ k, i ≤ k → k < j → q k = false) →
    lowestFrom q n i = some j := by
  intro n
  induction n with
  | zero => intro i j h1 h2; omega
  | succ n ih =>
    intro i j h1 h2 hq hlow
    unfold lowestFrom
    by_cases hij : i = j
    · subst hij; rw [if_pos hq]
    · rw [if_neg (by rw [hlow i (le_refl _) (by omega)]; decide)]
      exact ih (by omega) (by omega) hq (fun k hk hk2 => hlow k (by omega) hk2)

theorem lowestFreeRow_eq {r : Nat} (h : s.FirstFreeRow r) : s.lowestFreeRow = some r :=
  lowestFrom_eq (Nat.zero_le _) (by have := h.inRange; omega) (by simpa using h.isFree) (fun k _ hk => by simpa using h.lower k hk)

theorem lowestFreeCopy_eq {c : Nat} (h : s.FirstFreeCopy c) : s.lowestFreeCopy = some c :=
  lowestFrom_eq (Nat.zero_le _) (by have := h.inRange; omega) (by simpa using h.isFree) (fun k _ hk => by simpa using h.lower k hk)

/-- A number that does not read as the default is listed. -/
theorem mem_keys_of_ne {α : Type} {d : α} {t : Table α} {i : Nat} (h : Table.read d t i ≠ d) : i ∈ t.keys := by
  induction t with
  | nil => exact absurd rfl h
  | cons e t ih =>
    obtain ⟨j, b⟩ := e
    simp only [Table.keys, List.map_cons, List.mem_cons]
    by_cases hj : i = j
    · exact .inl hj
    · exact .inr (ih (fun h2 => h (by simpa [Table.read, Table.find, hj] using h2)))

end Sys2Proof.Machine
end

