-- ==== Sys2Proof/Laws/Fifo.lean ====
section
/-! SUPPORT. No command looks at a port's FIFOs as it is carried out: what it does, it does whatever waits behind it. From this the
commands of a port are carried out one after another, each as it would be alone at its port. -/

namespace Sys2Proof.Machine

/-- The state with the fields of both ports replaced. -/
def State.withPorts (s : State) (h v : PortState) : State := { s with host := h, service := v }

section

variable (s : State) (h v : PortState)

/-! ### Reading a state whose ports are replaced -/

@[simp] theorem withPorts_rows : (s.withPorts h v).rows = s.rows := rfl
@[simp] theorem withPorts_spanIndex : (s.withPorts h v).spanIndex = s.spanIndex := rfl
@[simp] theorem withPorts_copies : (s.withPorts h v).copies = s.copies := rfl
@[simp] theorem withPorts_freeCount : (s.withPorts h v).freeCount = s.freeCount := rfl
@[simp] theorem withPorts_superseded : (s.withPorts h v).superseded = s.superseded := rfl
@[simp] theorem withPorts_lowArmed : (s.withPorts h v).lowArmed = s.lowArmed := rfl
@[simp] theorem withPorts_slots : (s.withPorts h v).slots = s.slots := rfl
@[simp] theorem withPorts_session : (s.withPorts h v).session = s.session := rfl
@[simp] theorem withPorts_epoch : (s.withPorts h v).epoch = s.epoch := rfl
@[simp] theorem withPorts_staged : (s.withPorts h v).staged = s.staged := rfl
@[simp] theorem withPorts_markerCount : (s.withPorts h v).markerCount = s.markerCount := rfl
@[simp] theorem withPorts_switchRecord : (s.withPorts h v).switchRecord = s.switchRecord := rfl
@[simp] theorem withPorts_links : (s.withPorts h v).links = s.links := rfl
@[simp] theorem withPorts_snap : (s.withPorts h v).snap = s.snap := rfl
@[simp] theorem withPorts_flash : (s.withPorts h v).flash = s.flash := rfl
@[simp] theorem withPorts_opState : (s.withPorts h v).opState = s.opState := rfl
@[simp] theorem withPorts_eventSet : (s.withPorts h v).eventSet = s.eventSet := rfl
@[simp] theorem withPorts_params : (s.withPorts h v).params = s.params := rfl
@[simp] theorem withPorts_freeTick : (s.withPorts h v).freeTick = s.freeTick := rfl
@[simp] theorem withPorts_row (r : Nat) : (s.withPorts h v).row r = s.row r := rfl
@[simp] theorem withPorts_copy (c : Nat) : (s.withPorts h v).copy c = s.copy c := rfl
@[simp] theorem withPorts_slot (k : Nat) : (s.withPorts h v).slot k = s.slot k := rfl
@[simp] theorem withPorts_link (n : Nat) : (s.withPorts h v).link n = s.link n := rfl
@[simp] theorem withPorts_items : (s.withPorts h v).items = s.items := rfl
@[simp] theorem withPorts_saving : (s.withPorts h v).saving = s.saving := rfl

/-! ### Setters -/

@[simp] theorem setRows_withPorts (x) : (s.withPorts h v).setRows x = (s.setRows x).withPorts h v := rfl
@[simp] theorem setSpanIndex_withPorts (x) : (s.withPorts h v).setSpanIndex x = (s.setSpanIndex x).withPorts h v := rfl
@[simp] theorem setCopies_withPorts (x) : (s.withPorts h v).setCopies x = (s.setCopies x).withPorts h v := rfl
@[simp] theorem setFreeCount_withPorts (x) : (s.withPorts h v).setFreeCount x = (s.setFreeCount x).withPorts h v := rfl
@[simp] theorem setSuperseded_withPorts (x) : (s.withPorts h v).setSuperseded x = (s.setSuperseded x).withPorts h v := rfl
@[simp] theorem setLowArmed_withPorts (x) : (s.withPorts h v).setLowArmed x = (s.setLowArmed x).withPorts h v := rfl
@[simp] theorem setSlots_withPorts (x) : (s.withPorts h v).setSlots x = (s.setSlots x).withPorts h v := rfl
@[simp] theorem setSession_withPorts (x) : (s.withPorts h v).setSession x = (s.setSession x).withPorts h v := rfl
@[simp] theorem setEpoch_withPorts (x) : (s.withPorts h v).setEpoch x = (s.setEpoch x).withPorts h v := rfl
@[simp] theorem setStaged_withPorts (x) : (s.withPorts h v).setStaged x = (s.setStaged x).withPorts h v := rfl
@[simp] theorem setSwitchRecord_withPorts (x) : (s.withPorts h v).setSwitchRecord x = (s.setSwitchRecord x).withPorts h v := rfl
@[simp] theorem setSnap_withPorts (x) : (s.withPorts h v).setSnap x = (s.setSnap x).withPorts h v := rfl
@[simp] theorem setFlash_withPorts (x) : (s.withPorts h v).setFlash x = (s.setFlash x).withPorts h v := rfl
@[simp] theorem setOpState_withPorts (x) : (s.withPorts h v).setOpState x = (s.setOpState x).withPorts h v := rfl
@[simp] theorem setEventSet_withPorts (x) : (s.withPorts h v).setEventSet x = (s.setEventSet x).withPorts h v := rfl
@[simp] theorem setParams_withPorts (x) : (s.withPorts h v).setParams x = (s.setParams x).withPorts h v := rfl
@[simp] theorem setFreeTick_withPorts (x) : (s.withPorts h v).setFreeTick x = (s.setFreeTick x).withPorts h v := rfl
@[simp] theorem putRow_withPorts (r x) : (s.withPorts h v).putRow r x = (s.putRow r x).withPorts h v := rfl
@[simp] theorem putCopy_withPorts (c x) : (s.withPorts h v).putCopy c x = (s.putCopy c x).withPorts h v := rfl
@[simp] theorem putSlot_withPorts (k x) : (s.withPorts h v).putSlot k x = (s.putSlot k x).withPorts h v := rfl
@[simp] theorem putLink_withPorts (n x) : (s.withPorts h v).putLink n x = (s.putLink n x).withPorts h v := rfl
@[simp] theorem raise_withPorts (o) : (s.withPorts h v).raise o = (s.raise o).withPorts h v := rfl

/-! ### Choice and repetition -/

theorem withPorts_ite {c : Prop} [Decidable c] (a b : State) :
    (if c then a.withPorts h v else b.withPorts h v) = (if c then a else b).withPorts h v := by split <;> rfl

theorem forEach_withPorts {f : Nat → State → State} (hf : ∀ n s, f n (s.withPorts h v) = (f n s).withPorts h v) (l : List Nat)
    (s : State) : State.forEach f l (s.withPorts h v) = (State.forEach f l s).withPorts h v := by
  induction l generalizing s with
  | nil => rfl
  | cons n ns ih => rw [State.forEach, State.forEach, hf, ih]

theorem foldl_withPorts {β : Type} {f : State → β → State} (hf : ∀ s x, f (s.withPorts h v) x = (f s x).withPorts h v) (l : List β)
    (s : State) : l.foldl f (s.withPorts h v) = (l.foldl f s).withPorts h v := by
  induction l generalizing s with
  | nil => rfl
  | cons x xs ih => rw [List.foldl_cons, List.foldl_cons, hf, ih]

/-! ### The stores -/

@[simp] theorem watchFalls_withPorts (n : Nat) : (s.withPorts h v).watchFalls n = (s.watchFalls n).withPorts h v := rfl

@[simp] theorem emptyWatchSet_withPorts (r : Nat) : (s.withPorts h v).emptyWatchSet r = (s.emptyWatchSet r).withPorts h v := by
  simp only [State.emptyWatchSet, withPorts_row, putRow_withPorts]
  exact forEach_withPorts h v (fun n s => watchFalls_withPorts s h v n) _ _

@[simp] theorem freeRow_withPorts (r : Nat) : (s.withPorts h v).freeRow r = (s.freeRow r).withPorts h v := by simp [State.freeRow]

@[simp] theorem claimRow_withPorts (r : Nat) (sp : Span) (x : Row) :
    (s.withPorts h v).claimRow r sp x = (s.claimRow r sp x).withPorts h v := rfl

@[simp] theorem withPorts_ownsCopy (r : Nat) : (s.withPorts h v).ownsCopy r = s.ownsCopy r := rfl

@[simp] theorem reapRow_withPorts (r : Nat) : (s.withPorts h v).reapRow r = (s.reapRow r).withPorts h v := by
  simp only [State.reapRow, withPorts_row, withPorts_ownsCopy, freeRow_withPorts, withPorts_ite]

@[simp] theorem leaveWatchSets_withPorts (n : Nat) : (s.withPorts h v).leaveWatchSets n = (s.leaveWatchSets n).withPorts h v := rfl

@[simp] theorem addRef_withPorts (k : Option Nat) : (s.withPorts h v).addRef k = (s.addRef k).withPorts h v := by cases k <;> rfl

@[simp] theorem dropRef_withPorts (k : Option Nat) : (s.withPorts h v).dropRef k = (s.dropRef k).withPorts h v := by cases k <;> rfl

@[simp] theorem checkLow_withPorts : (s.withPorts h v).checkLow = s.checkLow.withPorts h v := by
  unfold State.checkLow
  simp only [withPorts_freeCount, withPorts_params, withPorts_lowArmed, setLowArmed_withPorts, raise_withPorts]
  exact withPorts_ite h v _ _

@[simp] theorem checkArm_withPorts : (s.withPorts h v).checkArm = s.checkArm.withPorts h v := by
  unfold State.checkArm
  simp only [withPorts_freeCount, withPorts_params, setLowArmed_withPorts]
  exact withPorts_ite h v _ _

@[simp] theorem allocCopy_withPorts (c : Nat) (x : Copy) : (s.withPorts h v).allocCopy c x = (s.allocCopy c x).withPorts h v := by
  simp [State.allocCopy]

@[simp] theorem freeCopy_withPorts (c : Nat) : (s.withPorts h v).freeCopy c = (s.freeCopy c).withPorts h v := by simp [State.freeCopy]

@[simp] theorem settleCopy_withPorts (c : Nat) : (s.withPorts h v).settleCopy c = (s.settleCopy c).withPorts h v := by
  unfold State.settleCopy
  simp only [withPorts_copy, freeCopy_withPorts, reapRow_withPorts]
  split
  · cases (s.copy c).owner <;> rfl
  · rfl

@[simp] theorem dropFetchPin_withPorts (c : Nat) : (s.withPorts h v).dropFetchPin c = (s.dropFetchPin c).withPorts h v := by
  simp [State.dropFetchPin]

@[simp] theorem setSnapPin_withPorts (c : Nat) : (s.withPorts h v).setSnapPin c = (s.setSnapPin c).withPorts h v := rfl

@[simp] theorem clearSnapPin_withPorts (c : Nat) : (s.withPorts h v).clearSnapPin c = (s.clearSnapPin c).withPorts h v := by
  simp only [State.clearSnapPin, withPorts_copy, putCopy_withPorts, settleCopy_withPorts, withPorts_ite]

@[simp] theorem dropReader_withPorts (k : Nat) : (s.withPorts h v).dropReader k = (s.dropReader k).withPorts h v := rfl

@[simp] theorem emptyStores_withPorts : (s.withPorts h v).emptyStores = s.emptyStores.withPorts h v := by simp [State.emptyStores]

/-! ### Links -/

@[simp] theorem withPorts_answerContent (q : Request) : (s.withPorts h v).answerContent q = s.answerContent q := rfl

@[simp] theorem withPorts_nextFrame (n : Nat) : (s.withPorts h v).nextFrame n = s.nextFrame n := rfl

@[simp] theorem kick_withPorts (n : Nat) : (s.withPorts h v).kick n = (s.kick n).withPorts h v := by
  unfold State.kick
  by_cases ht : (s.link n).tx = none
  · simp only [withPorts_link, withPorts_nextFrame, ht, if_true]
    cases s.nextFrame n <;> rfl
  · simp only [withPorts_link, ht, if_false]

@[simp] theorem kickAll_withPorts : (s.withPorts h v).kickAll = s.kickAll.withPorts h v :=
  forEach_withPorts h v (fun n s => kick_withPorts s h v n) _ _

@[simp] theorem releaseRequest_withPorts (q : Request) :
    (s.withPorts h v).releaseRequest q = (s.releaseRequest q).withPorts h v := by
  unfold State.releaseRequest
  cases q.boundCopy <;> cases q.boundSlot <;> simp

@[simp] theorem releaseRequests_withPorts (l : List Request) :
    State.releaseRequests l (s.withPorts h v) = (State.releaseRequests l s).withPorts h v := by
  induction l generalizing s with
  | nil => rfl
  | cons q qs ih => rw [State.releaseRequests, State.releaseRequests, releaseRequest_withPorts, ih]

@[simp] theorem resetLink_withPorts (n : Nat) : (s.withPorts h v).resetLink n = (s.resetLink n).withPorts h v := by
  simp [State.resetLink]

@[simp] theorem resetLinkDown_withPorts (n : Nat) : (s.withPorts h v).resetLinkDown n = (s.resetLinkDown n).withPorts h v := by
  simp only [State.resetLinkDown, withPorts_link, resetLink_withPorts, raise_withPorts, withPorts_ite]

@[simp] theorem clearLinks_withPorts : (s.withPorts h v).clearLinks = s.clearLinks.withPorts h v :=
  forEach_withPorts h v (fun _ _ => rfl) _ _

/-! ### The session -/

@[simp] theorem putItems_withPorts (l : List ChangeItem) : (s.withPorts h v).putItems l = (s.putItems l).withPorts h v := by
  unfold State.putItems
  simp only [withPorts_session]
  cases s.session <;> rfl

@[simp] theorem restartTimer_withPorts (p : Port) : (s.withPorts h v).restartTimer p = (s.restartTimer p).withPorts h v := by
  unfold State.restartTimer
  simp only [withPorts_session, withPorts_params, setSession_withPorts]
  cases s.session with
  | none => rfl
  | some x => exact withPorts_ite h v _ _

@[simp] theorem freeDraft_withPorts (r : Nat) : (s.withPorts h v).freeDraft r = (s.freeDraft r).withPorts h v := by
  unfold State.freeDraft
  simp only [withPorts_row, putRow_withPorts, freeCopy_withPorts]
  cases (s.row r).draft <;> rfl

@[simp] theorem rewriteBody_withPorts (c : Nat) (b : Body) : (s.withPorts h v).rewriteBody c b = (s.rewriteBody c b).withPorts h v := by
  simp only [State.rewriteBody, withPorts_copy, putCopy_withPorts, dropRef_withPorts, addRef_withPorts, withPorts_ite]

@[simp] theorem insertRow_withPorts (r c : Nat) (sp : Span) (b : Body) :
    (s.withPorts h v).insertRow r c sp b = (s.insertRow r c sp b).withPorts h v := by simp [State.insertRow]

@[simp] theorem startAmend_withPorts (r c : Nat) (b : Body) : (s.withPorts h v).startAmend r c b = (s.startAmend r c b).withPorts h v := by
  simp [State.startAmend]

@[simp] theorem retireEffect_withPorts (r : Nat) : (s.withPorts h v).retireEffect r = (s.retireEffect r).withPorts h v := by
  unfold State.retireEffect
  simp only [show (s.withPorts h v).retireOutcome r = s.retireOutcome r from rfl]
  cases s.retireOutcome r <;> simp

@[simp] theorem abandonSession_withPorts : (s.withPorts h v).abandonSession = s.abandonSession.withPorts h v := by
  unfold State.abandonSession
  rw [withPorts_items, foldl_withPorts h v (fun s i => by cases i <;> simp [State.abandonRow]),
    foldl_withPorts h v (fun s i => by cases i <;> rfl)]
  rfl

@[simp] theorem sealSession_withPorts (pol : Policy) : (s.withPorts h v).sealSession pol = (s.sealSession pol).withPorts h v := by
  unfold State.sealSession
  rw [withPorts_items, foldl_withPorts h v (fun s i => by cases i <;> rfl)]
  rfl

/-! ### Publication -/

@[simp] theorem supersede_withPorts (e c : Nat) : (s.withPorts h v).supersede e c = (s.supersede e c).withPorts h v := by
  simp only [State.supersede, withPorts_copy, putCopy_withPorts, freeCopy_withPorts, withPorts_ite]

@[simp] theorem buryRow_withPorts (e r : Nat) : (s.withPorts h v).buryRow e r = (s.buryRow e r).withPorts h v := by
  simp only [State.buryRow, withPorts_row, emptyWatchSet_withPorts, withPorts_ownsCopy, putRow_withPorts, freeRow_withPorts, withPorts_ite]

@[simp] theorem switchStores_withPorts (e : Nat) (items : List ChangeItem) :
    (s.withPorts h v).switchStores e items = (s.switchStores e items).withPorts h v := by
  have h1 := forEach_withPorts h v (f := State.switchRow e) (fun _ _ => rfl)
  have h2 := forEach_withPorts h v (f := State.supersede e) (fun n s => supersede_withPorts s h v e n)
  have h3 := forEach_withPorts h v (f := State.buryRow e) (fun n s => buryRow_withPorts s h v e n)
  simp only [State.switchStores, withPorts_copies, withPorts_slots, withPorts_row, setCopies_withPorts, setSlots_withPorts, h1, h2,
    withPorts_superseded, withPorts_copy, setSuperseded_withPorts, h3]

@[simp] theorem takePostings_withPorts (ps : List (Nat × Notice)) (fl : List Nat) :
    State.takePostings ps fl (s.withPorts h v) = ((State.takePostings ps fl s).1.withPorts h v, (State.takePostings ps fl s).2) := by
  induction ps generalizing s fl with
  | nil => rfl
  | cons x ps ih =>
    simp only [State.takePostings, withPorts_link, putLink_withPorts, ih]
    rfl

@[simp] theorem raiseOverflows_withPorts (fl : List Nat) : (s.withPorts h v).raiseOverflows fl = (s.raiseOverflows fl).withPorts h v := by
  match fl with
  | [] => rfl
  | [_] => rfl
  | _ :: _ :: _ => rfl

@[simp] theorem switchSet_withPorts (trig : Trigger) (st : StagedSet) :
    (s.withPorts h v).switchSet trig st = (s.switchSet trig st).withPorts h v := by
  unfold State.switchSet
  simp only [withPorts_epoch, setEpoch_withPorts, switchStores_withPorts,
    show ∀ t : State, ∀ n, switchRecordOf trig st.items n (s.withPorts h v) (t.withPorts h v) = switchRecordOf trig st.items n s t from
      fun _ _ => rfl,
    show st.items.flatMap ((s.withPorts h v).postingsOf (s.epoch + 1)) = st.items.flatMap (s.postingsOf (s.epoch + 1)) from rfl,
    setSwitchRecord_withPorts, setStaged_withPorts, takePostings_withPorts, raiseOverflows_withPorts, raise_withPorts, kickAll_withPorts]

@[simp] theorem withdrawRow_withPorts (r : Nat) : (s.withPorts h v).withdrawRow r = (s.withdrawRow r).withPorts h v := by
  unfold State.withdrawRow
  simp only [withPorts_row]
  cases (s.row r).phase <;> simp <;> cases (s.row r).staged <;> simp

@[simp] theorem withdrawSet_withPorts (st : StagedSet) : (s.withPorts h v).withdrawSet st = (s.withdrawSet st).withPorts h v := by
  unfold State.withdrawSet
  rw [forEach_withPorts h v (fun n s => withdrawRow_withPorts s h v n), foldl_withPorts h v (fun s i => by cases i <;> rfl)]
  rfl

/-! ### The snapshot unit -/

@[simp] theorem clearListedPins_withPorts (l : List SaveItem) :
    (s.withPorts h v).clearListedPins l = (s.clearListedPins l).withPorts h v :=
  forEach_withPorts h v (fun n s => clearSnapPin_withPorts s h v n) _ _

@[simp] theorem endSave_withPorts (k : FailKind) : (s.withPorts h v).endSave k = (s.endSave k).withPorts h v := by simp [State.endSave]

@[simp] theorem beginSave_withPorts : (s.withPorts h v).beginSave = s.beginSave.withPorts h v := by
  unfold State.beginSave
  simp only [show (s.withPorts h v).saveItems = s.saveItems from rfl, show (s.withPorts h v).activeSlots = s.activeSlots from rfl]
  rw [forEach_withPorts h v (f := State.setSnapPin) (fun _ _ => rfl)]
  rfl

/-! ### Commands -/

/-- What `f` does with a state and answers is the same whatever the ports hold. -/
def PortBlind (f : State → State × Reply) : Prop :=
  ∀ s h v, f (s.withPorts h v) = ((f s).1.withPorts h v, (f s).2)

theorem portBlind_ite {h v : PortState} {c : Prop} {d d' : Decidable c} {a b a' b' : State × Reply}
    (ha : a' = (a.1.withPorts h v, a.2)) (hb : b' = (b.1.withPorts h v, b.2)) :
    @ite _ c d a' b' = ((@ite _ c d' a b).1.withPorts h v, (@ite _ c d' a b).2) := by
  cases d with
  | isTrue hc => rw [if_pos hc, if_pos hc]; exact ha
  | isFalse hc => rw [if_neg hc, if_neg hc]; exact hb

theorem PortBlind.guardEdit (p : Port) {act : State → State × Reply} (ha : PortBlind act) : PortBlind (State.guardEdit p act) := by
  intro s h v
  unfold State.guardEdit
  simp only [show (s.withPorts h v).editRefusal p = s.editRefusal p from rfl]
  cases s.editRefusal p with
  | none => exact ha s h v
  | some c => rfl

theorem PortBlind.takeOpenEdit (p : Port) : PortBlind (State.takeOpenEdit p) := by
  intro s h v
  unfold State.takeOpenEdit
  by_cases ho : s.opState = .cold ∨ s.opState = .restoring
  · simp only [withPorts_opState, ho, if_true]
  · simp only [withPorts_opState, ho, if_false, withPorts_session]
    cases s.session with
    | none => rfl
    | some x => dsimp only; split <;> rfl

theorem PortBlind.insertSpan (sp : Span) (b : Body) : PortBlind (State.insertSpan sp b) := by
  intro s h v
  unfold State.insertSpan
  simp only [show (s.withPorts h v).insertRefusal sp b = s.insertRefusal sp b from rfl,
    show (s.withPorts h v).lowestFreeRow = s.lowestFreeRow from rfl, show (s.withPorts h v).lowestFreeCopy = s.lowestFreeCopy from rfl,
    insertRow_withPorts]
  cases s.insertRefusal sp b <;> cases s.lowestFreeRow <;> cases s.lowestFreeCopy <;> rfl

theorem PortBlind.amendRow (r : Nat) (sel : Bool) (f : Body → Body) : PortBlind (State.amendRow r sel f) := by
  intro s h v
  unfold State.amendRow
  simp only [withPorts_row, show ∀ c, (s.withPorts h v).bodyOf c = s.bodyOf c from fun _ => rfl,
    show ∀ b, (s.withPorts h v).amendRefusal r sel b = s.amendRefusal r sel b from fun _ => rfl, withPorts_items,
    show (s.withPorts h v).lowestFreeCopy = s.lowestFreeCopy from rfl, rewriteBody_withPorts, startAmend_withPorts]
  cases s.amendRefusal r sel (f (s.bodyOf (orZero (s.row r).amendSource))) with
  | some c => rfl
  | none =>
    dsimp only
    split
    · rfl
    · split
      · rfl
      · cases s.lowestFreeCopy <;> rfl

theorem PortBlind.retireRow (r : Nat) : PortBlind (State.retireRow r) := by
  intro s h v
  unfold State.retireRow
  simp only [show (s.withPorts h v).retireRefusal r = s.retireRefusal r from rfl,
    show (s.withPorts h v).retireOutcome r = s.retireOutcome r from rfl, withPorts_items, retireEffect_withPorts]
  cases s.retireRefusal r with
  | some c => rfl
  | none => dsimp only; split <;> rfl

theorem PortBlind.retireGroup (g : Nat) : PortBlind (State.retireGroup g) := by
  intro s h v
  have h1 := forEach_withPorts h v (f := State.retireEffect) (fun n s => retireEffect_withPorts s h v n)
  unfold State.retireGroup
  simp only [show (s.withPorts h v).groupRows g = s.groupRows g from rfl, withPorts_items, h1]
  split <;> rfl

theorem PortBlind.defineProfile (k : Nat) (pts : List Point) : PortBlind (State.defineProfile k pts) := by
  intro s h v
  unfold State.defineProfile
  simp only [withPorts_slot, withPorts_items, putSlot_withPorts, putItems_withPorts]
  cases (s.slot k).state <;> dsimp only <;> repeat (first | rfl | split)

theorem PortBlind.dropProfile (k : Nat) : PortBlind (State.dropProfile k) := by
  intro s h v
  unfold State.dropProfile
  simp only [withPorts_saving, withPorts_slot, withPorts_items, putSlot_withPorts, putItems_withPorts]
  refine portBlind_ite rfl ?_
  cases (s.slot k).state <;> dsimp only
  · exact portBlind_ite rfl rfl
  · exact portBlind_ite rfl rfl

theorem PortBlind.sealWith (pol : Policy) : PortBlind (State.sealWith pol) := by
  intro s h v
  unfold State.sealWith
  simp only [withPorts_staged, withPorts_items, sealSession_withPorts, State.closeSession, setSession_withPorts]
  repeat (first | rfl | split)

theorem PortBlind.takeSwitch : PortBlind State.takeSwitch := by
  intro s h v
  unfold State.takeSwitch
  simp only [withPorts_opState, withPorts_staged, withPorts_epoch, switchSet_withPorts, withPorts_switchRecord]
  refine portBlind_ite rfl ?_
  cases s.staged with
  | none => rfl
  | some st =>
    dsimp only
    generalize State.switchSet .command st s = t
    exact portBlind_ite rfl rfl

theorem PortBlind.takeWithdraw : PortBlind State.takeWithdraw := by
  intro s h v
  unfold State.takeWithdraw
  simp only [withPorts_opState, withPorts_staged, withPorts_session, withdrawSet_withPorts]
  refine portBlind_ite rfl ?_
  cases s.staged with
  | none => rfl
  | some st => exact portBlind_ite rfl rfl

theorem PortBlind.takeSave : PortBlind State.takeSave := by
  intro s h v
  unfold State.takeSave
  simp only [withPorts_saving, withPorts_opState, beginSave_withPorts]
  exact portBlind_ite rfl (portBlind_ite rfl rfl)

theorem PortBlind.takeAbortSave : PortBlind State.takeAbortSave := by
  intro s h v
  unfold State.takeAbortSave
  simp only [withPorts_snap, endSave_withPorts]
  cases s.snap.savePhase <;> rfl

theorem PortBlind.takeRestore : PortBlind State.takeRestore := by
  intro s h v
  unfold State.takeRestore
  simp only [withPorts_saving, show (s.withPorts h v).restoreOrigin = s.restoreOrigin from rfl, withPorts_epoch]
  refine portBlind_ite rfl ?_
  cases s.restoreOrigin with
  | none => rfl
  | some o => exact portBlind_ite rfl rfl

theorem PortBlind.takeStartEmpty : PortBlind State.takeStartEmpty := by
  intro s h v
  unfold State.takeStartEmpty
  exact portBlind_ite rfl rfl

theorem PortBlind.takeGate (o : OpState) : PortBlind (State.takeGate o) := by
  intro s h v
  unfold State.takeGate
  exact portBlind_ite rfl rfl

theorem PortBlind.takeClearAll : PortBlind State.takeClearAll := by
  intro s h v
  unfold State.takeClearAll
  simp only [show (s.withPorts h v).clearRefusal = s.clearRefusal from rfl]
  cases s.clearRefusal with
  | some c => rfl
  | none => simp [State.clearStores]; rfl

theorem PortBlind.takeSetParam (sel x : Nat) : PortBlind (State.takeSetParam sel x) := by
  intro s h v
  unfold State.takeSetParam
  simp only [withPorts_params, setParams_withPorts, checkArm_withPorts, withPorts_ite]

theorem PortBlind.linkStatus (n : Nat) (c : Bool) : PortBlind (State.linkStatus n c) := by
  intro s h v
  unfold State.linkStatus
  simp only [withPorts_link, putLink_withPorts, withPorts_ite]

/-- No command looks at the ports. -/
theorem PortBlind.perform (p : Port) (k : CmdKind) (args : List Word) : PortBlind (State.perform p k args) := by
  cases k with
  | readStatus => exact fun _ _ _ => rfl
  | readRow => exact fun _ _ _ => rfl
  | readCopy => exact fun _ _ _ => rfl
  | readProfile => exact fun _ _ _ => rfl
  | listSpans => exact fun _ _ _ => rfl
  | query => exact fun _ _ _ => rfl
  | linkStatus => exact linkStatus _ _
  | openEdit => exact takeOpenEdit p
  | insert => exact guardEdit p (insertSpan _ _)
  | amend => exact guardEdit p (amendRow _ _ _)
  | retire => exact guardEdit p (retireRow _)
  | retireGroup => exact guardEdit p (retireGroup _)
  | defineProfile => exact guardEdit p (defineProfile _ _)
  | dropProfile => exact guardEdit p (dropProfile _)
  | sealSession => exact guardEdit p (sealWith _)
  | abandon => exact guardEdit p (fun s h v => by simp [State.itemCountWord])
  | touch => exact guardEdit p (fun _ _ _ => rfl)
  | switch => exact takeSwitch
  | withdraw => exact takeWithdraw
  | save => exact takeSave
  | abortSave => exact takeAbortSave
  | restore => exact takeRestore
  | startEmpty => exact takeStartEmpty
  | hold => exact takeGate _
  | resume => exact takeGate _
  | clearAll => exact takeClearAll
  | resetLink => exact fun s h v => by simp [State.perform, State.takeResetLink]
  | setParam => exact takeSetParam _ _

end

/-! ### A command with others behind it -/

/-- A port replaced, as both ports given. -/
theorem putPort_withPorts (s : State) (p : Port) (x : PortState) :
    s.putPort p x = s.withPorts (match p with | .host => x | .service => s.host) (match p with | .host => s.service | .service => x) := by
  cases p <;> rfl

/-- What a command does and answers is the same whatever a port's fields are, and leaves them. -/
theorem perform_putPort (p q : Port) (k : CmdKind) (args : List Word) (s : State) (x : PortState) :
    (s.putPort q x).perform p k args = ((s.perform p k args).1.putPort q x, (s.perform p k args).2) := by
  have hk := PortsKept.perform p k args s
  rw [putPort_withPorts, PortBlind.perform p k args, putPort_withPorts, hk.host, hk.service]

theorem restartFor_putPort (p r : Port) (q : QueuedCommand) (s : State) (x : PortState) :
    (s.putPort r x).restartFor p q = (s.restartFor p q).putPort r x := by
  have hk := PortsKept.restartTimer p s
  unfold State.restartFor
  cases q.kind with
  | none => rfl
  | some k =>
    dsimp only
    split
    · rw [putPort_withPorts, restartTimer_withPorts, putPort_withPorts, hk.host, hk.service]
    · rfl

theorem carryOut_putPort (p r : Port) (q : QueuedCommand) (s : State) (x : PortState) :
    (s.putPort r x).carryOut p q = ((s.carryOut p q).1.putPort r x, (s.carryOut p q).2) := by
  unfold State.carryOut
  cases q.formError with
  | some c => rfl
  | none => cases q.kind with
    | none => rfl
    | some k => exact perform_putPort p r k q.args s x

/-- A command taken at port `p` with the commands `qs` behind it: the port loses its front command and gains the response, and all else
is as if the port held anything. -/
theorem takeCommand_eq {s : State} {p : Port} {q : QueuedCommand} {qs : List QueuedCommand} (h : (s.port p).commands = q :: qs) :
    s.takeCommand p q = (((s.restartFor p q).carryOut p q).1.putPort p { s.port p with commands := qs }).respond p (headerSeq q.header)
      ((s.restartFor p q).carryOut p q).2 := by
  simp only [State.takeCommand, State.popCommand, h, List.drop_one, List.tail_cons, restartFor_putPort, carryOut_putPort]

@[simp] theorem takeCommand_commands {s : State} {p : Port} {q : QueuedCommand} {qs : List QueuedCommand}
    (h : (s.port p).commands = q :: qs) : ((s.takeCommand p q).port p).commands = qs := by
  rw [takeCommand_eq h, respond_eq]
  simp

/-- The form of a command that has come whole. -/
theorem formError_whole {q : QueuedCommand} {k : CmdKind} (hc : q.cut = false) (hw : q.words.length = headerCount q.header)
    (hk : q.kind = some k) : q.formError =
      if lengthOk k q.args = false then some .badLength else if rangeOk k q.args = false then some .badField else none := by
  simp only [QueuedCommand.formError, hk, hc, hw, ne_eq, not_true, Bool.false_eq_true, false_or]

theorem args_length {q : QueuedCommand} : q.args.length = q.words.length - 1 := by simp [QueuedCommand.args]

theorem headerCount_le (w : Word) : 1 ≤ headerCount w ∧ headerCount w ≤ 64 := by
  have : bitsAt w 16 6 < 64 := (w.extractLsb' 16 6).isLt
  unfold headerCount
  omega

/-- A command of the table but QUERY is its words written at its port. -/
theorem exec_commandOf (p : Port) (seq : Half) (args : List Word) {k : CmdKind} (hk : k ≠ .query) (s : State) :
    exec (commandOf p seq args k) s = .next (s.deliver p k.code seq args) := by
  cases k <;> first | rfl | exact absurd rfl hk

/-- A whole command taken with others behind it does what its row of the table does at a port by itself (R181). -/
theorem takeCommand_whole {s : State} {p : Port} {q : QueuedCommand} {qs : List QueuedCommand} {k : CmdKind}
    (h : (s.port p).commands = q :: qs) (hc : q.cut = false) (hw : q.words.length = headerCount q.header) (hk : q.kind = some k)
    (hq : k ≠ .query) (hr : (s.port p).responses.length + (1 + k.maxData) ≤ 64) :
    s.takeCommand p q =
      ((s.fifoAt p [] false).ran (commandOf p (headerSeq q.header) q.args k)).fifoAt p qs (s.port p).overflow := by
  have hl := headerCount_le q.header
  have ha : q.args.length ≤ 63 := by rw [args_length]; omega
  have hcount : headerCount (headerWord k.code (q.args.length + 1) (headerSeq q.header)) = q.args.length + 1 := by
    rw [headerCount_headerWord]; omega
  have hf : (wholeCommand k.code (headerSeq q.header) q.args).formError = q.formError := by
    rw [formError_whole hc hw hk, formError_whole (k := k) rfl (by rw [wholeCommand_header, hcount]; rfl) (by simp)]
    rfl
  have hcarry : ∀ t, State.carryOut p (wholeCommand k.code (headerSeq q.header) q.args) t = t.carryOut p q := by
    intro t
    simp only [State.carryOut, hf, wholeCommand_kind, CmdKind.ofCode_code, wholeCommand_args, hk]
  have hrest : ∀ t, State.restartFor p (wholeCommand k.code (headerSeq q.header) q.args) t = t.restartFor p q := by
    intro t
    simp only [State.restartFor, wholeCommand_kind, CmdKind.ofCode_code, hk]
  have halone : (s.fifoAt p [] false).port p = { s.port p with commands := [], overflow := false } := by simp [State.fifoAt]
  unfold State.ran
  rw [exec_commandOf p _ _ hq, deliver_taken _ _ (by rw [halone]) (by rw [halone]) ha
    (by rw [halone]; simpa [PortState.hasRoom, QueuedCommand.roomNeeded, Config.fifoWords] using hr) (by simp [hq]), hcarry, hrest,
    takeCommand_eq h, respond_eq, respond_eq]
  simp only [State.fifoAt, restartFor_putPort, carryOut_putPort]
  simp

/-! ### The commands of a port in FIFO order -/

/-- The word counts of 11.4 are those that the form check admits. -/
theorem countFits_iff (k : CmdKind) (args : List Word) : CountFits args k ↔ lengthOk k args = true := by
  cases k with
  | insert => simp only [CountFits, lengthOk, decide_eq_true_eq]; unfold trimCountOfWordB; omega
  | amend => simp only [CountFits, lengthOk, decide_eq_true_eq]; unfold trimCountOfWordB selectsTrims; omega
  | query => simp only [CountFits, lengthOk, Bool.or_eq_true, decide_eq_true_eq]; omega
  | _ => simp only [CountFits, lengthOk, decide_eq_true_eq]; omega

/-- The ranges of R182 and R193 are those that the form check admits. -/
theorem argsInRange_iff {k : CmdKind} {args : List Word} (h : CountFits args k) : ArgsInRange args k ↔ rangeOk k args = true := by
  cases k with
  | query =>
    simp only [CountFits] at h
    simp only [ArgsInRange, rangeOk, Bool.and_eq_true, Bool.or_eq_true, decide_eq_true_eq]
    unfold namedBy Config.channels
    omega
  | sealSession =>
    simp only [ArgsInRange, rangeOk, decide_eq_true_eq]
    constructor
    · rintro (h | h) <;> simp [h]
    · intro h
      have : (argAt args 0).toNat = 0 ∨ (argAt args 0).toNat = 1 := by omega
      exact this.imp (fun e => BitVec.eq_of_toNat_eq e) (fun e => BitVec.eq_of_toNat_eq e)
  | setParam =>
    simp only [ArgsInRange, rangeOk, paramOk, Config.copies]
    split <;> simp_all
  | readStatus | openEdit | insert | retireGroup | abandon | touch | switch | withdraw | save | abortSave
  | restore | startEmpty | hold | resume | clearAll => simp [ArgsInRange, rangeOk]
  | _ =>
    simp only [ArgsInRange, rangeOk, decide_eq_true_eq]
    simp only [namedBy, Config.rows, Config.copies, Config.slots, Config.links, Config.channels]
    omega

/-- What a command that may be taken needs, word by word. -/
theorem ready_iff (q : QueuedCommand) :
    q.ready = true ↔ if q.cut then q.released = true else headerCount q.header ≤ q.words.length := by
  unfold QueuedCommand.ready QueuedCommand.whole
  split <;> simp

/-- A front command that is taken, with the commands behind it. -/
theorem takeable_front {x : PortState} {q : QueuedCommand} (h : x.takeable = some q) : ∃ qs, x.commands = q :: qs ∧
    q.ready = true ∧ x.responses.length + q.roomNeeded ≤ 64 ∧ ¬(q.kind = some .query ∧ q.formError = none) := by
  unfold PortState.takeable at h
  cases hc : x.commands with
  | nil => simp [hc] at h
  | cons y ys =>
    simp only [hc, List.head?_cons] at h
    split at h
    · rename_i hy
      cases h
      exact ⟨ys, rfl, hy.1, of_decide_eq_true hy.2.1, hy.2.2⟩
    · cases h

/-- A front command that can go is the one that is taken. -/
theorem takeable_of_front {x : PortState} {q : QueuedCommand} {qs : List QueuedCommand} (hc : x.commands = q :: qs)
    (hr : q.ready = true) (hm : x.responses.length + q.roomNeeded ≤ 64) (hq : ¬(q.kind = some .query ∧ q.formError = none)) :
    x.takeable = some q := by
  unfold PortState.takeable
  simp only [hc, List.head?_cons]
  exact if_pos ⟨hr, decide_eq_true hm, hq⟩

/-- A command refused for its form: the rest of the FIFO stays, and the idle timer restarts for an edit command of the owner. -/
theorem takeCommand_refused {s : State} {p : Port} {q : QueuedCommand} {qs : List QueuedCommand} {c : Code}
    (h : (s.port p).commands = q :: qs) (hf : q.formError = some c) :
    s.takeCommand p q = ((s.fifoAt p qs (s.port p).overflow).restartFor p q).answered p (headerSeq q.header) c [] := by
  rw [takeCommand_eq h]
  simp only [State.carryOut, hf, State.fifoAt, restartFor_putPort]
  rfl

theorem restartFor_kind {p : Port} {q : QueuedCommand} {k : CmdKind} (hk : q.kind = some k) (s : State) :
    s.restartFor p q = s.restartedBy p k := by
  simp only [State.restartFor, hk, State.restartedBy]

/-- The front command of a port, when it is taken, goes as `FrontGoes` says. -/
theorem takeable_goes {s : State} {p : Port} {q : QueuedCommand} (h : (s.port p).takeable = some q) :
    State.FrontGoes p s (s.takeCommand p q) := by
  obtain ⟨qs, hc, hr, hm, hq⟩ := takeable_front h
  have hr' := (ready_iff q).mp hr
  cases hk : q.kind with
  | none =>
    have hf : q.formError = some .badCommand := by simp [QueuedCommand.formError, hk]
    rw [takeCommand_refused hc hf, show ∀ t, State.restartFor p q t = t from fun t => by simp [State.restartFor, hk]]
    exact .unknown s q qs hc hr' hk (by simpa [QueuedCommand.roomNeeded, hk] using hm)
  | some k =>
    simp only [QueuedCommand.roomNeeded, hk] at hm
    by_cases hx : q.cut = true ∨ q.words.length ≠ headerCount q.header
    · have hf : q.formError = some .badLength := by
        simp only [QueuedCommand.formError, hk]
        rw [if_pos (hx.imp id Or.inl)]
      rw [takeCommand_refused hc hf, restartFor_kind hk]
      refine .miscounted s q qs k hc ?_ hk hm
      split at hr' <;> rename_i hcut
      · rw [if_pos hcut]; exact hr'
      · rw [if_neg hcut]
        rcases hx with hx | hx
        · exact absurd hx hcut
        · omega
    · rw [not_or, not_not, Bool.not_eq_true] at hx
      by_cases hkq : k = .query
      · subst hkq
        have hf := formError_whole hx.1 hx.2 hk
        cases hl : lengthOk .query q.args with
        | false =>
          rw [hl, if_pos rfl] at hf
          rw [takeCommand_refused hc hf, restartFor_kind hk]
          exact .query s q qs _ hc hx.1 hx.2 hk (.inl ⟨fun e => by simp [(countFits_iff _ _).mp e] at hl, rfl⟩) hm
        | true =>
          have hfit := (countFits_iff _ _).mpr hl
          cases hg : rangeOk .query q.args with
          | false =>
            rw [hl, hg, if_neg (by decide), if_pos rfl] at hf
            rw [takeCommand_refused hc hf, restartFor_kind hk]
            exact .query s q qs _ hc hx.1 hx.2 hk (.inr ⟨hfit, fun e => by simp [(argsInRange_iff hfit).mp e] at hg, rfl⟩) hm
          | true => exact absurd ⟨hk, by rw [hf, hl, hg]; rfl⟩ hq
      · rw [takeCommand_whole hc hx.1 hx.2 hk hkq hm]
        exact .whole s q qs k hc hx.1 hx.2 hk hkq hm

/-- A front command that is not taken does not go. -/
theorem not_takeable {s : State} {p : Port} (h : (s.port p).takeable = none) (t : State) : ¬State.FrontGoes p s t := by
  intro hg
  have no : ∀ q qs, (s.port p).commands = q :: qs → q.ready = true → (s.port p).responses.length + q.roomNeeded ≤ 64 →
      ¬(q.kind = some .query ∧ q.formError = none) → False := by
    intro q qs hc hr hm hq
    rw [takeable_of_front hc hr hm hq] at h
    cases h
  cases hg with
  | whole q qs k hc hu hw hk hq hm =>
    exact no q qs hc ((ready_iff q).mpr (by simp [hu, hw])) (by simpa [QueuedCommand.roomNeeded, QueuedCommand.kind, hk] using hm)
      (fun e => hq (Option.some.inj (hk.symm.trans e.1)))
  | unknown q qs hc hr hk hm =>
    exact no q qs hc ((ready_iff q).mpr hr) (by simpa [QueuedCommand.roomNeeded, QueuedCommand.kind, hk] using hm)
      (fun e => by cases hk.symm.trans e.1)
  | miscounted q qs k hc hr hk hm =>
    refine no q qs hc ((ready_iff q).mpr ?_) (by simpa [QueuedCommand.roomNeeded, QueuedCommand.kind, hk] using hm) (fun e => ?_)
    · split <;> rename_i hcut <;> simp only [hcut] at hr
      · exact hr
      · exact Nat.le_of_lt hr
    · have hf := e.2
      simp only [QueuedCommand.formError, show q.kind = some k from hk] at hf
      rw [if_pos] at hf
      · cases hf
      · split at hr <;> rename_i hcut
        · exact .inl hcut
        · exact .inr (.inl (by omega))
  | query q qs c hc hu hw hk hb hm =>
    refine no q qs hc ((ready_iff q).mpr (by simp [hu, hw])) (by simp only [QueuedCommand.roomNeeded, QueuedCommand.kind, hk]; exact hm)
      (fun e => ?_)
    have hf := (formError_whole hu hw hk).symm.trans e.2
    rcases hb with ⟨hl, -⟩ | ⟨hl, hg, -⟩
    · rw [if_pos (by simpa using mt (countFits_iff _ _).mpr hl)] at hf
      cases hf
    · rw [if_neg (by simp [(countFits_iff _ _).mp hl]), if_pos (by simpa using mt (argsInRange_iff hl).mpr hg)] at hf
      cases hf

/-- Every taking that an event makes possible happens in FIFO order. -/
theorem takings_goInOrder (p : Port) :
    ∀ (n : Nat) (s : State), (s.port p).commands.length ≤ n → s.GoInOrder p (State.takings n p s) := by
  intro n
  induction n with
  | zero =>
    intro s h
    refine .stop s (not_takeable ?_)
    rw [PortState.takeable, List.length_eq_zero_iff.mp (Nat.le_zero.mp h)]
    rfl
  | succ n ih =>
    intro s h
    rw [State.takings]
    cases ht : (s.port p).takeable with
    | none => exact .stop s (not_takeable ht)
    | some q =>
      refine .next s _ _ (takeable_goes ht) (ih _ ?_)
      cases hc : (s.port p).commands with
      | nil => simp [PortState.takeable, hc] at ht
      | cons x xs =>
        have hx : x = q := by
          simp only [PortState.takeable, hc, List.head?_cons] at ht
          split at ht
          · exact Option.some.inj ht
          · cases ht
        subst hx
        rw [takeCommand_commands hc]
        simpa [hc] using h

/-- What can be taken at a port is taken, from the front on (R181, log 2). -/
theorem takeAll_goInOrder (s : State) (p : Port) : s.GoInOrder p (s.takeAll p) := takings_goInOrder p _ s (Nat.le_refl _)

end Sys2Proof.Machine
end

