-- ==== Sys2Proof/Laws/Links.lean ====
section
/-! SUPPORT. `Link.Kept` and `State.LinksKept` through every function of a link controller and every shared operation that touches
links. -/

namespace Sys2Proof.Machine

/-- A link controller after hard reset. -/
theorem Link.Kept.reset : Link.reset.Kept := by
  constructor <;> simp [Link.reset]

/-- A change of the fields that `Link.Kept` does not speak of. -/
theorem Link.Kept.of_same {l m : Link} (h : l.Kept) (hp : m.prompts.length ≤ Config.promptsMax) (hr : m.requests =
    l.requests) (hn : m.notices = l.notices)
    (hb : m.badCount ≤ Config.badFrameLimit) (hk : m.resyncNumber = l.resyncNumber) (hf : m.resyncFlag = l.resyncFlag) (hw :
      m.watchCount ≤ l.watchCount)
    (hs : m.sendCount = l.sendCount) (ht : m.tx = l.tx) (hst : m.state = l.state) (hwe : m.welcome = l.welcome ∨ m.welcome =
      none) : m.Kept := by
  constructor
  · exact hp
  · rw [hr]; exact h.requests
  · rw [hn]; exact h.notices
  · exact hb
  · rw [hk]; exact h.resyncNumber
  · exact le_trans hw h.watchCount
  · rw [hs]; exact h.sends
  · rw [ht, hs]; exact h.sending
  · intro hd
    have := h.down (hst ▸ hd)
    rw [hr, hn, hf]
    refine ⟨this.1, this.2.1, this.2.2.1, by omega, ?_⟩
    rcases hwe with h | h
    · rw [h]; exact this.2.2.2.2
    · exact h

/-- Setting the resync flag on a link that is not DOWN (R155). -/
theorem Link.Kept.setResync {l : Link} (h : l.Kept) (hd : l.state ≠ .down) : l.setResync.Kept := by
  constructor
  · exact h.prompts
  · exact h.requests
  · simp [Link.setResync]
  · exact h.badCount
  · simp [Link.setResync, Config.maxU16]; omega
  · exact h.watchCount
  · simp [Link.setResync]
  · simp [Link.setResync, Config.sendLimit]
  · intro h'; exact absurd h' hd

/-- A change of the notice queue that starts the sends over or leaves them. -/
theorem Link.Kept.notices_sends {l : Link} (h : l.Kept) {ns : List Notice} {f : Bool} {t : ResendTimer} {c : Nat}
    (hn : ns.length ≤ Config.noticesMax) (hc : c = 0 ∨ c = l.sendCount) (hd : l.state ≠ .down) :
    ({ l with notices := ns, sendCount := c, timer := t, resyncFlag := f } : Link).Kept := by
  constructor
  · exact h.prompts
  · exact h.requests
  · exact hn
  · exact h.badCount
  · exact h.resyncNumber
  · exact h.watchCount
  · have := h.sends; rcases hc with rfl | rfl
    · simp
    · exact this
  · intro f hf hc'
    have := h.sending f hf hc'
    rcases hc with rfl | rfl
    · simp [Config.sendLimit]
    · exact this
  · intro h'; exact absurd h' hd

theorem Link.Kept.takePosting {l : Link} (h : l.Kept) (x : Notice) : (l.takePosting x).1.Kept := by
  unfold Link.takePosting
  split
  · exact h
  · rename_i hd
    split
    · split
      · exact h.notices_sends (by simpa [mergeNotice] using h.notices) (.inl rfl) hd
      · exact h.notices_sends (f := l.resyncFlag) (t := l.timer) (by simpa [mergeNotice] using h.notices) (.inr rfl) hd
    · split
      · rename_i h1; exact h.notices_sends (f := l.resyncFlag) (t := l.timer) (by simp; omega) (.inr rfl) hd
      · exact h.setResync hd

theorem Link.Kept.countStray {l : Link} (h : l.Kept) : l.countStray.Kept :=
  h.of_same h.prompts rfl rfl h.badCount rfl rfl (le_refl _) rfl rfl rfl (.inl rfl)

theorem Link.Kept.ackNotice {l : Link} (h : l.Kept) (r e : Nat) (hd : l.state ≠ .down) : (l.ackNotice r e).Kept := by
  unfold Link.ackNotice
  split
  · exact h.countStray
  · rename_i y ys hn
    split
    · exact h.notices_sends (by have := h.notices; rw [hn] at this; simp at this ⊢; omega) (.inl rfl) hd
    · exact h.countStray

theorem Link.Kept.ackResync {l : Link} (h : l.Kept) (k : Nat) (hd : l.state ≠ .down) : (l.ackResync k).Kept := by
  unfold Link.ackResync
  split
  · exact h.notices_sends (ns := l.notices) h.notices (.inl rfl) hd
  · exact h.countStray

theorem Link.Kept.addPrompt {l : Link} (h : l.Kept) (t r) : (l.addPrompt t r).Kept := by
  unfold Link.addPrompt
  split
  · exact h.of_same (by simp; omega) rfl rfl h.badCount rfl rfl (le_refl _) rfl rfl rfl (.inl rfl)
  · exact h

theorem Link.Kept.arrive {l : Link} (h : l.Kept) (t a) (hd : l.state ≠ .down) : (l.arrive t a).Kept := by
  unfold Link.arrive
  split
  · rename_i hl
    exact ⟨h.prompts, by simp; omega, h.notices, h.badCount, h.resyncNumber, h.watchCount, h.sends, h.sending,
      fun h' => absurd h' hd⟩
  · exact h.addPrompt _ _

theorem Link.Kept.returnUp {l : Link} (h : l.Kept) : l.returnUp.Kept := by
  unfold Link.returnUp
  split
  · rename_i hq
    have := h.setResync (by rw [hq]; simp)
    exact ⟨this.prompts, this.requests, this.notices, this.badCount, this.resyncNumber, this.watchCount, this.sends,
      this.sending, fun h' => by simp at h'⟩
  · exact h

theorem Link.returnUp_ne {l : Link} (hd : l.state ≠ .down) : l.returnUp.state ≠ .down := by
  unfold Link.returnUp; split
  · simp
  · exact hd

theorem Link.Kept.handOn {l : Link} (h : l.Kept) (t f) : (l.handOn t f).Kept := by
  unfold Link.handOn
  split
  · exact h
  · split
    · exact h
    · rename_i hd; exact h.returnUp.arrive _ _ (Link.returnUp_ne hd)
  · split
    · exact h
    · rename_i hd; exact h.returnUp.ackNotice _ _ (Link.returnUp_ne hd)
  · split
    · exact h
    · exact h.returnUp.countStray
    · rename_i hu; exact h.ackResync _ (by rw [hu]; simp)

theorem Link.Kept.afterReset (l : Link) (h : l.Kept) : l.afterReset.Kept := by
  constructor <;> simp [Link.afterReset, h.resyncNumber]

theorem Link.Kept.begun {l : Link} (h : l.Kept) {f : TxFrame} (hf : f.content.isCounted = true →
    l.sendCount < Config.sendLimit) :
    ({ l with tx := some f } : Link).Kept :=
  ⟨h.prompts, h.requests, h.notices, h.badCount, h.resyncNumber, h.watchCount, h.sends,
    fun g hg hc => by simp at hg; subst hg; exact hf hc, h.down⟩

theorem Link.Kept.idle {l : Link} (h : l.Kept) : ({ l with tx := none } : Link).Kept :=
  ⟨h.prompts, h.requests, h.notices, h.badCount, h.resyncNumber, h.watchCount, h.sends, fun g hg => by simp at hg, h.down⟩

theorem markSending_length : ∀ l, (markSending l).length = l.length := by
  intro l; induction l with
  | nil => rfl
  | cons a l ih => simp [markSending]; split <;> simp [ih]

theorem markTaken_length (d e) : ∀ l, (markTaken d e l).length = l.length := by
  intro l; induction l with
  | nil => rfl
  | cons a l ih => simp [markTaken]; split <;> simp [ih]

theorem dropSending_length : ∀ l, (dropSending l).length ≤ l.length := by
  intro l; induction l with
  | nil => simp [dropSending]
  | cons a l ih => simp [dropSending]; split <;> simp [ih]

theorem Link.due_lt {l : Link} (h : l.due = true) : l.sendCount < Config.sendLimit := by
  simp [Link.due] at h; rcases h with h | h
  · simp [h, Config.sendLimit]
  · exact h.2

theorem Link.Kept.requests_le {l : Link} (h : l.Kept) {rs : List Request} (hr : rs.length ≤ l.requests.length) :
    ({ l with requests := rs } : Link).Kept :=
  ⟨h.prompts, le_trans hr h.requests, h.notices, h.badCount, h.resyncNumber, h.watchCount, h.sends, h.sending,
    fun hd => by have := h.down hd; refine ⟨?_, this.2⟩; rw [this.1] at hr; simpa using hr⟩

/-- A frame begins only while its sends are below the limit (R148, R150). -/
theorem nextFrame_kept {s : State} {n f l} (h : (s.link n).Kept) (hn : s.nextFrame n = some (f, l)) :
    l.Kept ∧ (f.content.isCounted = true → l.sendCount < Config.sendLimit) := by
  unfold State.nextFrame at hn
  dsimp only at hn
  split at hn
  · simp at hn; rw [← hn.1, ← hn.2]; exact ⟨h, by simp [Content.isCounted]⟩
  · split at hn
    · rename_i hd
      simp at hn; rw [← hn.1, ← hn.2]; exact ⟨h, fun _ => Link.due_lt hd.2.2⟩
    · split at hn
      · rename_i x hx
        split at hx
        · rename_i hd
          simp at hn; rw [← hn.1, ← hn.2]; exact ⟨h, fun _ => Link.due_lt hd.2.2⟩
        · simp at hx
      · split at hn
        · simp at hn; rw [← hn.1, ← hn.2]
          refine ⟨h.requests_le (by rw [markSending_length]), ?_⟩
          simp only [State.answerContent]
          split <;> simp [Content.isCounted]
        · split at hn
          · simp at hn; rw [← hn.1, ← hn.2]; exact ⟨h, by simp [Content.isCounted]⟩
          · simp at hn

namespace State.LinksKept
variable {s : State}

/-- One link replaced by one that is kept. -/
theorem put (h : s.LinksKept) (n : Nat) {x : Link} (hx : x.Kept) : (s.putLink n x).LinksKept := by
  intro k
  rw [State.link_putLink]; split
  · exact hx
  · exact h k

/-- A change outside the links. -/
theorem of_links {t : State} (h : s.LinksKept) (ht : t.links = s.links) : t.LinksKept := by
  intro k; unfold State.link; rw [ht]; exact h k

theorem raise (o : Occurrence) (h : s.LinksKept) : (s.raise o).LinksKept := h.of_links rfl

theorem each {f : Nat → State → State} (hf : ∀ n s, State.LinksKept s → (f n s).LinksKept) (l : List Nat) (h : s.LinksKept) :
    (State.forEach f l s).LinksKept := by
  induction l generalizing s with
  | nil => exact h
  | cons n ns ih => exact ih (hf n s h)

theorem fold {β : Type} {f : State → β → State} (hf : ∀ s b, State.LinksKept s → (f s b).LinksKept) (l : List β) (h :
    s.LinksKept) :
    (l.foldl f s).LinksKept := by
  induction l generalizing s with
  | nil => exact h
  | cons n ns ih => exact ih (hf s n h)

theorem watchFalls (n : Nat) (h : s.LinksKept) : (s.watchFalls n).LinksKept :=
  h.put n ((h n).of_same (h n).prompts rfl rfl (h n).badCount rfl rfl (Nat.sub_le _ _) rfl rfl rfl (.inl rfl))

theorem emptyWatchSet (r : Nat) (h : s.LinksKept) : (s.emptyWatchSet r).LinksKept :=
  each (fun n _ h => watchFalls n h) _ (h.of_links rfl)

theorem freeRow (r : Nat) (h : s.LinksKept) : (s.freeRow r).LinksKept := (emptyWatchSet r h).of_links rfl

theorem freeCopy (c : Nat) (h : s.LinksKept) : (s.freeCopy c).LinksKept := by
  apply h.of_links
  unfold State.freeCopy State.checkArm State.dropRef; dsimp only
  cases (s.copy c).profile <;> (dsimp only; split <;> rfl)

theorem reapRow (r) (h : s.LinksKept) : (s.reapRow r).LinksKept := by
  unfold State.reapRow; split
  · exact freeRow r h
  · exact h

theorem settleCopy (c) (h : s.LinksKept) : (s.settleCopy c).LinksKept := by
  unfold State.settleCopy; split
  · split
    · exact freeCopy c h
    · exact reapRow _ (freeCopy c h)
  · exact h

theorem dropFetchPin (c) (h : s.LinksKept) : (s.dropFetchPin c).LinksKept := settleCopy c (h.of_links rfl)

theorem clearSnapPin (c) (h : s.LinksKept) : (s.clearSnapPin c).LinksKept := by
  unfold State.clearSnapPin; split
  · exact settleCopy c (h.of_links rfl)
  · exact h

theorem kick (n : Nat) (h : s.LinksKept) : (s.kick n).LinksKept := by
  unfold State.kick; split
  · split
    · rename_i f l hn
      have := nextFrame_kept (h n) hn
      exact h.put n (this.1.begun this.2)
    · exact h
  · exact h

theorem kickAll (h : s.LinksKept) : s.kickAll.LinksKept := each (fun n _ h => kick n h) _ h

theorem frameEnds (n) (h : s.LinksKept) : (s.frameEnds n).LinksKept := kick n (h.put n (h n).idle)

theorem releaseRequest (q) (h : s.LinksKept) : (s.releaseRequest q).LinksKept := by
  have h1 : State.LinksKept (match q.boundCopy with | some c => s.dropFetchPin c | none => s) := by
    split
    · exact dropFetchPin _ h
    · exact h
  unfold State.releaseRequest; dsimp only; split
  · exact h1.of_links rfl
  · exact h1

theorem releaseRequests (l) (h : s.LinksKept) : (State.releaseRequests l s).LinksKept := by
  induction l generalizing s with
  | nil => exact h
  | cons q qs ih => exact ih (releaseRequest q h)

theorem resetLink (n) (h : s.LinksKept) : (s.resetLink n).LinksKept := by
  have h2 : (State.releaseRequests (s.link n).requests (s.leaveWatchSets n)).LinksKept := releaseRequests _ (h.of_links rfl)
  exact h2.put n (Link.Kept.afterReset _ (h2 n))

theorem resetLinkDown (n) (h : s.LinksKept) : (s.resetLinkDown n).LinksKept := by
  unfold State.resetLinkDown; split
  · exact resetLink n h
  · exact raise _ (resetLink n h)

theorem badFrame (e rx n) (h : s.LinksKept) : (s.badFrame e rx n).LinksKept := by
  have hb : (if (s.link n).badCount < Config.badFrameLimit then (s.link n).badCount + 1 else (s.link n).badCount)
      ≤ Config.badFrameLimit := by have := (h n).badCount; split <;> omega
  have h1 : (s.countedBad n e rx).LinksKept :=
    h.put n ((h n).of_same (h n).prompts rfl rfl hb rfl rfl (le_refl _) rfl rfl rfl (.inl rfl))
  unfold State.badFrame; dsimp only; split
  · exact resetLinkDown n h1
  · exact h1

theorem moveTo (rx n) (h : s.LinksKept) : (s.moveTo rx n).LinksKept :=
  h.put n ((h n).of_same (h n).prompts rfl rfl (h n).badCount rfl rfl (le_refl _) rfl rfl rfl (.inl rfl))

theorem answerHello (n tag level) (h : s.LinksKept) : (s.answerHello n tag level).LinksKept := by
  unfold State.answerHello; split
  · refine raise _ (h.put n ?_)
    have k := h n
    exact ⟨k.prompts, k.requests, by simp [Link.setResync], k.badCount, by simp [Link.setResync, Config.maxU16]; omega,
      k.watchCount, by simp [Link.setResync],
      by simp [Link.setResync, Config.sendLimit], fun h' => by simp at h'⟩
  · exact h.put n ((h n).addPrompt _ _)

theorem takeHello (n tag level) (h : s.LinksKept) : (s.takeHello n tag level).LinksKept := by
  unfold State.takeHello; split
  · exact answerHello _ _ _ h
  · split
    · exact answerHello _ _ _ (resetLink n h)
    · exact answerHello _ _ _ (raise _ (resetLink n h))

theorem goodFrame (n tag f) (h : s.LinksKept) : (s.goodFrame n tag f).LinksKept := by
  have h1 := h.put n (x := { s.link n with rx := .outside, badCount := 0 })
    ((h n).of_same (h n).prompts rfl rfl (by simp) rfl rfl (le_refl _) rfl rfl rfl (.inl rfl))
  unfold State.goodFrame; dsimp only
  apply kick
  cases f with
  | hello level => exact takeHello _ _ _ h1
  | ask a => exact h1.put n ((h1 n).handOn _ _)
  | ackNotice r e => exact h1.put n ((h1 n).handOn _ _)
  | ackResync k => exact h1.put n ((h1 n).handOn _ _)

theorem receiveFrame (n tag f) (h : s.LinksKept) : (s.receiveFrame n tag f).LinksKept := by
  unfold State.receiveFrame; split
  · exact goodFrame _ _ _ h
  · exact h

theorem receiveWord (w n) (h : s.LinksKept) : (s.receiveWord w n).LinksKept := by
  unfold State.receiveWord State.badWord State.headWord State.bodyWord State.tailWord
  repeat' split
  all_goals first | exact h | exact badFrame _ _ _ h | exact moveTo _ _ h | exact goodFrame _ _ _ h

theorem loseLock (n) (h : s.LinksKept) : (s.loseLock n).LinksKept := by
  have h1 := h.put n (x := { s.link n with locked := false, rx := .outside })
    ((h n).of_same (h n).prompts rfl rfl (h n).badCount rfl rfl (le_refl _) rfl rfl rfl (.inl rfl))
  unfold State.loseLock; dsimp only; split
  · exact h1
  · exact resetLinkDown n h1

theorem completeRequest (n) (h : s.LinksKept) : (s.completeRequest n).LinksKept := by
  unfold State.completeRequest; split
  · exact releaseRequest _ (h.put n ((h n).requests_le (dropSending_length _)))
  · exact h

theorem answerEnds (n c) (h : s.LinksKept) : (s.answerEnds n c).LinksKept := by
  unfold State.answerEnds; dsimp only
  have h1 := completeRequest n h
  refine frameEnds n (h1.put n ?_)
  unfold Link.endCount; split
  · exact (h1 n).of_same (h1 n).prompts rfl rfl (h1 n).badCount rfl rfl (le_refl _) rfl rfl rfl (.inl rfl)
  · exact h1 n

theorem timerRunsOut (n) (h : s.LinksKept) : (s.timerRunsOut n).LinksKept := by
  have h1 := (h n).of_same (m := { s.link n with timer := .runOut })
    (h n).prompts rfl rfl (h n).badCount rfl rfl (le_refl _) rfl rfl rfl (.inl rfl)
  unfold State.timerRunsOut; dsimp only; split
  · exact kick n (h.put n h1)
  · split
    · refine raise _ (h.put n ?_)
      exact ⟨h1.prompts, h1.requests, h1.notices, h1.badCount, h1.resyncNumber, h1.watchCount, h1.sends, h1.sending,
        fun h' => by simp at h'⟩
    · exact h.put n h1

theorem resyncUpLinks (h : s.LinksKept) : s.resyncUpLinks.LinksKept := by
  refine each (fun n s h => ?_) _ h
  split
  · exact h
  · rename_i hd; exact h.put n ((h n).setResync hd)

theorem clearLinks (h : s.LinksKept) : s.clearLinks.LinksKept := by
  refine each (fun n s h => h.put n ?_) _ h
  have k := h n
  have h1 : ({ s.link n with notices := [], sendCount := 0, timer := .stopped, watchCount := 0 } : Link).Kept :=
    ⟨k.prompts, k.requests, by simp, k.badCount, k.resyncNumber, by simp, by simp, by simp [Config.sendLimit],
      fun hd => by have := k.down hd; simp [this]⟩
  unfold Link.cleared; dsimp only; split
  · exact h1
  · rename_i hd; exact h1.setResync hd

theorem takePostings (ps) (fl) (h : s.LinksKept) : (State.takePostings ps fl s).1.LinksKept := by
  induction ps generalizing s fl with
  | nil => exact h
  | cons p ps ih => obtain ⟨m, x⟩ := p; exact ih _ (h.put m ((h m).takePosting x))

theorem takeRequest (n d) (h : s.LinksKept) : (s.takeRequest n d).LinksKept := by
  unfold State.takeRequest; dsimp only
  apply kick
  have h1 : (s.placeHolds d).LinksKept := by
    apply h.of_links
    unfold State.placeHolds; dsimp only
    cases d.slot <;> cases d.copy <;> rfl
  exact LinksKept.of_links (s := (s.placeHolds d).putLink n _) (h1.put n ((h1 n).requests_le (by rw [markTaken_length]))) rfl

theorem addWatch (n r) (h : s.LinksKept) (hd : (s.link n).state ≠ .down) (hw : (s.row r).watch.contains n = true ∨
    (s.link n).watchCount < Config.watchMax) :
    (s.addWatch n r).LinksKept := by
  unfold State.addWatch; split
  · exact h
  · rename_i hc
    have hw' := hw.resolve_left hc
    have k := h n
    exact LinksKept.put (s := s.putRow r _) (h.of_links rfl) n ⟨k.prompts, k.requests, k.notices, k.badCount, k.resyncNumber,
      by exact hw', k.sends, k.sending, fun h' => absurd h' hd⟩

theorem removeWatch (n r) (h : s.LinksKept) : (s.removeWatch n r).LinksKept := by
  unfold State.removeWatch; split
  · exact watchFalls n (s := s.putRow r _) (h.of_links rfl)
  · exact h

end State.LinksKept

end Sys2Proof.Machine
end

