-- ==== Sys2Proof/Laws/Stores.lean ====
section
/-! SUPPORT. The copy pool, the rows, frame boundaries and postings after their shared operations,
    and the stores after a switch:
each operation's whole effect, said once. -/

namespace Sys2Proof.Machine

/-- What no single application changes, the repetition leaves. -/
theorem forEach_keep {α : Type} {f : Nat → State → State} (g : State → α) (h : ∀ n s, g (f n s) = g s) (l : List Nat)
    (s : State) :
    g (State.forEach f l s) = g s := by
  induction l generalizing s with
  | nil => rfl
  | cons n ns ih => simp [State.forEach, ih, h]

@[simp] theorem dropRef_row (k s r) : (State.dropRef k s).row r = s.row r := by cases k <;> rfl
@[simp] theorem dropRef_rows (k s) : (State.dropRef k s).rows = s.rows := by cases k <;> rfl
@[simp] theorem dropRef_copy (k s r) : (State.dropRef k s).copy r = s.copy r := by cases k <;> rfl
@[simp] theorem dropRef_link (k s r) : (State.dropRef k s).link r = s.link r := by cases k <;> rfl
@[simp] theorem dropRef_links (k s) : (State.dropRef k s).links = s.links := by cases k <;> rfl
@[simp] theorem dropRef_superseded (k s) : (State.dropRef k s).superseded = s.superseded := by cases k <;> rfl
@[simp] theorem dropRef_eventSet (k s) : (State.dropRef k s).eventSet = s.eventSet := by cases k <;> rfl
@[simp] theorem dropRef_freeCount (k s) : (State.dropRef k s).freeCount = s.freeCount := by cases k <;> rfl
@[simp] theorem checkArm_row (s r) : (State.checkArm s).row r = s.row r := by unfold State.checkArm; split <;> rfl
@[simp] theorem checkArm_copy (s r) : (State.checkArm s).copy r = s.copy r := by unfold State.checkArm; split <;> rfl
@[simp] theorem checkArm_slot (s r) : (State.checkArm s).slot r = s.slot r := by unfold State.checkArm; split <;> rfl
@[simp] theorem checkArm_link (s r) : (State.checkArm s).link r = s.link r := by unfold State.checkArm; split <;> rfl
@[simp] theorem checkArm_superseded (s) : (State.checkArm s).superseded = s.superseded :=
    by unfold State.checkArm; split <;> rfl
@[simp] theorem checkArm_eventSet (s) : (State.checkArm s).eventSet = s.eventSet := by unfold State.checkArm; split <;> rfl
@[simp] theorem checkArm_freeCount (s) : (State.checkArm s).freeCount = s.freeCount := by unfold State.checkArm; split <;> rfl

@[simp] theorem freeCopy_row (c s r) : (State.freeCopy c s).row r = s.row r := by simp [State.freeCopy]
@[simp] theorem freeCopy_copy (c s k) : (State.freeCopy c s).copy k = if k = c then Copy.free else s.copy k :=
    by simp [State.freeCopy]
@[simp] theorem freeCopy_link (c s k) : (State.freeCopy c s).link k = s.link k := by simp [State.freeCopy]
@[simp] theorem freeCopy_superseded (c s) : (State.freeCopy c s).superseded =
    s.superseded.filter (fun d => decide (d ≠ c)) := by simp [State.freeCopy]
@[simp] theorem freeCopy_eventSet (c s) : (State.freeCopy c s).eventSet = s.eventSet := by simp [State.freeCopy]

/-- Freeing a copy lowers the reference count of the slot its body names, and touches no other slot (R29, R48). -/
theorem freeCopy_slot (c s k) : ((State.freeCopy c s).slot k) = if (s.copy c).profile =
    some k then { s.slot k with refCount := (s.slot k).refCount - 1 } else s.slot k := by
  simp [State.freeCopy]
  unfold State.dropRef
  cases h : (s.copy c).profile with
  | none => simp
  | some j => 
    by_cases hk : k = j
    · subst hk; simp
    · simp [hk]; intro h; exact absurd h.symm hk

/-! ### Supersession -/

/-- A copy after the switch's supersession (R34). -/
def Copy.afterSupersede (e : Nat) (x : Copy) : Copy :=
  if ({ x with state := .superseded, supersededAt := some e } : Copy).unpinned then Copy.free
  else { x with state := .superseded, supersededAt := some e }

/-- Superseding twice is superseding once. -/
theorem afterSupersede_idem (e x) : Copy.afterSupersede e (Copy.afterSupersede e x) = Copy.afterSupersede e x := by
  unfold Copy.afterSupersede
  split
  · simp [Copy.unpinned, Copy.free]
  · rfl

/-- Supersession touches one copy (R34). -/
theorem supersede_copy (e c s k) : (State.supersede e c s).copy k = if k =
    c then Copy.afterSupersede e (s.copy c) else s.copy k := by
  unfold State.supersede Copy.afterSupersede
  dsimp only
  split
  · simp; split <;> simp_all
  · simp

@[simp] theorem supersede_row (e c s r) : (State.supersede e c s).row r = s.row r :=
    by unfold State.supersede; dsimp only; split <;> simp
@[simp] theorem supersede_link (e c s r) : (State.supersede e c s).link r = s.link r :=
    by unfold State.supersede; dsimp only; split <;> simp

theorem copy_forEach_supersede (e : Nat) : ∀ (l : List Nat) (s : State) (k : Nat),
    (State.forEach (State.supersede e) l s).copy k = if k ∈ l then Copy.afterSupersede e (s.copy k) else s.copy k := by
  intro l
  induction l with
  | nil => intro s k; simp [State.forEach]
  | cons c l ih =>
    intro s k
    simp only [State.forEach, ih, supersede_copy, List.mem_cons]
    by_cases hk : k = c
    · subst hk; simp [afterSupersede_idem]
    · simp [hk]

theorem slot_forEach_supersede (e : Nat) : ∀ (l : List Nat) (s : State) (k : Nat),
    ((State.forEach (State.supersede e) l s).slot k).state = (s.slot k).state ∧
    ((State.forEach (State.supersede e) l s).slot k).activated = (s.slot k).activated ∧
    ((State.forEach (State.supersede e) l s).slot k).points = (s.slot k).points ∧
    ((State.forEach (State.supersede e) l s).slot k).readerCount = (s.slot k).readerCount := by
  intro l
  induction l with
  | nil => intro s k; simp [State.forEach]
  | cons c l ih =>
    intro s k
    have := ih (State.supersede e c s) k
    simp only [State.forEach]
    rw [this.1, this.2.1, this.2.2.1, this.2.2.2]
    unfold State.supersede; dsimp only
    split
    · rw [freeCopy_slot]; split <;> simp
    · simp

theorem superseded_forEach_supersede (e : Nat) : ∀ (l : List Nat) (s : State),
    (State.forEach (State.supersede e) l s).superseded.Sublist s.superseded := by
  intro l
  induction l with
  | nil => intro s; exact List.Sublist.refl _
  | cons c l ih =>
    intro s
    refine (ih _).trans ?_
    unfold State.supersede; dsimp only
    split
    · simp
    · exact List.Sublist.refl _

/-! ### Watch sets, freed rows -/

@[simp] theorem forEach_watchFalls_row (l s r) : (State.forEach State.watchFalls l s).row r = s.row r :=
  forEach_keep (f := State.watchFalls) (fun s => s.row r) (fun _ _ => rfl) l s
@[simp] theorem forEach_watchFalls_copies (l s) : (State.forEach State.watchFalls l s).copies = s.copies :=
  forEach_keep (f := State.watchFalls) (fun s => s.copies) (fun _ _ => rfl) l s
@[simp] theorem forEach_watchFalls_slots (l s) : (State.forEach State.watchFalls l s).slots = s.slots :=
  forEach_keep (f := State.watchFalls) (fun s => s.slots) (fun _ _ => rfl) l s
@[simp] theorem forEach_watchFalls_superseded (l s) : (State.forEach State.watchFalls l s).superseded = s.superseded :=
  forEach_keep (f := State.watchFalls) (fun s => s.superseded) (fun _ _ => rfl) l s
@[simp] theorem forEach_watchFalls_eventSet (l s) : (State.forEach State.watchFalls l s).eventSet = s.eventSet :=
  forEach_keep (f := State.watchFalls) (fun s => s.eventSet) (fun _ _ => rfl) l s

/-- Two links that differ at most in the watch count. -/
def SameButWatchCount (l m : Link) : Prop := m = { l with watchCount := m.watchCount }

/-- Falling watch counts touch nothing else of a link. -/
theorem link_forEach_watchFalls : ∀ (l s n), SameButWatchCount (s.link n) ((State.forEach State.watchFalls l s).link n) := by
  intro l
  induction l with
  | nil => intro s n; rfl
  | cons a l ih =>
    intro s n
    have := ih (State.watchFalls a s) n
    simp only [State.forEach, SameButWatchCount] at this ⊢
    rw [this]
    unfold State.watchFalls
    simp only [State.link_putLink]
    split
    · rename_i h; subst h; rfl
    · rfl

theorem emptyWatchSet_row (r s k) : (State.emptyWatchSet r s).row k = if k = r then { s.row r with watch :=
    [] } else s.row k := by
  simp [State.emptyWatchSet]

@[simp] theorem emptyWatchSet_copies (r s) : (State.emptyWatchSet r s).copies = s.copies := by simp [State.emptyWatchSet]
@[simp] theorem emptyWatchSet_copy (r s k) : (State.emptyWatchSet r s).copy k = s.copy k := by simp [State.copy]
@[simp] theorem emptyWatchSet_slots (r s) : (State.emptyWatchSet r s).slots = s.slots := by simp [State.emptyWatchSet]
@[simp] theorem emptyWatchSet_superseded (r s) : (State.emptyWatchSet r s).superseded = s.superseded :=
    by simp [State.emptyWatchSet]
@[simp] theorem emptyWatchSet_eventSet (r s) : (State.emptyWatchSet r s).eventSet = s.eventSet :=
    by simp [State.emptyWatchSet]

theorem emptyWatchSet_link (r s n) : SameButWatchCount (s.link n) ((State.emptyWatchSet r s).link n) := by
  have := link_forEach_watchFalls (s.row r).watch (s.putRow r { s.row r with watch := [] }) n
  simpa [State.emptyWatchSet] using this

theorem freeRow_row (r s k) : (State.freeRow r s).row k = if k = r then Row.free else s.row k := by
  simp [State.freeRow, emptyWatchSet_row]; split <;> simp_all

@[simp] theorem freeRow_copies (r s) : (State.freeRow r s).copies = s.copies := by simp [State.freeRow]
@[simp] theorem freeRow_slots (r s) : (State.freeRow r s).slots = s.slots := by simp [State.freeRow]
@[simp] theorem freeRow_superseded (r s) : (State.freeRow r s).superseded = s.superseded := by simp [State.freeRow]
@[simp] theorem freeRow_eventSet (r s) : (State.freeRow r s).eventSet = s.eventSet := by simp [State.freeRow]

theorem freeRow_link (r s n) : SameButWatchCount (s.link n) ((State.freeRow r s).link n) := by
  simpa [State.freeRow] using emptyWatchSet_link r s n

/-! ### Dying rows -/

/-- Burial touches its own row only, and only a DYING one (R17). -/
theorem buryRow_row (e r s k) : (State.buryRow e r s).row k = s.row k ∨
    (k = r ∧ (s.row r).phase = .dying ∧ ((State.buryRow e r s).row k = Row.free ∨ (State.buryRow e r s).row k =
      { s.row r with phase := .dead, dies := some e, watch := [] })) := by
  unfold State.buryRow
  split
  · dsimp only
    by_cases hk : k = r
    · subst hk
      right
      refine ⟨rfl, by assumption, ?_⟩
      split
      · right; simp [emptyWatchSet_row]
      · left; simp [freeRow_row]
    · left
      split
      · simp [emptyWatchSet_row, hk]
      · simp [freeRow_row, emptyWatchSet_row, hk]
  · exact .inl rfl

theorem buryRow_phase (e r s) : ((State.buryRow e r s).row r).phase ≠ .dying := by
  by_cases h : (s.row r).phase = .dying
  · unfold State.buryRow; rw [if_pos h]; dsimp only; split
    · simp
    · simp [freeRow_row, Row.free]
  · unfold State.buryRow; rw [if_neg h]; exact h

@[simp] theorem buryRow_copies (e r s) : (State.buryRow e r s).copies = s.copies := by
  unfold State.buryRow; split
  · dsimp only; split <;> simp
  · rfl

@[simp] theorem buryRow_slots (e r s) : (State.buryRow e r s).slots = s.slots := by
  unfold State.buryRow; split
  · dsimp only; split <;> simp
  · rfl

@[simp] theorem buryRow_superseded (e r s) : (State.buryRow e r s).superseded = s.superseded := by
  unfold State.buryRow; split
  · dsimp only; split <;> simp
  · rfl

theorem buryRow_link (e r s n) : SameButWatchCount (s.link n) ((State.buryRow e r s).link n) := by
  unfold State.buryRow; split
  · dsimp only; split
    · simpa using emptyWatchSet_link r s n
    · have h1 := emptyWatchSet_link r s n
      have h2 := freeRow_link r (s.emptyWatchSet r) n
      unfold SameButWatchCount at *
      rw [h2, h1]
  · rfl

theorem link_forEach_buryRow (e) : ∀ l s n, SameButWatchCount (s.link n) ((State.forEach (State.buryRow e) l s).link n) := by
  intro l
  induction l with
  | nil => intro s n; rfl
  | cons a l ih =>
    intro s n
    have h1 := ih (State.buryRow e a s) n
    have h2 := buryRow_link e a s n
    unfold SameButWatchCount at *
    simp only [State.forEach]
    rw [h1, h2]

/-- Burial of a list of rows: the DYING ones among them become DEAD or FREE (R17). -/
theorem row_forEach_buryRow (e) : ∀ (l : List Nat) (s : State) (k : Nat),
    ((s.row k).phase ≠ .dying ∨ k ∉ l → (State.forEach (State.buryRow e) l s).row k = s.row k) ∧
    ((s.row k).phase = .dying → k ∈ l → (State.forEach (State.buryRow e) l s).row k = Row.free ∨
      (State.forEach (State.buryRow e) l s).row k = { s.row k with phase := .dead, dies := some e, watch := [] }) := by
  intro l
  induction l with
  | nil => intro s k; simp [State.forEach]
  | cons a l ih =>
    intro s k
    simp only [State.forEach]
    have hi := ih (State.buryRow e a s) k
    have hb := buryRow_row e a s k
    have hp := buryRow_phase e a s
    constructor
    · intro h
      have hk : (State.buryRow e a s).row k = s.row k := by
        rcases hb with h1 | ⟨h1, h2, _⟩
        · exact h1
        · subst h1; rcases h with h | h
          · exact absurd h2 h
          · simp at h
      rw [hi.1]
      · exact hk
      · rw [hk]; rcases h with h | h
        · exact .inl h
        · right; intro hm; exact h (by simp [hm])
    · intro hd hm
      by_cases hka : k = a
      · subst hka
        have h2 := hi.1 (.inl hp)
        rw [h2]
        rcases hb with h1 | ⟨_, _, h1⟩
        · rw [h1] at hp; exact absurd hd hp
        · exact h1
      · have hk : (State.buryRow e a s).row k = s.row k := by
          rcases hb with h1 | ⟨h1, _⟩
          · exact h1
          · exact absurd h1 hka
        have h2 := hi.2 (by rw [hk]; exact hd) (by simpa [hka] using hm)
        rw [hk] at h2
        exact h2

/-! ### Rows of the staged set -/

/-- A row switched twice is a row switched once. -/
theorem switched_idem (e x) : Row.switched e (Row.switched e x) = Row.switched e x := by
  unfold Row.switched
  cases hp : x.phase <;> simp [hp]
  by_cases h : x.staged.isSome <;> simp [h, hp]

/-- The rows of the staged set after the switch's row changes (R16, R17). -/
theorem row_forEach_switchRow (e) : ∀ (l : List Nat) (s : State) (k : Nat),
    (State.forEach (State.switchRow e) l s).row k = if k ∈ l then (s.row k).switched e else s.row k := by
  intro l
  induction l with
  | nil => intro s k; simp [State.forEach]
  | cons a l ih =>
    intro s k
    simp only [State.forEach, ih, State.switchRow, State.row_putRow, List.mem_cons]
    by_cases hk : k = a
    · subst hk; simp [switched_idem]
    · simp [hk]

theorem mem_sortAscending (n) : ∀ l, n ∈ sortAscending l ↔ n ∈ l := by
  have hi : ∀ a l, n ∈ insertAscending a l ↔ n = a ∨ n ∈ l := by
    intro a l
    induction l with
    | nil => simp [insertAscending]
    | cons b l ih => unfold insertAscending; split <;> simp_all; tauto
  intro l
  induction l with
  | nil => simp [sortAscending]
  | cons a l ih => simp [sortAscending, hi, ih]

theorem sorted_sortAscending : ∀ l, (sortAscending l).Pairwise (fun a b => a ≤ b) := by
  have hm : ∀ n a l, n ∈ insertAscending a l ↔ n = a ∨ n ∈ l := by
    intro n a l
    induction l with
    | nil => simp [insertAscending]
    | cons b l ih => unfold insertAscending; split <;> simp_all; tauto
  have hi : ∀ a l, l.Pairwise (fun a b => a ≤ b) → (insertAscending a l).Pairwise (fun a b => a ≤ b) := by
    intro a l h
    induction l with
    | nil => simp [insertAscending]
    | cons b l ih =>
      unfold insertAscending
      have hb := List.pairwise_cons.1 h
      split
      · rename_i hab
        refine List.pairwise_cons.2 ⟨?_, h⟩
        intro y hy
        rcases List.mem_cons.1 hy with h | h
        · omega
        · exact le_trans hab (hb.1 y h)
      · rename_i hab
        refine List.pairwise_cons.2 ⟨?_, ih hb.2⟩
        intro y hy
        rcases (hm _ _ _).1 hy with h | h
        · omega
        · exact hb.1 y h
  intro l
  induction l with
  | nil => simp [sortAscending]
  | cons a l ih => exact hi _ _ ih

/-- The rows that items name (R62). -/
theorem mem_rows_named (items : List ChangeItem) (r : Nat) : r ∈ items.filterMap ChangeItem.row? ↔ namesRow items r := by
  simp only [List.mem_filterMap, namesRow]
  constructor
  · rintro ⟨i, hi, h⟩
    cases i <;> simp [ChangeItem.row?] at h <;> subst h <;> simp [hi]
  · rintro (h | h | h) <;> exact ⟨_, h, rfl⟩

/-! ### Frame boundaries -/

/-- Two links that differ at most in the frame in progress and the stages of requests. -/
def SameButSending (l m : Link) : Prop := m = { l with tx := m.tx, requests := m.requests }

/-- A frame boundary touches the frame in progress and a request's stage only (R119). -/
theorem kick_link (n s k) : SameButSending (s.link k) ((State.kick n s).link k) := by
  unfold State.kick
  split
  · split
    · rename_i f l hn
      have : SameButSending (s.link n) l := by
        unfold State.nextFrame at hn
        dsimp only at hn
        split at hn
        · simp at hn; rw [← hn.2]; rfl
        · split at hn
          · simp at hn; rw [← hn.2]; rfl
          · split at hn
            · simp at hn; rw [← hn.2]; rfl
            · split at hn
              · simp at hn; rw [← hn.2]; rfl
              · split at hn
                · simp at hn; rw [← hn.2]; rfl
                · simp at hn
      simp only [State.link_putLink]
      split
      · rename_i h; subst h; unfold SameButSending at *; rw [this]
      · rfl
    · rfl
  · rfl

@[simp] theorem kick_rows (n s) : (State.kick n s).rows = s.rows := by
  unfold State.kick; split
  · split <;> rfl
  · rfl

@[simp] theorem kick_copies (n s) : (State.kick n s).copies = s.copies := by
  unfold State.kick; split
  · split <;> rfl
  · rfl

@[simp] theorem kick_slots (n s) : (State.kick n s).slots = s.slots := by
  unfold State.kick; split
  · split <;> rfl
  · rfl

@[simp] theorem kick_superseded (n s) : (State.kick n s).superseded = s.superseded := by
  unfold State.kick; split
  · split <;> rfl
  · rfl

@[simp] theorem kick_eventSet (n s) : (State.kick n s).eventSet = s.eventSet := by
  unfold State.kick; split
  · split <;> rfl
  · rfl

theorem kickAll_link (s : State) (k) : SameButSending (s.link k) (s.kickAll.link k) := by
  unfold State.kickAll
  generalize allLinks = l
  induction l generalizing s with
  | nil => rfl
  | cons a l ih =>
    have h1 := ih (State.kick a s)
    have h2 := kick_link a s k
    unfold SameButSending at *
    simp only [State.forEach]
    rw [h1, h2]

@[simp] theorem kickAll_rows (s) : (State.kickAll s).rows = s.rows := forEach_keep State.rows kick_rows _ _
@[simp] theorem kickAll_copies (s) : (State.kickAll s).copies = s.copies := forEach_keep State.copies kick_copies _ _
@[simp] theorem kickAll_slots (s) : (State.kickAll s).slots = s.slots := forEach_keep State.slots kick_slots _ _
@[simp] theorem kickAll_superseded (s) : (State.kickAll s).superseded = s.superseded :=
    forEach_keep State.superseded kick_superseded _ _
@[simp] theorem kickAll_eventSet (s) : (State.kickAll s).eventSet = s.eventSet :=
    forEach_keep State.eventSet kick_eventSet _ _

/-! ### Postings -/

/-- A switch's postings reach each link in the order given (R97, R146). -/
theorem takePostings_link : ∀ (ps : List (Nat × Notice)) (fl s n),
    (State.takePostings ps fl s).1.link n = (s.link n).afterPostings (postingsFor n ps) := by
  intro ps
  induction ps with
  | nil => intro fl s n; rfl
  | cons p ps ih =>
    obtain ⟨m, x⟩ := p
    intro fl s n
    simp only [State.takePostings, ih, State.link_putLink]
    by_cases h : n = m
    · subst h; simp [postingsFor, Link.afterPostings]
    · simp [postingsFor, h, Ne.symm h]

theorem takePostings_keep {α : Type} (g : State → α) (hg : ∀ (s : State) n l, g (s.putLink n l) = g s) : ∀ (ps :
    List (Nat × Notice)) (fl s),
    g (State.takePostings ps fl s).1 = g s := by
  intro ps
  induction ps with
  | nil => intros; rfl
  | cons p ps ih => intro fl s; simp [State.takePostings, ih, hg]

theorem raiseOverflows_keep {α : Type} (g : State → α) (hg : ∀ s o, g (State.raise s o) = g s) (hf : ∀ s n,
    g (State.setFreeTick s n) = g s) (fl s) :
    g (State.raiseOverflows fl s) = g s := by
  unfold State.raiseOverflows; split
  · rfl
  · exact hg _ _
  · rw [hf, hg]

theorem takePosting_sameButWatchCount (l m : Link) (h : SameButWatchCount l m) (x) :
    SameButWatchCount (l.takePosting x).1 (m.takePosting x).1 := by
  unfold SameButWatchCount at *
  rw [h]
  unfold Link.takePosting
  dsimp only
  split
  · rfl
  · split
    · split <;> rfl
    · split <;> rfl

theorem afterPostings_sameButWatchCount : ∀ (xs) (l m : Link), SameButWatchCount l m →
    SameButWatchCount (l.afterPostings xs) (m.afterPostings xs) := by
  intro xs
  induction xs with
  | nil => intro l m h; exact h
  | cons x xs ih => intro l m h; exact ih _ _ (takePosting_sameButWatchCount l m h x)

theorem takePosting_keeps (l : Link) (x) : ((l.takePosting x).1.state = l.state ∧ (l.takePosting x).1.rx = l.rx ∧
    (l.takePosting x).1.errors = l.errors ∧ (l.takePosting x).1.prompts = l.prompts ∧ (l.takePosting x).1.welcome =
      l.welcome) := by
  unfold Link.takePosting
  split
  · simp
  · split
    · split <;> simp
    · split <;> simp [Link.setResync]

theorem afterPostings_keeps : ∀ (xs) (l : Link), ((l.afterPostings xs).state = l.state ∧ (l.afterPostings xs).rx = l.rx ∧
    (l.afterPostings xs).errors = l.errors ∧ (l.afterPostings xs).prompts = l.prompts ∧ (l.afterPostings xs).welcome =
      l.welcome) := by
  intro xs
  induction xs with
  | nil => intro l; simp [Link.afterPostings]
  | cons x xs ih =>
    intro l
    have h1 := ih (l.takePosting x).1
    have h2 := takePosting_keeps l x
    simp only [Link.afterPostings, List.foldl_cons] at *
    rw [h1.1, h1.2.1, h1.2.2.1, h1.2.2.2.1, h1.2.2.2.2]
    exact h2

/-! ### The stores at the switch -/

section

variable (e : Nat) (items : List ChangeItem) (s : State)

/-- What the switch makes of a row (R16, R17). -/
theorem row_switchStores (r : Nat) :
   (¬ namesRow items r → (s.switchStores e items).row r = s.row r) ∧
   (namesRow items r → (s.row r).phase ≠ .dying → (s.switchStores e items).row r = (s.row r).switched e) ∧
   (namesRow items r → (s.row r).phase = .dying → (s.switchStores e items).row r = Row.free ∨
     (s.switchStores e items).row r = { s.row r with phase := .dead, live := none, dies := some e, watch := [] }) := by
  unfold State.switchStores
  dsimp only
  have hrow : ∀ k, ((State.forEach (State.supersede e) (sortAscending (List.filterMap (fun r => (s.row r).supersedes)
    (items.filterMap ChangeItem.row?)))
      (State.forEach (State.switchRow e) (items.filterMap ChangeItem.row?)
        ((s.setCopies (Table.mapValues (Copy.activate e) s.copies)).setSlots (Table.mapValues (Slot.activate e) s.slots)))).row k) =
      if k ∈ items.filterMap ChangeItem.row? then (s.row k).switched e else s.row k := by
    intro k
    rw [forEach_keep (fun s => s.row k) (fun n s => supersede_row e n s k), row_forEach_switchRow]
    rfl
  generalize hX : (State.forEach (State.supersede e) _ _) = X at hrow ⊢
  have hb := row_forEach_buryRow e (items.filterMap ChangeItem.row?)
    (X.setSuperseded (X.superseded ++ List.filter (fun c => decide ((X.copy c).state = CopyState.superseded))
      (sortAscending (List.filterMap (fun r => (s.row r).supersedes) (items.filterMap ChangeItem.row?))))) r
  simp only [State.row_setSuperseded, hrow] at hb
  rw [← mem_rows_named]
  refine ⟨fun h => ?_, fun h hp => ?_, fun h hp => ?_⟩
  · rw [hb.1 (.inr h), if_neg h]
  · rw [hb.1, if_pos h]
    left
    rw [if_pos h]
    unfold Row.switched
    cases hq : (s.row r).phase <;> simp_all
    split <;> simp_all
  · have := hb.2 (by rw [if_pos h]; simp [Row.switched, hp]) h
    rw [if_pos h] at this
    rcases this with h1 | h1
    · exact .inl h1
    · right; rw [h1]; simp [Row.switched, hp]

/-- What the switch makes of a copy (R33, R34). -/
theorem copy_switchStores (c : Nat) : (s.switchStores e items).copy c =
    if c ∈ (items.filterMap ChangeItem.row?).filterMap (fun r => (s.row r).supersedes) then ((s.copy c).activate e).afterSupersede e
    else (s.copy c).activate e := by
  unfold State.switchStores
  dsimp only
  have hk : ∀ (l : List Nat) (u : State), (State.forEach (State.buryRow e) l u).copy c = u.copy c := by
    intro l u; exact forEach_keep (fun s => s.copy c) (fun n s => by simp [State.copy]) l u
  rw [hk]
  simp only [State.copy_setSuperseded, copy_forEach_supersede, mem_sortAscending]
  have h2 : (State.forEach (State.switchRow e) (items.filterMap ChangeItem.row?)
        ((s.setCopies (Table.mapValues (Copy.activate e) s.copies)).setSlots (Table.mapValues (Slot.activate e) s.slots))).copy c
      = (s.copy c).activate e := by
    rw [forEach_keep (f := State.switchRow e) (fun s => s.copy c) (fun _ _ => rfl)]
    exact Table.read_mapValues _ _ rfl _ _
  rw [h2]

/-- What the switch makes of a slot (R51). -/
theorem slot_switchStores : ∀ k, ((s.switchStores e items).slot k).state = ((s.slot k).activate e).state ∧
   ((s.switchStores e items).slot k).activated = ((s.slot k).activate e).activated ∧
   ((s.switchStores e items).slot k).points = ((s.slot k).activate e).points ∧
   ((s.switchStores e items).slot k).readerCount = ((s.slot k).activate e).readerCount := by
  intro k
  unfold State.switchStores
  dsimp only
  have hk : ∀ (l : List Nat) (u : State), (State.forEach (State.buryRow e) l u).slot k = u.slot k := by
    intro l u; exact forEach_keep (fun s => s.slot k) (fun n s => by simp [State.slot]) l u
  rw [hk]
  simp only [State.slot_setSuperseded]
  have h2 : (State.forEach (State.switchRow e) (items.filterMap ChangeItem.row?)
        ((s.setCopies (Table.mapValues (Copy.activate e) s.copies)).setSlots (Table.mapValues (Slot.activate e) s.slots))).slot k = (s.slot k).activate e := by
    rw [forEach_keep (f := State.switchRow e) (fun s => s.slot k) (fun _ _ => rfl)]
    exact Table.read_mapValues _ _ rfl _ _
  have := slot_forEach_supersede e (sortAscending (List.filterMap (fun r => (s.row r).supersedes)
    (items.filterMap ChangeItem.row?))) (State.forEach (State.switchRow e) (items.filterMap ChangeItem.row?)
        ((s.setCopies (Table.mapValues (Copy.activate e) s.copies)).setSlots (Table.mapValues (Slot.activate e) s.slots))) k
  rw [h2] at this
  exact this

/-- The superseded list after the switch: what stays of it, then the copies superseded and still pinned, ascending (R34, R39). -/
theorem superseded_switchStores : ∃ base tail, (s.switchStores e items).superseded = base ++ tail ∧
    base.Sublist s.superseded ∧ tail.Pairwise (fun c d => c ≤ d) ∧
    ∀ c, c ∈ tail ↔ ((s.switchStores e items).copy c).state = .superseded ∧ ∃ r, namesRow items r ∧ (s.row r).supersedes =
      some c := by
  unfold State.switchStores
  dsimp only
  generalize hX : (State.forEach (State.supersede e) _ _) = X
  have hk : ∀ (l : List Nat) (u : State), (State.forEach (State.buryRow e) l u).superseded = u.superseded := by
    intro l u; exact forEach_keep State.superseded (fun n s => by simp) l u
  have hk2 : ∀ (l : List Nat) (u : State) c, (State.forEach (State.buryRow e) l u).copy c = u.copy c := by
    intro l u c; exact forEach_keep (fun s => s.copy c) (fun n s => by simp [State.copy]) l u
  rw [hk]
  refine ⟨_, _, rfl, ?_, ?_, ?_⟩
  · rw [← hX]
    refine (superseded_forEach_supersede e _ _).trans ?_
    rw [forEach_keep (f := State.switchRow e) State.superseded (fun _ _ => rfl)]
    exact List.Sublist.refl _
  · exact (sorted_sortAscending _).filter _
  · intro c
    rw [hk2]
    simp only [List.mem_filter, mem_sortAscending, State.copy_setSuperseded, decide_eq_true_eq]
    rw [and_comm]
    apply and_congr Iff.rfl
    rw [List.mem_filterMap]
    constructor
    · rintro ⟨r, hr, h⟩; exact ⟨r, (mem_rows_named items r).1 hr, h⟩
    · rintro ⟨r, hr, h⟩; exact ⟨r, (mem_rows_named items r).2 hr, h⟩

/-- The switch's part in the stores lowers watch counts and touches nothing else of a link (R17, R20). -/
theorem link_switchStores (n : Nat) : SameButWatchCount (s.link n) ((s.switchStores e items).link n) := by
  unfold State.switchStores
  dsimp only
  have := link_forEach_buryRow e (items.filterMap ChangeItem.row?)
  refine Eq.trans (this _ n) ?_
  rw [State.link_setSuperseded, forEach_keep (fun s => s.link n) (fun c s => supersede_link e c s n), forEach_keep (f :=
    State.switchRow e) (fun s => s.link n) (fun _ _ => rfl)]
  rfl
end

end Sys2Proof.Machine
end

