-- ==== Sys2Proof/WellFormed.lean ====
section
/-! DEFINITION. The checks on a command's operands that its type does not make. -/

namespace Sys2Proof

/-- A command is a header and 0 to 63 argument words (R180). -/
def argsFit (args : List Word) : Bool := args.length ≤ 63

/-- Bytes changed from outside the part lie in the flash (11.7). -/
def changesFit (changes : List Host.Cell) : Bool := changes.all (fun c => c.1 < Config.flashBytes)

/-- The operands a command may carry. -/
def Instr.wellFormed : Instr → Bool
  | .hardReset _ _ => true
  | .commandIn _ _ => true
  | .responseOut _ => true
  | .portStatus _ _ => true
  | .events _ _ => true
  | .eventMask _ _ => true
  | .registerWriteIgnored _ _ => true
  | .unknownCommand _ kind _ args => (CmdKind.ofCode kind).isNone && argsFit args
  | .readStatus _ _ args => argsFit args
  | .readRow _ _ args => argsFit args
  | .readCopy _ _ args => argsFit args
  | .readProfile _ _ args => argsFit args
  | .listSpans _ _ args => argsFit args
  | .query => true
  | .linkStatus _ _ args => argsFit args
  | .openEdit _ _ args => argsFit args
  | .insert _ _ args => argsFit args
  | .amend _ _ args => argsFit args
  | .retire _ _ args => argsFit args
  | .retireGroup _ _ args => argsFit args
  | .defineProfile _ _ args => argsFit args
  | .dropProfile _ _ args => argsFit args
  | .sealSession _ _ args => argsFit args
  | .abandon _ _ args => argsFit args
  | .touch _ _ args => argsFit args
  | .switch _ _ args => argsFit args
  | .withdraw _ _ args => argsFit args
  | .save _ _ args => argsFit args
  | .abortSave _ _ args => argsFit args
  | .restore _ _ args => argsFit args
  | .startEmpty _ _ args => argsFit args
  | .hold _ _ args => argsFit args
  | .resume _ _ args => argsFit args
  | .clearAll _ _ args => argsFit args
  | .resetLink _ _ args => argsFit args
  | .setParam _ _ args => argsFit args
  | .linkWord _ _ => true
  | .receiverLockGained _ => true
  | .receiverLockLost _ => true
  | .hello _ _ _ => true
  | .fetch _ _ _ _ => true
  | .fetchProfile _ _ _ _ => true
  | .watch _ _ _ => true
  | .unwatch _ _ _ => true
  | .ackNotice _ _ _ => true
  | .ackResync _ _ => true
  | .fetchTaken => true
  | .fetchProfileTaken => true
  | .watchTaken => true
  | .unwatchTaken => true
  | .welcomeEnd _ => true
  | .answerEnd _ => true
  | .promptRefusalEnd _ => true
  | .noticeEnd _ => true
  | .resyncEnd _ => true
  | .resendTimerExpiry _ => true
  | .idleTimerExpiry => true
  | .markerArrival => true
  | .identificationDone => true
  | .flashAbsent => true
  | .pageReadDone changes => changesFit changes
  | .bankEraseDone => true
  | .eraseTimeout => true
  | .pageProgramDone changes => changesFit changes
  | .programTimeout => true

end Sys2Proof
end

