-- ==== Sys2Proof/Tests/Slice0.lean ====
section
/-! SUPPORT. Tests of single commands, with expected values worked out from the spec (chapter 12's sequences, the examples of R26 and
3.7, the layouts of chapter 11), and a witness for every statement that has hypotheses. -/

namespace Sys2Proof.Tests

open Sys2Proof.Machine

-- The theorems below are elaborated one after another: each is small, and together they would ask for too many threads.
set_option Elab.async false

/-! ### States -/

/-- The state a command leaves. -/
def after (i : Instr) (s : State) : State :=
  match exec i s with
  | .next t => t
  | .fault _ => s
  | .refused _ => s

/-- The body of the rows below: no trims, enabled, an optional profile. -/
def body (k : Option Nat) : Body :=
  { pedestal := 10, threshold := 100, gain := .mid, enabled := true, profile := k, group := 255, trims := [] }

/-- A LIVE row. -/
def liveRow (first count copy : Nat) (watch : List Nat) : Row :=
  { Row.free with phase := .live, span := some { first := first, count := count }, born := some 19, live := some copy
                  watch := watch }

/-- A LIVE copy. -/
def liveCopy (row : Nat) (k : Option Nat) : Copy :=
  { Copy.free with state := .live, owner := some row, activated := some 19, body := some (body k) }

/-- An ACTIVE slot with the points of the example of 3.7. -/
def activeSlot (refs : Nat) : Slot :=
  { state := .active, activated := some 19, refCount := refs, readerCount := 0
    points := some [⟨0, -1000⟩, ⟨1000, 0⟩, ⟨3000, 5000⟩, ⟨4095, 4000⟩] }

/-- A link that is UP. -/
def upLink : Link := { Link.reset with state := .up, locked := true }

/-- The crate of 12.2: rows 0, 1 and 4 with copies 0, 1 and 2, slots 0 and 5, epoch 19; L0 and L2 are UP. -/
def crate : State :=
  { State.reset with
    opState := .serving, epoch := 19, freeCount := 2557, rows := [(0, liveRow 0 64 0 []), (1, liveRow 64 64 1 []), (4, liveRow 512 64 2 [])]
    spanIndex := [⟨0, 0⟩, ⟨64, 1⟩, ⟨512, 4⟩], copies := [(0, liveCopy 0 (some 5)), (1, liveCopy 1 none), (2, liveCopy 4 none)]
    slots := [(0, activeSlot 0), (5, activeSlot 1)], links := [(0, upLink), (2, upLink)] }

/-- The crate with an edit session of the host that holds `items`. -/
def editing (items : List ChangeItem) : State := crate.withItems .host items

/-- The crate with row 1 amended and sealed, as in 12.2: copy 3 is STAGED. -/
def sealedCrate (pol : Policy) : State :=
  (((crate.putRow 1 { liveRow 64 64 1 [] with staged := some 3 }).putCopy 3
    { Copy.free with state := .staged, owner := some 1, body := some (body none) }).setFreeCount 2556).setStaged
      (some { items := [.amend 1], policy := pol })

/-- One row, 1023, LIVE on copy 2559 and watched by L0, amended in the host's session: copy 2558 is its draft. Directory, pool and
session agree, so this state keeps what the steps keep. -/
def amended : State :=
  { State.reset with
    opState := .serving, epoch := 19, freeCount := 2558, rows := [(1023, { liveRow 16383 1 2559 [0] with draft := some 2558 })]
    spanIndex := [⟨16383, 1023⟩], session := some { owner := .host, timer := 50, items := [.amend 1023] }
    copies := [(2558, { Copy.free with state := .draft, owner := some 1023, base := some 2559, body := some (body none) }),
      (2559, liveCopy 1023 none)]
    links := [(0, { upLink with watchCount := 1 })] }

/-- A request WAITING at L0. -/
def asking (a : Ask) (s : State) : State := s.putLink 0 { upLink with requests := [Request.waiting 1#2 a] }

/-! ### WellFormed refuses ill-formed terms, one for each check -/

theorem test_wellFormed_refuses_64_arguments : (Instr.insert .host 0#16 (List.replicate 64 0#32)).wellFormed = false := by decide
theorem test_wellFormed_refuses_known_kind_as_unknown : (Instr.unknownCommand .host 0x10#8 0#16 []).wellFormed = false := by decide
theorem test_wellFormed_refuses_long_unknown :
    (Instr.unknownCommand .host 0xFF#8 0#16 (List.replicate 64 0#32)).wellFormed = false := by decide
theorem test_wellFormed_refuses_change_outside_flash : (Instr.pageReadDone [(262144, 0#8)]).wellFormed = false := by decide
theorem test_wellFormed_takes_last_flash_byte : (Instr.pageProgramDone [(262143, 0#8)]).wellFormed = true := by decide

/-! ### Formats -/

/-- R197: the IDLE word with data 0 is sent with parity bit 1. -/
theorem test_idle_word_parity : wireWord .idle 0#16 = 1#19 := by decide
/-- 11.1, 11.2: HELLO's HEAD, kind 1, one body word, tag 0: marker 01, data 0x0420, three ones, parity 0. -/
theorem test_hello_head_word : wireWord .head (headData 1 1 0#2) = 0b0100000100001000000#19 := by decide
/-- R199, by hand over the ASCII bytes of 12345678. -/
theorem test_crc16 : crc16 [0x3132#16, 0x3334#16, 0x3536#16, 0x3738#16] = 0xA12B#16 := by decide +kernel
/-- R200, by hand over the ASCII bytes of 123456789. -/
theorem test_crc32 : crc32From crc32Start [0x31#8, 0x32#8, 0x33#8, 0x34#8, 0x35#8, 0x36#8, 0x37#8, 0x38#8, 0x39#8] = 0x0376E6E7#32 := by
  decide +kernel
/-- 11.4: kind in bits 31 to 24, word count less one in 21 to 16, sequence in 15 to 0; a response's data count in 21 to 16. -/
theorem test_headers : headerWord CmdKind.insert.code 4 7#16 = 0x11030007#32 ∧ responseHeader .done 7#16 2 = 0x01020007#32 := by decide
/-- The port words that a service first byte names (11.3). -/
theorem test_service_first_byte : serviceFirstByte 0b01100001#8 = some (.events, true) ∧ serviceFirstByte 0b10100000#8 = none := by
  decide
/-- No row of the table has bits, so no word spells a command (log 11). -/
theorem test_no_word_spells_a_command : (State.reset.withFetchWord 32 0x10000001) = State.reset := by decide

/-- R179, 11.3: first byte 0x60 writes events, 0x61 reads them; the second word below is cut short and discarded. -/
theorem test_service_transaction :
    let s := crate.setEventSet { EventSet.reset with set := 0x003#12 }
    (State.serviceTransaction (bitsOf 0x60#8 ++ bitsOf 0x00000002#32 ++ bitsOf 0x01#8) s).1.eventSet.set = 0x001#12 ∧
    (State.serviceTransaction (bitsOf 0x61#8 ++ bitsOf 0#32 ++ bitsOf 0x01#8) s).2 = [3#32] ∧
    (State.queueTransaction (bitsOf 0x60#8 ++ bitsOf 0x00000002#32) s).pending = [.events .service 2#32] := by decide +kernel

/-! ### Arithmetic: the examples of R26 and 3.7 -/

theorem test_effective_pedestal :
    let b := { body none with pedestal := 2000, trims := [⟨3, 100⟩, ⟨7, -50⟩] }
    b.effective 4096 4099 = 2047 ∧ b.effective 4096 4103 = 1950 ∧ b.effective 4096 4100 = 2000 := by decide

theorem test_curve :
    let ps := ((activeSlot 0).points).getD []
    curve ps (-50) = -1000 ∧ curve ps 333 = -667 ∧ curve ps 1333 = 832 ∧ curve ps 1000 = 0 ∧ curve ps 3500 = 4544 ∧
      curve ps 3915 = 4165 ∧ curve ps 3895 = 4183 := by decide

/-! ### The ports -/

/-- R176, R186: the strap high begins a restore; the flash is kept. -/
theorem test_hardReset : (after (.hardReset true true) crate).opState = .restoring ∧
    (after (.hardReset true true) crate).snap.restorePhase = .selecting ∧ (after (.hardReset true true) crate).rows = [] := by
  decide +kernel

/-- R182: BAD_COMMAND is result 25 and carries no data. -/
theorem test_unknownCommand : (after (.unknownCommand .service 0x08#8 9#16 []) crate).service.responses = [0x19000009#32] := by
  decide +kernel

/-- A header that declares one argument word waits for it (R180, R181). -/
theorem test_commandIn_waits : (after (.commandIn .host 0x02010001#32) crate).host.responses = [] ∧
    (after (.commandIn .host 0x02010001#32) crate).host.wordCount = 1 := by decide +kernel

/-- R178: the oldest word is read first. -/
theorem test_responseOut : (after (.responseOut .host) (crate.setHost { PortState.reset with responses := [5#32, 6#32] })).host =
    { PortState.reset with responses := [6#32], readData := 5#32 } := by decide +kernel

/-- R185: a READ_ROW cut short is answered BAD_LENGTH (26). -/
theorem test_portStatus : (after (.portStatus .host 0#32) (after (.commandIn .host 0x02010001#32) crate)).host.responses =
    [0x1A000001#32] := by decide +kernel

/-- R195: only the events written as one are cleared. -/
theorem test_events : (after (.events .service 0x002#32) (crate.setEventSet { EventSet.reset with
    set := 0x003#12, sessionExpired := some .host })).eventSet = { EventSet.reset with set := 0x001#12 } := by decide +kernel

/-- R196: unmasking a pending event asserts the line in the write's event. -/
theorem test_eventMask : (after (.eventMask .host 0x010#32) (crate.setEventSet { EventSet.reset with set := 0x010#12 })).interruptLine =
    true := by decide +kernel

theorem test_registerWriteIgnored : after (.registerWriteIgnored .host 3#32) crate = crate := by decide +kernel

/-! ### Reads -/

/-- 11.6 words 1, 2 and 16: SERVING, epoch 19, no copy SUPERSEDED or pinned; the copies are 2557 FREE and 3 LIVE (words 14, 15). -/
theorem test_readStatus :
    (((after (.readStatus .host 1#16 []) crate).host.responses.take 17).drop 14 = [2557#32, 0x00030000#32, 0#32]) ∧
    (after (.readStatus .host 1#16 []) crate).host.responses.take 3 = [0x01280001#32, 2#32, 19#32] := by decide +kernel

/-- 11.8: row 4 is LIVE (3) with span, born epoch and live copy present. -/
theorem test_readRow : (after (.readRow .host 2#16 [4#32]) crate).host.responses =
    [0x01080002#32, 0x0B030004#32, 0x00400200#32, 19#32, 0#32, 2#32, 0#32, 0#32, 0#32] := by decide +kernel

/-- 11.8: a FREE copy reads with every presence bit clear. -/
theorem test_readCopy : (after (.readCopy .host 3#16 [2559#32]) crate).host.responses =
    [0x01070003#32, 2559#32, 0#32, 0#32, 0#32, 0#32, 0#32, 0#32] := by decide +kernel

/-- 11.8: slot 5 is ACTIVE (3) with four points; its reference count is 1. -/
theorem test_readProfile : ((after (.readProfile .host 4#16 [5#32]) crate).host.responses).take 6 =
    [0x01080004#32, 0x00041305#32, 19#32, 1#32, 0#32, 0xFC180000#32] := by decide +kernel

/-- R10, 11.8: from channel 64, rows 1 and 4 in index order. -/
theorem test_listSpans : (after (.listSpans .service 5#16 [64#32]) crate).service.responses =
    [0x01050005#32, 2#32, 0x00400040#32, 0x00030001#32, 0x00400200#32, 0x00030004#32] := by decide +kernel

/-- 11.8: L2 UP and locked, nothing queued. -/
theorem test_linkStatus : ((after (.linkStatus .host 6#16 [2#32]) crate).host.responses).take 2 = [0x010C0006#32, 5#32] := by
  decide +kernel

/-- The crate with a QUERY of a channel waiting at the host port and its turn at the engine. -/
def querying (ch : Word) : State :=
  (crate.setHost { PortState.reset with commands := [{ words := [0x06010007#32, ch], cut := false, released := false }] }).setEngine 12

/-- R140: channel 130 is covered by no row; NO_ROW (9) carries the epoch. -/
theorem test_query_no_row : (after .query (querying 130#32)).host.responses = [0x09010007#32, 19#32] ∧
    (after .query (querying 130#32)).engine = 13 := by decide +kernel

/-- 11.5: row 1, LIVE; span 64, 64; copy 1; epoch 19; pedestal 10; body words. -/
theorem test_query : (after .query (querying 70#32)).host.responses = [0x01090007#32, 19#32, 0x00030001#32, 0x00400040#32, 1#32,
    19#32, 10#32, 0x0064000A#32, 0x00FF0005#32, 0#32] := by decide +kernel

/-- R140, R181, R182: a QUERY of no argument is refused BAD_LENGTH (26) as its only word comes, without the lookup engine. -/
theorem test_query_bad_length : (after (.commandIn .host 0x06000007#32) crate).host.responses = [0x1A000007#32] := by decide +kernel

/-! ### Editing, sealing and switching: 12.2 and 12.3 -/

/-- The lock goes to the first port that asks; the other is answered EDIT_HELD (4). -/
theorem test_openEdit : (after (.openEdit .host 1#16 []) crate).session = some { owner := .host, timer := 50, items := [] } ∧
    (after (.openEdit .service 1#16 []) (editing [])).service.responses = [0x04000001#32] := by decide +kernel

theorem test_touch : (after (.touch .host 1#16 []) (editing [.retire 4])).host.responses = [0x01010001#32, 1#32] := by decide +kernel

/-- 12.3: INSERT 512, 32 is refused SPAN_OVERLAP (7) while row 4 has no RETIRE item. -/
theorem test_insert_overlap : (after (.insert .host 2#16 [0x00200200#32, 10#32, 0#32]) (editing [])).host.responses =
    [0x07000002#32] := by decide +kernel

/-- 12.3: with the RETIRE item it is DONE with row 2, and the two items. -/
theorem test_insert : (after (.insert .host 4#16 [0x00200200#32, 10#32, 0#32]) (editing [.retire 4])).host.responses =
    [0x01020004#32, 0x00030002#32, 2#32] ∧
    (after (.insert .host 4#16 [0x00200200#32, 10#32, 0#32]) (editing [.retire 4])).spanIndex =
      [⟨0, 0⟩, ⟨64, 1⟩, ⟨512, 2⟩, ⟨512, 4⟩] := by decide +kernel

/-- 12.2: AMEND of row 1's threshold drafts copy 3 over base copy 1; the free count is 2,556. -/
theorem test_amend : (after (.amend .host 2#16 [0x00020001#32, 0x01F40000#32, 0#32]) (editing [])).copy 3 =
    { Copy.free with state := .draft, owner := some 1, base := some 1, body := some { body none with threshold := 500 } } ∧
    (after (.amend .host 2#16 [0x00020001#32, 0x01F40000#32, 0#32]) (editing [])).freeCount = 2556 := by decide +kernel

/-- 12.3: RETIRE of row 4 is DONE with one item, ADDED, and the row stays LIVE. -/
theorem test_retire : (after (.retire .host 3#16 [4#32]) (editing [])).host.responses = [0x01010003#32, 1#32] ∧
    (after (.retire .host 3#16 [4#32]) (editing [])).row 4 = crate.row 4 := by decide +kernel

/-- R73: every row with tag 255 is matched, in ascending row id. -/
theorem test_retireGroup : (after (.retireGroup .host 3#16 [255#32]) (editing [.retire 0])).session =
    some { owner := .host, timer := 50, items := [.retire 0, .retire 1, .retire 4] } := by decide +kernel

theorem test_defineProfile :
    (after (.defineProfile .host 4#16 [0x0002001F#32, 0x00010000#32, 0xFFFF0FFF#32]) (editing [])).slot 31 =
      { Slot.free with state := .pending, points := some [⟨0, 1⟩, ⟨4095, -1⟩] } := by decide +kernel

/-- R50: slot 0 is named by no copy and goes; slot 5 is refused PROFILE_IN_USE (16). -/
theorem test_dropProfile : (after (.dropProfile .host 5#16 [0#32]) (editing [])).slot 0 = Slot.free ∧
    (after (.dropProfile .host 5#16 [5#32]) (editing [])).host.responses = [0x10000005#32] := by decide +kernel

/-- R81, R82: the items and the policy are handed over and row 4 is DYING. -/
theorem test_sealSession : (after (.sealSession .host 6#16 [1#32]) (editing [.retire 4])).host.responses = [0x01010006#32, 0x00010001#32] ∧
    ((after (.sealSession .host 6#16 [1#32]) (editing [.retire 4])).row 4).phase = .dying := by decide +kernel

/-- R14: a row inserted in the session is FREE again, and its draft too. -/
theorem test_abandon :
    let s := after (.abandon .host 5#16 []) (after (.insert .host 4#16 [0x00200400#32, 10#32, 0#32]) (editing []))
    s.row 2 = Row.free ∧ s.copy 3 = Copy.free ∧ s.freeCount = 2557 ∧ s.session = none := by decide +kernel

theorem test_idleTimerExpiry : (after .idleTimerExpiry (editing [])).eventSet =
    { EventSet.reset with set := 0x002#12, sessionExpired := some .host } := by decide +kernel

/-- 12.2: SWITCH at epoch 19 answers epoch 20 with one row amended; copy 1 without pins is freed. -/
theorem test_switch : (after (.switch .host 4#16 []) (sealedCrate .onCommand)).host.responses =
    [0x01040004#32, 20#32, 0x00000100#32, 0x00000100#32, 0#32] ∧
    (after (.switch .host 4#16 []) (sealedCrate .onCommand)).row 1 = { liveRow 64 64 3 [] with born := some 19 } := by decide +kernel

/-- 12.2: copy 1 with a pin is SUPERSEDED at epoch 20 and on the list. -/
theorem test_switch_pinned :
    let s := after (.switch .host 4#16 []) ((sealedCrate .onCommand).putCopy 1 { liveCopy 1 none with fetchPins := 2 })
    s.copy 1 = { liveCopy 1 none with state := .superseded, supersededAt := some 20, fetchPins := 2 } ∧ s.superseded = [1] := by
  decide +kernel

/-- R88, R89: a marker does not switch an ON_COMMAND set; it switches an AT_MARKER one. -/
theorem test_markerArrival : (after .markerArrival (sealedCrate .onCommand)).epoch = 19 ∧
    (after .markerArrival (sealedCrate .atMarker)).epoch = 20 ∧ (after .markerArrival (sealedCrate .atMarker)).markerCount = 1 := by
  decide +kernel

/-- The sealed crate with row 1 watched by L0, whose notice queue is full of other rows' notices. -/
def flooded (pol : Policy) : State :=
  ((sealedCrate pol).putRow 1 { liveRow 64 64 1 [0] with staged := some 3 }).putLink 0
    { upLink with notices := (List.range 32).map (fun r => ⟨r + 2, .changed, 19⟩), watchCount := 1 }

/-- R147: the posting overflows L0's queue; NOTICE_OVERFLOW (bit 9) names L0 beside SWITCHED. -/
theorem test_markerArrival_overflow : (after .markerArrival (flooded .atMarker)).eventSet =
    { EventSet.reset with set := 0x201#12, noticeOverflow := some 0 } := by decide +kernel

/-- R101: the staged copy is freed and row 1 keeps its live copy. -/
theorem test_withdraw : (after (.withdraw .host 4#16 []) (sealedCrate .atMarker)).row 1 = liveRow 64 64 1 [] ∧
    (after (.withdraw .host 4#16 []) (sealedCrate .atMarker)).copy 3 = Copy.free := by decide +kernel

/-! ### The snapshot store: 12.4 -/

/-- The crate with a save just begun. -/
def savingCrate : State := after (.save .host 1#16 []) crate

/-- R163: three rows, two slots; every listed copy is pinned. -/
theorem test_save : savingCrate.host.responses = [0x02020001#32, 19#32, 0x00020003#32] ∧
    savingCrate.snap.saveList = [⟨0, 0⟩, ⟨1, 1⟩, ⟨4, 2⟩] ∧ (savingCrate.copy 2).snapPin = true := by decide +kernel

/-- R169: ABORTED (1) in phase ERASING (1), write position 0. -/
theorem test_abortSave : (after (.abortSave .service 2#16 []) savingCrate).service.responses = [0x01010002#32, 0x00000011#32] ∧
    (after (.abortSave .service 2#16 []) savingCrate).snap.last = .saveFailed .aborted none 0 := by decide +kernel

theorem test_identificationDone : (after .identificationDone savingCrate).flash.op = some (.read .bankA 0) := by decide +kernel

theorem test_flashAbsent : (after .flashAbsent savingCrate).eventSet =
    { EventSet.reset with set := 0x008#12, saveFailed := some .flashAbsent } := by decide +kernel

/-- R164: neither header is valid, so bank A is chosen with sequence 1 and its erase issued. -/
theorem test_pageReadDone :
    let s := after (.pageReadDone []) (savingCrate.setFlash { Flash.blank with op := some (.read .bankB 0) })
    s.flash.op = some (.erase .bankA) ∧ s.snap.sequence = some 1 := by decide +kernel

/-- The save with its erase of bank B running. -/
def erasing : State :=
  (savingCrate.setSnap { savingCrate.snap with target := some .bankB, sequence := some 4 }).setFlash
    { cells := [(131071, 7#8), (131072, 8#8)], op := some (.erase .bankB), device := some (.erase .bankB) }

/-- R159, R165: the bank reads 255, the other bank stays, and the profile page is programmed. -/
theorem test_bankEraseDone : (after .bankEraseDone erasing).flash.cells = [(131071, 7#8)] ∧
    (after .bankEraseDone erasing).flash.op = some (.program .bankB 1) := by decide +kernel

theorem test_eraseTimeout : (after .eraseTimeout erasing).snap.last = .saveFailed .eraseTimeout (some .bankB) 0 ∧
    (after .eraseTimeout erasing).flash.device = some (.erase .bankB) := by decide +kernel

/-- The save with a page of one byte pattern being programmed in RECORDS. -/
def programming : State :=
  (erasing.setSnap { erasing.snap with savePhase := .records, writePos := 0 }).setFlash
    { Flash.blank with op := some (.program .bankB 2), device := some (.program .bankB 2 (List.replicate 256 0#8)) }

theorem test_programTimeout : (after .programTimeout programming).snap.last = .saveFailed .programTimeout (some .bankB) 0 := by
  decide +kernel

/-- R162: a byte changed from outside before the read-back is a mismatch. -/
theorem test_pageProgramDone : (after (.pageProgramDone [(131584, 1#8)]) programming).snap.last =
    .saveFailed .verifyMismatch (some .bankB) 0 := by decide +kernel

/-! ### The command processor -/

theorem test_startEmpty : (after (.startEmpty .host 1#16 []) State.reset).opState = .serving ∧
    (after (.startEmpty .host 1#16 []) State.reset).host.responses = [0x01010001#32, 0#32] := by decide +kernel

/-- 12.6: HOLD reports SERVING (2). -/
theorem test_hold : (after (.hold .host 2#16 []) crate).host.responses = [0x01010002#32, 2#32] ∧
    (after (.hold .host 2#16 []) crate).opState = .held := by decide +kernel

theorem test_resume : (after (.resume .host 2#16 []) (crate.setOpState .held)).opState = .serving := by decide +kernel

theorem test_restore : (after (.restore .host 3#16 []) State.reset).flash.op = some .identify ∧
    (after (.restore .host 3#16 []) crate).host.responses = [0x14000003#32] := by decide +kernel

/-- 12.6: CLEAR_ALL is NOT_READY (20) in SERVING; in HELD it frees 3 rows, 3 copies and 2 slots, and each link's flag is set. -/
theorem test_clearAll : (after (.clearAll .host 1#16 []) crate).host.responses = [0x14000001#32] ∧
    (after (.clearAll .host 4#16 []) (crate.setOpState .held)).host.responses = [0x01020004#32, 0x00030003#32, 2#32] ∧
    ((after (.clearAll .host 4#16 []) (crate.setOpState .held)).link 2).resyncNumber = 1 := by decide +kernel

theorem test_resetLink : (after (.resetLink .host 1#16 [2#32]) crate).host.responses = [0x01010001#32, 1#32] ∧
    ((after (.resetLink .host 1#16 [2#32]) crate).link 2).state = .down := by decide +kernel

/-- R193: selector 2, RESEND_INTERVAL, 4 before and 16 after; 17 is BAD_FIELD (8). -/
theorem test_setParam : (after (.setParam .host 1#16 [0x02000010#32]) crate).host.responses = [0x01010001#32, 0x00100004#32] ∧
    (after (.setParam .host 1#16 [0x02000011#32]) crate).host.responses = [0x08000001#32] := by decide +kernel

/-! ### Board links -/

/-- The words of a HELLO at level 1 admit the board on L1 (R106, R107, R110). -/
theorem test_linkWord :
    let s := crate.putLink 1 { Link.reset with locked := true }
    let t := after (.linkWord 1 (wireWord .tail (crc16 [0x0420#16, 1#16])))
      (after (.linkWord 1 (wireWord .body 1#16)) (after (.linkWord 1 (wireWord .head 0x0420#16)) s))
    (t.link 1).state = .up ∧ t.eventSet.linkUp = some 1 := by decide +kernel

/-- R108: a word of bad parity outside a frame is one bad frame; a HEAD in a frame that finds the eighth resets the link, and the frame
it would have begun is discarded. -/
theorem test_linkWord_bad_frames : ((after (.linkWord 0 0#19) crate).link 0).errors.parity = 1 ∧
    ((after (.linkWord 0 0#19) crate).link 0).rx = .discarding ∧
    (let s := crate.putLink 0 { upLink with rx := .inFrame { head := 0x0420#16, kept := [], received := 0 }, badCount := 7 };
      (after (.linkWord 0 (wireWord .head 0x0420#16)) s).link 0 =
        { Link.reset with locked := true, errors := { Link.reset.errors with framing := 1 } }) := by decide +kernel

theorem test_receiverLockGained : ((after (.receiverLockGained 3) crate).link 3).locked = true := by decide +kernel

theorem test_receiverLockLost : (after (.receiverLockLost 2) crate).link 2 = Link.reset ∧
    (after (.receiverLockLost 2) crate).eventSet.linkDown = some 2 := by decide +kernel

/-- 12.1: WELCOME reports the epoch and the operating state, and begins at once on an idle transmitter. -/
theorem test_hello : ((after (.hello 1 2#2 1#16) (crate.putLink 1 { Link.reset with locked := true })).link 1).tx =
    some { tag := 2#2, content := .welcome 1 19 .serving, position := 0 } := by decide +kernel

theorem test_fetch : ((after (.fetch 0 1#2 70#16 none) crate).link 0).requests = [Request.waiting 1#2 (.fetch 70#16 none)] := by
  decide +kernel

theorem test_fetchProfile : ((after (.fetchProfile 0 1#2 5#16 0#16) crate).link 0).requests =
    [Request.waiting 1#2 (.fetchProfile 5#16 0#16)] := by decide +kernel

/-- R120: the fifth request gets a prompt QUEUE_FULL, which an idle transmitter begins. -/
theorem test_watch : ((after (.watch 0 1#2 70#16) (crate.putLink 0 { upLink with
      requests := List.replicate 4 (Request.waiting 1#2 (.watch 5#16)) })).link 0).tx =
    some { tag := 1#2, content := .refusal .queueFull 19 true, position := 0 } := by decide +kernel

/-- R109: a request on a DOWN link is discarded. -/
theorem test_unwatch : ((after (.unwatch 1 1#2 4#16) (crate.putLink 1 { Link.reset with locked := true })).link 1).requests = [] := by
  decide +kernel

/-- The crate with one notice at L0, sent once. -/
def notified : State := crate.putLink 0 { upLink with notices := [⟨10, .changed, 62⟩], sendCount := 1, timer := .running 4 }

/-- 12.5: ACK_NOTICE (10, 61) is stray; ACK_NOTICE (10, 62) takes the notice away. -/
theorem test_ackNotice : ((after (.ackNotice 0 10#16 61#32) notified).link 0).errors.stray = 1 ∧
    ((after (.ackNotice 0 10#16 62#32) notified).link 0).notices = [] := by decide +kernel

/-- 12.5: an ACK_RESYNC of the number clears the flag, and the head notice begins. R153: on a QUIET link it never matches, not even with
the number that the return to UP raises to; it is stray, and the RESYNC is sent. -/
theorem test_ackResync :
    (let l := (after (.ackResync 0 8#16) (crate.putLink 0 { upLink with
        notices := [⟨10, .changed, 62⟩], resyncFlag := true, resyncNumber := 8, sendCount := 1, timer := .running 4 })).link 0;
      l.resyncFlag = false ∧ l.tx = some { tag := 0#2, content := .notice ⟨10, .changed, 62⟩, position := 0 }) ∧
    (let l := (after (.ackResync 0 9#16) (crate.putLink 0 { upLink with state := .quiet, resyncNumber := 8 })).link 0;
      l.state = .up ∧ l.resyncFlag = true ∧ l.errors.stray = 1 ∧
        l.tx = some { tag := 0#2, content := .resync 9 19 0, position := 0 }) := by decide +kernel

/-! ### The lookup engine -/

/-- 12.2: the FETCH pins copy 1, and its RECORD, with epoch 19, begins in the event of its taking. -/
theorem test_fetchTaken : ((after .fetchTaken (asking (.fetch 70#16 none) crate)).copy 1).fetchPins = 1 ∧
    ((after .fetchTaken (asking (.fetch 70#16 none) crate)).link 0).tx.map (fun f => f.content.halves.take 4) =
      some [70#16, 0#16, 19#16, 1#16] := by decide +kernel

/-- 12.6: in HELD the FETCH is refused HELD and pins nothing. -/
theorem test_fetchTaken_held :
    let s := after .fetchTaken (asking (.fetch 70#16 none) (crate.setOpState .held))
    (s.link 0).tx.map TxFrame.content = some (.refusal .held 19 false) ∧ s.totalPins = 0 := by decide +kernel

/-- R135: eight points at most from the index asked for, here one. -/
theorem test_fetchProfileTaken : ((after .fetchProfileTaken (asking (.fetchProfile 5#16 3#16) crate)).link 0).tx.map
    (fun f => f.content.halves) = some [5#16, 0#16, 19#16, 0#16, 19#16, 4#16, 3#16, 4095#16, 4000#16] := by decide +kernel

/-- R20, R142: L0 watches row 4. -/
theorem test_watchTaken : ((after .watchTaken (asking (.watch 530#16) crate)).row 4).watch = [0] ∧
    ((after .watchTaken (asking (.watch 530#16) crate)).link 0).watchCount = 1 := by decide +kernel

/-- R143: L0 does not watch row 1: NOT_WATCHED. -/
theorem test_unwatchTaken : ((after .unwatchTaken (asking (.unwatch 1#16) crate)).link 0).tx.map (fun f => f.content.halves) =
    some [1#16, 1#16, 0#16] := by decide +kernel

/-! ### Ends of transmission and timers -/

/-- L0 with a frame in progress. -/
def sendingFrame (c : Content) (l : Link) : State := crate.putLink 0 { l with tx := some { tag := 0#2, content := c, position := 0 } }

theorem test_welcomeEnd : ((after (.welcomeEnd 0) (sendingFrame (.welcome 0 19 .serving) { upLink with welcome := some 0#2 })).link 0) =
    upLink := by decide +kernel

/-- 12.2: the last pin of superseded copy 1 goes with the RECORD, and the copy is FREE. -/
theorem test_answerEnd :
    let q : Request := { Request.waiting 0#2 (.fetch 70#16 none) with stage := .sending, answer := some .record, boundCopy := some 1 }
    let s := ((sendingFrame (.record (crate.recordOf 70 none 1 19)) { upLink with requests := [q] }).putCopy 1
      { liveCopy 1 none with state := .superseded, supersededAt := some 20, fetchPins := 1 }).setSuperseded [1]
    (after (.answerEnd 0) s).copy 1 = Copy.free ∧ (after (.answerEnd 0) s).superseded = [] ∧
      (after (.answerEnd 0) s).freeCount = 2558 := by decide +kernel

theorem test_promptRefusalEnd :
    let s := sendingFrame (.refusal .queueFull 19 true) { upLink with prompts := [⟨0#2, .queueFull⟩] }
    ((after (.promptRefusalEnd 0) s).link 0).prompts = [] ∧ ((after (.promptRefusalEnd 0) s).link 0).errors.refusals = 1 := by
  decide +kernel

/-- 12.5: the NOTICE that ends is the head: one send, the timer RUNNING. -/
theorem test_noticeEnd :
    let s := sendingFrame (.notice ⟨10, .changed, 61⟩) { upLink with notices := [⟨10, .changed, 61⟩] }
    ((after (.noticeEnd 0) s).link 0).sendCount = 1 ∧ ((after (.noticeEnd 0) s).link 0).timer = .running 4 := by decide +kernel

/-- 12.5: RESYNC 8 ends: one send, the timer RUNNING. -/
theorem test_resyncEnd :
    let s := sendingFrame (.resync 8 63 41) { upLink with resyncFlag := true, resyncNumber := 8 }
    ((after (.resyncEnd 0) s).link 0).sendCount = 1 ∧ ((after (.resyncEnd 0) s).link 0).timer = .running 4 := by decide +kernel

/-- R113, R150: the expiry after the fourth send makes the link QUIET. -/
theorem test_resendTimerExpiry :
    let s := after (.resendTimerExpiry 0) (crate.putLink 0 { upLink with
      notices := [⟨10, .changed, 62⟩], sendCount := 4, timer := .running 4 })
    (s.link 0).state = .quiet ∧ s.eventSet.linkQuiet = some 0 := by decide +kernel

/-- One step takes the front command; with none waiting, one word goes out (log 6). -/
theorem test_step : step (crate.setPending [.hold .host 1#16 [], .markerArrival]) =
    exec (.hold .host 1#16 []) (crate.setPending [.markerArrival]) := by rfl

/-! ### Witnesses: each shows a state and operands that meet a statement's hypotheses, clause by clause -/

/-- A port after hard reset is ready for every command. -/
theorem ready_of_reset {s : State} {p : Port} {k : CmdKind} (h : s.port p = PortState.reset) : s.Ready p k :=
  ⟨by rw [h]; rfl, by rw [h]; rfl, by rw [h]; cases k <;> decide⟩

/-- The host owns the session of `editing`. -/
theorem owns_editing (items : List ChangeItem) : (editing items).Owns .host { owner := .host, timer := 50, items := items } :=
  ⟨rfl, rfl, rfl⟩

theorem witness_StepTakesFront : (crate.setPending [.markerArrival]).pending = [.markerArrival] ∧ crate.pending = [] := ⟨rfl, rfl⟩

/-- What each table of `amended` reads as. -/
theorem amended_row (r : Nat) : r = 1023 ∧ amended.row r = { liveRow 16383 1 2559 [0] with draft := some 2558 } ∨
    r ≠ 1023 ∧ amended.row r = Row.free := by
  by_cases h : r = 1023
  · subst h; left; decide +kernel
  · right; simp [State.row, amended, Table.read, Table.find, h]

theorem amended_copy (c : Nat) :
    c = 2558 ∧ amended.copy c = { Copy.free with state := .draft, owner := some 1023, base := some 2559, body := some (body none) } ∨
    c = 2559 ∧ amended.copy c = liveCopy 1023 none ∨ c ≠ 2558 ∧ c ≠ 2559 ∧ amended.copy c = Copy.free := by
  by_cases h : c = 2558
  · subst h; left; decide +kernel
  · by_cases h' : c = 2559
    · subst h'; right; left; decide +kernel
    · right; right; simp [State.copy, amended, Table.read, Table.find, h, h']

theorem amended_slot (k : Nat) : amended.slot k = Slot.free := rfl

theorem amended_link (n : Nat) : n = 0 ∧ amended.link n = { upLink with watchCount := 1 } ∨ n ≠ 0 ∧ amended.link n = Link.reset := by
  by_cases h : n = 0
  · subst h; left; decide +kernel
  · right; simp [State.link, amended, Table.read, Table.find, h]

theorem amended_superseded : amended.superseded = [] := rfl

theorem amended_spanIndex : amended.spanIndex = [⟨16383, 1023⟩] := rfl

theorem amended_items : amended.items = [.amend 1023] := rfl

theorem amended_stagedItems : amended.stagedItems = [] := rfl

theorem amended_modesKept : amended.ModesKept := ⟨fun h => absurd h (by decide), trivial⟩

theorem amended_storesKept : amended.StoresKept where
  rowTable := by decide +kernel
  copyTable := by decide +kernel
  slotTable := by decide +kernel
  rows r := by rcases amended_row r with ⟨-, e⟩ | ⟨-, e⟩ <;> simp [e, Row.shaped, liveRow, Row.free]
  copies c := by
    rcases amended_copy c with ⟨-, e⟩ | ⟨-, e⟩ | ⟨-, -, e⟩ <;> simp [e, Copy.shaped, liveCopy, Copy.free, Copy.unpinned]
  slots k := by simp [amended_slot, Slot.shaped, Slot.free]
  draft r c := by
    rcases amended_row r with ⟨hr, e⟩ | ⟨hr, e⟩ <;> rcases amended_copy c with ⟨hc, f⟩ | ⟨hc, f⟩ | ⟨hc, hc', f⟩ <;>
      simp [e, f, liveRow, liveCopy, Row.free, Copy.free] <;> omega
  staged r c := by
    rcases amended_row r with ⟨hr, e⟩ | ⟨hr, e⟩ <;> rcases amended_copy c with ⟨hc, f⟩ | ⟨hc, f⟩ | ⟨hc, hc', f⟩ <;>
      simp [e, f, liveRow, liveCopy, Row.free, Copy.free]
  live r c := by
    rcases amended_row r with ⟨hr, e⟩ | ⟨hr, e⟩ <;> rcases amended_copy c with ⟨hc, f⟩ | ⟨hc, f⟩ | ⟨hc, hc', f⟩ <;>
      simp [e, f, liveRow, liveCopy, Row.free, Copy.free] <;> omega
  owner r c := by
    rcases amended_copy c with ⟨hc, f⟩ | ⟨hc, f⟩ | ⟨hc, hc', f⟩ <;> simp [f, liveCopy, Copy.free]
  dead r := by rcases amended_row r with ⟨-, e⟩ | ⟨-, e⟩ <;> simp [e, liveRow, Row.free]
  list := by
    refine ⟨by decide +kernel, fun c => ?_⟩
    rcases amended_copy c with ⟨hc, f⟩ | ⟨hc, f⟩ | ⟨hc, hc', f⟩ <;> simp [f, liveCopy, Copy.free, amended_superseded]
  freeCount := by decide +kernel
  index := by
    refine ⟨by decide +kernel, fun it => ?_⟩
    obtain ⟨f, r⟩ := it
    rcases amended_row r with ⟨rfl, e⟩ | ⟨hr, e⟩
    · simp [e, liveRow, amended_spanIndex, eq_comm]
    · simp [e, hr, Row.free, amended_spanIndex]
  itemsOnce := ⟨by decide +kernel, by decide +kernel, by decide +kernel⟩
  inserts r := by rcases amended_row r with ⟨-, e⟩ | ⟨-, e⟩ <;> simp [e, liveRow, Row.free, amended_items]
  amends r := by
    rcases amended_row r with ⟨rfl, e⟩ | ⟨hr, e⟩
    · simp [e, liveRow, amended_items]
    · simp [e, hr, Row.free, amended_items]
  retires r := by simp [amended_items]
  defines k := by simp [amended_slot, Slot.free, amended_items]
  stagedOnce := ⟨by decide +kernel, by decide +kernel, by decide +kernel⟩
  stagedInserts r := by
    rcases amended_row r with ⟨-, e⟩ | ⟨-, e⟩ <;> simp [e, liveRow, Row.free, amended_stagedItems]
  stagedAmends r := by
    rcases amended_row r with ⟨-, e⟩ | ⟨-, e⟩ <;> simp [e, liveRow, Row.free, amended_stagedItems]
  stagedRetires r := by
    rcases amended_row r with ⟨-, e⟩ | ⟨-, e⟩ <;> simp [e, liveRow, Row.free, amended_stagedItems]
  stagedDefines k := by simp [amended_slot, Slot.free, amended_stagedItems]

theorem amended_requestCount (p : Request → Bool) : amended.requestCount p = 0 := by
  have h : ∀ n, (amended.link n).requests = [] := fun n => by
    rcases amended_link n with ⟨-, e⟩ | ⟨-, e⟩ <;> simp [e, upLink, Link.reset]
  simp [State.requestCount, h]

theorem amended_holdsKept : amended.HoldsKept where
  references k := by rw [amended_slot]; simp [Slot.free, amended, Table.count, liveCopy, Copy.profile, body]
  named c k := by
    rcases amended_copy c with ⟨hc, f⟩ | ⟨hc, f⟩ | ⟨hc, hc', f⟩ <;> simp [f, liveCopy, Copy.free, Copy.profile, body]
  pins c := by
    rcases amended_copy c with ⟨hc, f⟩ | ⟨hc, f⟩ | ⟨hc, hc', f⟩ <;> simp [f, liveCopy, Copy.free, amended_requestCount]
  readers k := by simp [amended_slot, Slot.free, amended_requestCount]
  reading k := by simp [amended_slot, Slot.free]
  waiting n _ q := by rcases amended_link n with ⟨-, e⟩ | ⟨-, e⟩ <;> simp [e, upLink, Link.reset]
  watches := by decide +kernel
  watchSets r := by rcases amended_row r with ⟨-, e⟩ | ⟨-, e⟩ <;> simp [e, liveRow, Row.free]; decide
  unheld h := absurd h (by decide)
  unwatched h := absurd h (by decide)
  unloaded h := absurd h (by decide)
  untried h := absurd h (by decide)

theorem amended_spansKept : amended.SpansKept := by
  have h : ∀ r q, r ≠ q → amended.apart r q := fun r q hn a b ha hb => by
    rcases amended_row r with ⟨hr, e⟩ | ⟨-, e⟩
    · rcases amended_row q with ⟨hq, -⟩ | ⟨-, f⟩
      · exact absurd (hr.trans hq.symm) hn
      · simp [f, Row.free] at hb
    · simp [e, Row.free] at ha
  exact ⟨fun _ r q hn _ _ => h r q hn, fun r q hn _ _ => h r q hn, fun r q hn _ _ => h r q hn⟩

theorem witness_ReadsAnswerAndChangeNothing : crate.Ready .host .readStatus ∧ amended.StoresKept ∧
    (crate.Ready .host .readRow ∧ bitsAt 1023#32 0 16 = 1023) ∧ (crate.Ready .service .readCopy ∧ bitsAt 2559#32 0 16 = 2559) ∧
    (crate.Ready .host .readProfile ∧ bitsAt 31#32 0 16 = 31) ∧ (crate.Ready .host .listSpans ∧ bitsAt 16383#32 0 16 = 16383) :=
  ⟨ready_of_reset rfl, amended_storesKept, ⟨ready_of_reset rfl, by decide⟩, ⟨ready_of_reset rfl, by decide⟩,
    ⟨ready_of_reset rfl, by decide⟩, ready_of_reset rfl, by decide⟩

theorem witness_LinkStatusReports : crate.Ready .host .linkStatus ∧ bitsAt 11#32 0 16 = 11 ∧ (11#32).getLsbD 16 = false ∧
    bitsAt 0x1000B#32 0 16 = 11 ∧ (0x1000B#32).getLsbD 16 = true :=
  ⟨ready_of_reset rfl, by decide, by decide, by decide, by decide⟩

/-- A HOLD whole in a command FIFO. -/
def wholeHold : QueuedCommand := { words := [0x31000002#32], cut := false, released := false }

theorem witness_QueryTaken : ∃ q q', (querying 130#32).selected = some 12 ∧ (querying 130#32).QueryOffered .host q ∧
    ((querying 130#32).port .host).commands = q :: [] ∧ (querying 130#32).lookup (bitsAt (argAt q.args 0) 0 16) 19 = none ∧
    (querying 127#32).QueryOffered .host q' ∧ (querying 127#32).lookup (bitsAt (argAt q'.args 0) 0 16) 19 = some 1 ∧
    (let s := (crate.setHost { PortState.reset with commands := [q', wholeHold] }).setEngine 12;
      s.selected = some 12 ∧ (s.port .host).commands = q' :: [wholeHold]) :=
  ⟨⟨[0x06010007#32, 130#32], false, false⟩, ⟨[0x06010007#32, 127#32], false, false⟩, by decide +kernel,
    ⟨rfl, rfl, rfl, by decide, .inl rfl, by decide, nofun, by decide⟩, rfl, by decide +kernel,
    ⟨rfl, rfl, rfl, by decide, .inl rfl, by decide, nofun, by decide⟩, by decide +kernel, by decide +kernel⟩

/-- R181: the HOLD behind a QUERY is taken once the engine has taken the QUERY. -/
theorem test_command_behind_query : (after .query ((crate.setHost { PortState.reset with
    commands := [⟨[0x06010007#32, 130#32], false, false⟩, wholeHold] }).setEngine 12)).host.responses =
    [0x09010007#32, 19#32, 0x01010002#32, 2#32] := by decide +kernel

theorem witness_OpenEditAndTouch : (crate.Ready .host .openEdit ∧ crate.opState.working = true ∧ crate.session = none) ∧
    ((editing []).Ready .service .openEdit ∧ (editing []).session = some ⟨.host, 50, []⟩ ∧ Port.host ≠ .service) ∧
    ((editing []).Ready .host .openEdit ∧ (editing []).Owns .host ⟨.host, 50, []⟩) ∧
    (State.reset.Ready .host .openEdit ∧ State.reset.opState.working = false ∧ State.reset.session = none) ∧
    ((editing []).Ready .host .touch ∧ (editing []).Ready .service .touch ∧ (editing []).opState.working = true) ∧
    crate.Ready .host .touch :=
  ⟨⟨ready_of_reset rfl, rfl, rfl⟩, ⟨ready_of_reset rfl, rfl, by decide⟩, ⟨ready_of_reset rfl, owns_editing []⟩,
    ⟨ready_of_reset rfl, rfl, rfl⟩, ⟨ready_of_reset rfl, ready_of_reset rfl, rfl⟩, ready_of_reset rfl⟩

/-- INSERT's words for the highest channels, with slot 5 and one trim. -/
def insertArgs : List Word := [0x01003F00#32, 0x0FFF07FF#32, 0x01FF005D#32, 0x007F00FF#32]

/-- The one clause with 96 items less one, the other with the free count at the watermark. -/
theorem witness_InsertClaimsRowAndCopy :
    let s := (editing (List.replicate 95 (.retire 4))).setFreeCount 128
    s.Ready .host .insert ∧ s.Owns .host ⟨.host, 50, List.replicate 95 (.retire 4)⟩ ∧
    insertArgs.length = 3 + bitsAt (argAt insertArgs 2) 24 4 ∧ (spanOfWord (argAt insertArgs 0)) = ⟨16128, 256⟩ ∧
    (spanOfWord (argAt insertArgs 0)).valid = true ∧
    s.bodyValid 256 (bodyOfWords (argAt insertArgs 1) (argAt insertArgs 2) (insertArgs.drop 3)) = true ∧
    (bodyOfWords (argAt insertArgs 1) (argAt insertArgs 2) (insertArgs.drop 3)).profile = some 5 ∧
    s.overlapFound (List.replicate 95 (.retire 4)) ⟨16128, 256⟩ = false ∧ s.FirstFreeRow 2 ∧ s.FirstFreeCopy 3 ∧
    s.freeCount - 1 < s.params.poolWatermark ∧ s.lowArmed = true ∧ crate.params.poolWatermark ≤ crate.freeCount - 1 :=
  ⟨ready_of_reset rfl, ⟨by decide, rfl, rfl⟩, by decide, by decide, by decide +kernel, by decide +kernel, by decide, by decide +kernel,
    ⟨by decide, by decide, by decide⟩, ⟨by decide, by decide, by decide⟩, by decide, rfl, by decide⟩

theorem witness_SpanCheck : (editing []).Ready .host .insert ∧ (editing []).Owns .host ⟨.host, 50, []⟩ ∧
    [0x00023FFF#32, 0#32, 0#32].length = 3 + bitsAt (argAt [0x00023FFF#32, 0#32, 0#32] 2) 24 4 ∧
    (spanOfWord 0x00023FFF#32).valid = false ∧ (spanOfWord 0x00013FFF#32).valid = true ∧
    Span.valid ⟨16128, 256⟩ = true ∧ Span.overlaps ⟨16128, 256⟩ ⟨16383, 1⟩ = true :=
  ⟨ready_of_reset rfl, owns_editing [], by decide, by decide, by decide, by decide, by decide⟩

/-- One row, 1023, LIVE on copy 2559, in a session that holds `items`. -/
def lastRow (x : Row) (items : List ChangeItem) : State :=
  ((({ State.reset with opState := .serving, epoch := 19 }).putRow 1023 x).putCopy 2559 (liveCopy 1023 none)).withItems .host items

theorem ready_lastRow (x : Row) (items : List ChangeItem) (k : CmdKind) : (lastRow x items).Ready .host k := ready_of_reset rfl

theorem owns_lastRow (x : Row) (items : List ChangeItem) : (lastRow x items).Owns .host ⟨.host, 50, items⟩ := ⟨rfl, rfl, rfl⟩

/-- AMEND of every field of row 1023, no trims. -/
def amendArgs : List Word := [0x007F03FF#32, 0x000007FF#32, 0#32]

/-- Row 1023 with a draft of the session, copy 2558. -/
def draftedRow (x : Row) (items : List ChangeItem) : State :=
  (lastRow { x with draft := some 2558 } items).putCopy 2558
    { Copy.free with state := .draft, owner := some 1023, body := some (body none) }

/-- A first AMEND of row 1023, and a later one that finds the session's draft. -/
theorem witness_AmendDrafts :
    (let s := lastRow (liveRow 16383 1 2559 []) []
    s.Ready .host .amend ∧ s.Owns .host ⟨.host, 50, []⟩ ∧ bitsAt (argAt amendArgs 0) 0 16 = 1023 ∧
    amendArgs.length = 3 + (if (argAt amendArgs 0).getLsbD 22 then bitsAt (argAt amendArgs 2) 24 4 else 0) ∧
    bitsAt (argAt amendArgs 0) 16 7 ≠ 0 ∧ (s.row 1023).phase = .live ∧ hasRetire [] 1023 = false ∧ hasDraftItem [] 1023 = false ∧
    (s.row 1023).draft = none ∧ s.bodyValid (s.spanOf 1023).count
      (amendBody (argAt amendArgs 0) (argAt amendArgs 1) (argAt amendArgs 2) [] (s.bodyOf 2559)) = true ∧ s.FirstFreeCopy 0) ∧
    (let s := draftedRow (liveRow 16383 1 2559 []) [.amend 1023]
    s.Ready .host .amend ∧ s.Owns .host ⟨.host, 50, [.amend 1023]⟩ ∧ (s.row 1023).phase = .live ∧
    hasRetire [.amend 1023] 1023 = false ∧ hasDraftItem [.amend 1023] 1023 = true ∧ (s.row 1023).draft = some 2558 ∧
    s.bodyValid (s.spanOf 1023).count
      (amendBody (argAt amendArgs 0) (argAt amendArgs 1) (argAt amendArgs 2) [] (s.bodyOf 2558)) = true) :=
  ⟨⟨ready_lastRow _ _ _, owns_lastRow _ _, by decide, by decide, by decide, by decide, by decide, by decide, by decide,
    by decide +kernel, by decide, by decide, by decide⟩,
    ready_of_reset rfl, ⟨rfl, rfl, rfl⟩, by decide, by decide, by decide, by decide, by decide +kernel⟩

theorem witness_RetireByItem : bitsAt 1023#32 0 16 = 1023 ∧ hasRetire [.amend 1023] 1023 = false ∧
    ((lastRow (liveRow 16383 1 2559 []) []).row 1023).phase = .live ∧
    ((draftedRow (liveRow 16383 1 2559 []) [.amend 1023]).row 1023).phase = .live ∧
    ([ChangeItem.amend 1023].contains (.amend 1023)) = true ∧
    ((draftedRow (liveRow 16383 1 2559 []) [.amend 1023]).row 1023).draft = some 2558 ∧
    ((draftedRow { Row.free with phase := .newDraft, span := some ⟨0, 1⟩ } [.insert 1023]).row 1023).phase = .newDraft ∧
    ((draftedRow { Row.free with phase := .newDraft, span := some ⟨0, 1⟩ } [.insert 1023]).row 1023).draft = some 2558 ∧
    ((draftedRow { Row.free with phase := .newDraft, span := some ⟨0, 1⟩ } [.insert 1023]).row 1023).watch = [] ∧
    (draftedRow (liveRow 16383 1 2559 []) [.amend 1023]).Ready .host .retire ∧
    (draftedRow (liveRow 16383 1 2559 []) [.amend 1023]).Owns .host ⟨.host, 50, [.amend 1023]⟩ :=
  ⟨by decide, by decide, by decide, by decide, by decide, by decide, by decide, by decide, by decide, ready_of_reset rfl, rfl, rfl, rfl⟩

/-- Rows 0, 1 and 4 match; with 93 other items there is room for all three, with 94 for none. Row 1023 of `amended` matches and its
AMEND item becomes a RETIRE item. -/
theorem witness_RetireGroupWholeOrNone :
    (editing []).Ready .host .retireGroup ∧ (editing []).groupRows 255 = [0, 1, 4] ∧ bitsAt 255#32 0 8 = 255 ∧
    (editing (List.replicate 93 (.retire 900))).groupRows 255 = [0, 1, 4] ∧ (List.replicate 93 (ChangeItem.retire 900)).length + 3 = 96 ∧
    (editing (List.replicate 94 (.retire 900))).groupRows 255 = [0, 1, 4] ∧ 96 < (List.replicate 94 (ChangeItem.retire 900)).length + 3 ∧
    (List.replicate 94 (ChangeItem.retire 900)).contains (.amend 4) = false ∧
    (amended.Ready .host .retireGroup ∧ amended.Owns .host ⟨.host, 50, [.amend 1023]⟩ ∧ amended.StoresKept ∧
      amended.groupRows 255 = [1023] ∧ [1023].filter (fun r => !List.contains [ChangeItem.amend 1023] (.amend r)) = []) := by
  refine ⟨ready_of_reset rfl, ?_, ?_, ?_, ?_, ?_, ?_, ?_, ready_of_reset rfl, ⟨rfl, rfl, rfl⟩, amended_storesKept, ?_, ?_⟩ <;>
    decide +kernel

/-- Slot 31 with the two points that its range allows at its ends. -/
def defineArgs : List Word := [0x0002001F#32, 0x80000000#32, 0x7FFF0FFF#32]

theorem witness_ProfileEditsTaken :
    ((editing []).Ready .host .defineProfile ∧ bitsAt (argAt defineArgs 0) 0 16 = 31 ∧
      defineArgs.length = 1 + bitsAt (argAt defineArgs 0) 16 8 ∧ pointsValid ((defineArgs.drop 1).map pointOfWord) = true ∧
      ((editing []).slot 31).state = .free ∧ (96 ≤ (List.replicate 96 (ChangeItem.retire 4)).length) ∧
      ((editing (List.replicate 96 (.retire 4))).slot 31).state = .free ∧
      (((editing [.defineProfile 31]).putSlot 31 { activeSlot 0 with state := .pending, activated := none }).slot 31).state = .pending ∧
      ((crate.putSlot 31 { activeSlot 0 with state := .staged, activated := none }).slot 31).state = .staged ∧
      ((crate.putSlot 31 (activeSlot 0)).slot 31).state = .active) ∧
    ((editing []).Ready .host .dropProfile ∧ (editing []).saving = false ∧ savingCrate.saving = true ∧
      (savingCrate.setHost PortState.reset).Ready .host .dropProfile ∧ bitsAt 31#32 0 16 = 31 ∧
      ((editing []).slot 0).state = .active ∧ ((editing []).slot 0).refCount = 0 ∧ ((editing []).slot 0).readerCount = 0 ∧
      0 < ((editing []).slot 5).refCount ∧ ((editing []).slot 31).state = .free ∧
      0 < (((editing [.defineProfile 31]).putSlot 31 { activeSlot 1 with state := .pending, activated := none }).slot 31).refCount) :=
  ⟨⟨ready_of_reset rfl, by decide, by decide, by decide +kernel, by decide, by decide, by decide +kernel, by decide, by decide, by decide⟩,
    ready_of_reset rfl, by decide, by decide +kernel, ready_of_reset rfl, by decide, by decide, by decide, by decide, by decide, by decide,
    by decide⟩

theorem witness_PointListCheck : (editing []).Ready .host .defineProfile ∧ (editing []).Owns .host ⟨.host, 50, []⟩ ∧
    [0x0001001F#32, 0#32].length = 1 + bitsAt (argAt [0x0001001F#32, 0#32] 0) 16 8 ∧ bitsAt (argAt [0x0001001F#32, 0#32] 0) 0 16 = 31 ∧
    ((editing []).slot 31).state = .free ∧ pointsValid (([0x0001001F#32, 0#32].drop 1).map pointOfWord) = false ∧
    pointsValid (entryPoints (List.replicate 128 255#8)) = false :=
  ⟨ready_of_reset rfl, owns_editing [], by decide, by decide, by decide, by decide, by decide +kernel⟩

/-- The crate in a session, its directory holding the rows `rows`, all DEAD, and its pool the copies `copies`, all SUPERSEDED. -/
def crowded (rows copies : List Nat) (items : List ChangeItem) : State :=
  { (editing items) with
    rows := rows.map (fun r => (r, { Row.free with phase := .dead }))
    copies := copies.map (fun c => (c, { Copy.free with state := .superseded })) }

theorem witness_EditCommandsRefused :
    ((editing []).Ready .host .insert ∧ (editing []).Owns .host ⟨.host, 50, []⟩ ∧
      ([0x00200200#32, 10#32, 0x1F8#32].length = 3 + bitsAt (argAt [0x00200200#32, 10#32, 0x1F8#32] 2) 24 4 ∧
        (spanOfWord 0x00200200#32).valid = true ∧ (editing []).bodyValid 32 (bodyOfWords 10#32 0x1F8#32 []) = false) ∧
      ((editing []).bodyValid 32 (bodyOfWords 10#32 0#32 []) = true ∧ ((editing []).row 4).span = some ⟨512, 64⟩ ∧
        (spanOfWord 0x00200200#32).overlaps ⟨512, 64⟩ = true ∧ ((editing []).row 4).phase = .live) ∧
      96 ≤ (List.replicate 96 (ChangeItem.retire 4)).length ∧ (∃ r < 1024, ((crowded [0] [] []).row r).phase = .free)) ∧
    ((editing []).Ready .host .amend ∧ bitsAt 0x00020001#32 0 16 = 1 ∧ ((editing []).row 900).phase = .free ∧
      ((editing [.retire 4]).row 4).phase = .live ∧ ChangeItem.retire 4 ∈ (editing [.retire 4]).items ∧
      bitsAt 0x00000001#32 16 7 = 0 ∧ ((crate.putRow 1 { liveRow 64 64 1 [] with phase := .dying }).row 1).phase = .dying) ∧
    ((editing []).Ready .host .retire ∧ ((crowded [7] [] []).row 7).phase = .dead) ∧
    ((sealedCrate .atMarker).withItems .host []).Ready .host .sealSession ∧
      ((sealedCrate .atMarker).withItems .host []).Owns .host ⟨.host, 50, []⟩ ∧
      ((sealedCrate .atMarker).withItems .host []).staged = some ⟨[.amend 1], .atMarker⟩ := by
  refine ⟨⟨ready_of_reset rfl, owns_editing [], ?_, ?_, ?_, ?_⟩, ⟨ready_of_reset rfl, ?_⟩, ⟨ready_of_reset rfl, ?_⟩, ready_of_reset rfl,
    ⟨rfl, rfl, rfl⟩, rfl⟩
  · decide +kernel
  · decide +kernel
  · decide
  · exact ⟨1, by decide, by decide⟩
  · decide
  · decide

/-- A directory without a FREE row and a pool without a FREE copy (ROWS_FULL, POOL_FULL). -/
theorem witness_EditCommandsRefused_full : (∀ r < 1024, ((crowded (List.range 1024) [] []).row r).phase ≠ .free) ∧
    (∀ c < 2560, ((crowded [] (List.range 2560) []).copy c).state ≠ .free) := by
  have h {α : Type} (f : Nat → α) (d : α) : ∀ (l : List Nat) (k : Nat), k ∈ l →
      Table.read d (l.map (fun r => (r, f r))) k = f k := by
    intro l k
    induction l with
    | nil => simp
    | cons x xs ih =>
      intro hk
      by_cases e : x = k
      · subst e; simp [Table.read, Table.find]
      · have := ih (by simpa [Ne.symm e] using hk)
        simpa [Table.read, Table.find, Ne.symm e, e] using this
  refine ⟨fun r hr => ?_, fun c hc => ?_⟩
  · have := h (fun _ => { Row.free with phase := .dead }) Row.free (List.range 1024) r (by simpa using hr)
    simp [State.row, crowded, this]
  · have := h (fun _ => { Copy.free with state := .superseded }) Copy.free (List.range 2560) c (by simpa using hc)
    simp [State.copy, crowded, this]

theorem witness_SealHandsOver : (editing [.amend 1]).Ready .host .sealSession ∧ (editing [.amend 1]).staged = none ∧
    (editing [.amend 1]).Owns .host ⟨.host, 50, [.amend 1]⟩ ∧ ([ChangeItem.amend 1, .insert 2, .retire 4] : List ChangeItem).Nodup ∧
    ((draftedRow (liveRow 16383 1 2559 []) [.amend 1023]).copy 2558).state = .draft ∧
    (editing []).Owns .host ⟨.host, 50, []⟩ :=
  ⟨ready_of_reset rfl, rfl, owns_editing _, by decide, by decide, owns_editing _⟩

theorem witness_SessionEndsInAbandonment : amended.session = some ⟨.host, 50, [.amend 1023]⟩ ∧ amended.Ready .host .abandon ∧
    amended.Owns .host ⟨.host, 50, [.amend 1023]⟩ ∧ amended.StoresKept ∧ (amended.row 1023).draft = some 2558 ∧
    (∀ r, .insert r ∈ [ChangeItem.amend 1023] → (amended.row r).watch = []) :=
  ⟨rfl, ready_of_reset rfl, ⟨rfl, rfl, rfl⟩, amended_storesKept, by decide, fun r h => by simp at h⟩

theorem witness_StagedSetSwitches :
    (State.reset.Ready .host .switch ∧ State.reset.opState.working = false) ∧
    (crate.Ready .host .switch ∧ crate.opState.working = true ∧ crate.staged = none) ∧
    (((sealedCrate .atMarker).setEpoch 4294967294).Ready .host .switch ∧ (sealedCrate .atMarker).opState.working = true ∧
      (sealedCrate .atMarker).staged = some ⟨[.amend 1], .atMarker⟩ ∧ ((sealedCrate .atMarker).setEpoch 4294967294).epoch < 4294967295) ∧
    (((sealedCrate .atMarker).setEpoch 4294967295).Ready .host .switch ∧
      4294967295 ≤ ((sealedCrate .atMarker).setEpoch 4294967295).epoch) ∧
    (((sealedCrate .atMarker).setEpoch 4294967294).staged = some ⟨[.amend 1], .atMarker⟩ ∧
      (sealedCrate .atMarker).params.markerEnable = true ∧ (sealedCrate .onCommand).staged = some ⟨[.amend 1], .onCommand⟩) :=
  ⟨⟨ready_of_reset rfl, rfl⟩, ⟨ready_of_reset rfl, rfl, rfl⟩, ⟨ready_of_reset rfl, rfl, rfl, by decide⟩,
    ⟨ready_of_reset rfl, by decide⟩, rfl, rfl, rfl⟩

/-- A switch in which no queue overflows, and one in which L0's does. -/
theorem witness_StagedSetSwitches_overflow :
    (∀ n, ((sealedCrate .onCommand).link n).overflowsOn
      ((sealedCrate .onCommand).switchPostings ⟨[.amend 1], .onCommand⟩ n) = false) ∧
    (∃ n, ((flooded .onCommand).link n).overflowsOn ((flooded .onCommand).switchPostings ⟨[.amend 1], .onCommand⟩ n) = true) ∧
    (flooded .onCommand).staged = some ⟨[.amend 1], .onCommand⟩ ∧ (flooded .onCommand).opState.working = true := by
  refine ⟨fun n => ?_, ⟨0, by decide +kernel⟩, rfl, rfl⟩
  have h : [ChangeItem.amend 1].flatMap ((sealedCrate .onCommand).postingsOf ((sealedCrate .onCommand).epoch + 1)) = [] := by
    decide +kernel
  simp [State.switchPostings, h, postingsFor, Link.overflowsOn]

/-- A queue of 32 notices, for rows 0 to 31. -/
def fullQueue : List Notice := (List.range 32).map (fun r => ⟨r, .changed, 61⟩)

theorem witness_PostingsJoinMergeOrOverflow : Link.reset.state = .down ∧ upLink.state ≠ .down ∧
    (∀ y ∈ fullQueue, y.row ≠ (⟨32, .retired, 62⟩ : Notice).row) ∧ 32 ≤ fullQueue.length ∧ (fullQueue.drop 1).length < 32 ∧
    fullQueue = [] ++ ⟨0, .changed, 61⟩ :: fullQueue.drop 1 ∧ (∀ z ∈ fullQueue.drop 1, z.row ≠ 0) := by decide +kernel

/-- One row, 1023, NEW_STAGED on copy 2558, in the staged set: a state that keeps the stores' condition. -/
def staging : State :=
  { State.reset with
    opState := .serving, epoch := 19, freeCount := 2559, spanIndex := [⟨16383, 1023⟩], staged := some ⟨[.insert 1023], .onCommand⟩
    rows := [(1023, { Row.free with phase := .newStaged, span := some ⟨16383, 1⟩, staged := some 2558 })]
    copies := [(2558, { Copy.free with state := .staged, owner := some 1023, body := some (body none) })] }

theorem staging_row (r : Nat) :
    r = 1023 ∧ staging.row r = { Row.free with phase := .newStaged, span := some ⟨16383, 1⟩, staged := some 2558 } ∨
    r ≠ 1023 ∧ staging.row r = Row.free := by
  by_cases h : r = 1023
  · subst h; left; decide +kernel
  · right; simp [State.row, staging, Table.read, Table.find, h]

theorem staging_copy (c : Nat) :
    c = 2558 ∧ staging.copy c = { Copy.free with state := .staged, owner := some 1023, body := some (body none) } ∨
    c ≠ 2558 ∧ staging.copy c = Copy.free := by
  by_cases h : c = 2558
  · subst h; left; decide +kernel
  · right; simp [State.copy, staging, Table.read, Table.find, h]

theorem staging_slot (k : Nat) : staging.slot k = Slot.free := rfl

theorem staging_lists : staging.superseded = [] ∧ staging.spanIndex = [⟨16383, 1023⟩] ∧ staging.items = [] ∧
    staging.stagedItems = [.insert 1023] := ⟨rfl, rfl, rfl, rfl⟩

theorem staging_storesKept : staging.StoresKept := by
  obtain ⟨hs, hx, hi, hg⟩ := staging_lists
  constructor
  case rowTable | copyTable | slotTable | freeCount => decide +kernel
  case itemsOnce | stagedOnce => exact ⟨by decide +kernel, by decide +kernel, by decide +kernel⟩
  case slots | defines | stagedDefines => intro k; simp [staging_slot, Slot.shaped, Slot.free, hi, hg]
  case copies =>
    intro c; rcases staging_copy c with ⟨-, e⟩ | ⟨-, e⟩ <;> simp [e, Copy.shaped, Copy.free, Copy.unpinned]
  case owner => intro r c; rcases staging_copy c with ⟨-, e⟩ | ⟨-, e⟩ <;> simp [e, Copy.free]
  case rows | dead => intro r; rcases staging_row r with ⟨-, e⟩ | ⟨-, e⟩ <;> simp [e, Row.shaped, Row.free]
  case draft | staged | live =>
    intro r c
    rcases staging_row r with ⟨hr, e⟩ | ⟨hr, e⟩ <;> rcases staging_copy c with ⟨hc, f⟩ | ⟨hc, f⟩ <;>
      simp [e, f, Row.free, Copy.free] <;> omega
  case list =>
    refine ⟨by decide +kernel, fun c => ?_⟩
    rcases staging_copy c with ⟨-, f⟩ | ⟨-, f⟩ <;> simp [f, Copy.free, hs]
  case index =>
    refine ⟨by decide +kernel, fun it => ?_⟩
    obtain ⟨f, r⟩ := it
    rcases staging_row r with ⟨rfl, e⟩ | ⟨hr, e⟩
    · simp [e, hx, eq_comm]
    · simp [e, hr, Row.free, hx]
  case inserts | amends | retires | stagedAmends | stagedRetires =>
    intro r; rcases staging_row r with ⟨-, e⟩ | ⟨-, e⟩ <;> simp [e, Row.free, hi, hg]
  case stagedInserts =>
    intro r
    rcases staging_row r with ⟨rfl, e⟩ | ⟨hr, e⟩ <;> simp [e, Row.free, hg]
    exact hr

theorem witness_WithdrawDiscardsSet :
    (State.reset.Ready .host .withdraw ∧ State.reset.opState.working = false) ∧
    (crate.Ready .host .withdraw ∧ crate.opState.working = true ∧ crate.staged = none) ∧
    (staging.Ready .host .withdraw ∧ staging.opState.working = true ∧ staging.staged = some ⟨[.insert 1023], .onCommand⟩ ∧
      staging.session = none ∧ staging.StoresKept ∧ (staging.row 1023).phase = .newStaged ∧ (staging.row 1023).staged = some 2558 ∧
      (∀ r, namesRow [.insert 1023] r → (staging.row r).phase = .newStaged → (staging.row r).watch = [])) ∧
    (((sealedCrate .onCommand).row 1).phase = .live ∧ ((sealedCrate .onCommand).row 1).staged = some 3) ∧
    (((sealedCrate .onCommand).withItems .service []).Ready .host .withdraw ∧
      ((sealedCrate .onCommand).withItems .service []).session ≠ none) :=
  ⟨⟨ready_of_reset rfl, rfl⟩, ⟨ready_of_reset rfl, rfl, rfl⟩,
    ⟨ready_of_reset rfl, rfl, rfl, rfl, staging_storesKept, by decide, by decide,
      fun r _ _ => by rcases staging_row r with ⟨-, e⟩ | ⟨-, e⟩ <;> simp [e, Row.free]⟩,
    ⟨by decide, by decide⟩, ready_of_reset rfl, by decide⟩

theorem witness_SaveBegins : (crate.Ready .service .save ∧ crate.saving = false ∧ crate.opState.working = true) ∧ amended.StoresKept ∧
    ((savingCrate.setHost PortState.reset).Ready .host .save ∧ (savingCrate.setHost PortState.reset).saving = true) ∧
    (State.reset.Ready .host .save ∧ State.reset.saving = false ∧ State.reset.opState.working = false) :=
  ⟨⟨ready_of_reset rfl, rfl, rfl⟩, amended_storesKept, ⟨ready_of_reset rfl, by decide +kernel⟩, ready_of_reset rfl, rfl, rfl⟩

theorem witness_AbortSaveByPhase : crate.Ready .host .abortSave ∧ crate.snap.savePhase = .idle ∧
    (savingCrate.setHost PortState.reset).Ready .host .abortSave ∧ savingCrate.snap.savePhase = .erasing ∧
    programming.snap.savePhase = .records ∧ (programming.setSnap { programming.snap with savePhase := .header }).snap.savePhase = .header :=
  ⟨ready_of_reset rfl, rfl, ready_of_reset rfl, by decide +kernel, by decide +kernel, rfl⟩

/-- RESTORE in HELD, with rows in use and with every row FREE, and while a save runs. -/
theorem witness_OperatingStateCommands (o : OpState) (k : CmdKind) : (crate.setOpState o).Ready .host k ∧
    (crate.setOpState o).opState = o ∧ (crate.setOpState o).saving = false ∧
    ((crate.setOpState .cold).setEpoch 4294967294).epoch < 4294967295 ∧
    4294967295 ≤ ((crate.setOpState .cold).setEpoch 4294967295).epoch ∧
    ((savingCrate.setHost PortState.reset).Ready .host .restore ∧ (savingCrate.setHost PortState.reset).saving = true) ∧
    ((crate.setOpState .held).opState = .held ∧ ((crate.setOpState .held).row 4).phase ≠ .free) ∧
    (let s := State.reset.setOpState .held;
      s.Ready .host .restore ∧ s.saving = false ∧ s.opState = .held ∧ (∀ r, (s.row r).phase = .free) ∧ s.session = none ∧
      s.staged = none ∧ ∀ j, (s.slot j).readerCount = 0) :=
  ⟨ready_of_reset rfl, rfl, rfl, by decide, by decide, ⟨ready_of_reset rfl, by decide +kernel⟩, ⟨rfl, by decide⟩, ready_of_reset rfl, rfl, rfl,
    fun _ => rfl, rfl, rfl, fun _ => rfl⟩

theorem witness_ClearAllEmptiesStores :
    (let s := crate.setOpState .held;
      s.Ready .host .clearAll ∧ s.saving = false ∧ s.session = none ∧ (∀ c, (s.copy c).fetchPins = 0 ∧ (s.copy c).snapPin = false) ∧
      ∀ k, (s.slot k).readerCount = 0) ∧
    ((savingCrate.setHost PortState.reset).Ready .host .clearAll ∧ (savingCrate.setHost PortState.reset).saving = true) ∧
    crate.opState ≠ .held ∧ ((editing []).setOpState .held).session ≠ none ∧
    0 < (((crate.putCopy 1 { liveCopy 1 none with fetchPins := 1 }).setOpState .held).copy 1).fetchPins := by
  refine ⟨⟨ready_of_reset rfl, rfl, rfl, fun c => ?_, fun k => ?_⟩, ⟨ready_of_reset rfl, by decide +kernel⟩, by decide, by decide, by decide⟩
  · by_cases h0 : c = 0
    · subst h0; decide
    · by_cases h1 : c = 1
      · subst h1; decide
      · by_cases h2 : c = 2
        · subst h2; decide
        · simp [State.copy, State.setOpState, crate, Table.read, Table.find, h0, h1, h2, Copy.free]
  · by_cases h0 : k = 0
    · subst h0; decide
    · by_cases h5 : k = 5
      · subst h5; decide
      · simp [State.slot, State.setOpState, crate, Table.read, Table.find, h0, h5, Slot.free]

theorem witness_SetParamReplaces : crate.Ready .host .setParam ∧
    (bitsAt 0x010000FF#32 24 8 = 1 ∧ bitsAt 0x010000FF#32 0 16 = 255) ∧ (bitsAt 0x02000010#32 24 8 = 2 ∧ bitsAt 0x02000010#32 0 16 = 16) ∧
    (bitsAt 0x03000A00#32 24 8 = 3 ∧ bitsAt 0x03000A00#32 0 16 = 2560) ∧ (bitsAt 0x04000001#32 24 8 = 4 ∧ bitsAt 0x04000001#32 0 16 = 1) :=
  ⟨ready_of_reset rfl, by decide, by decide, by decide, by decide⟩

theorem witness_CommandsRefusedInOrder :
    (CmdKind.ofCode 0xFF#8 = none ∧ (crate.port .host).commands = [] ∧ (crate.port .host).overflow = false ∧
      (crate.port .host).responses.length ≤ 63) ∧
    (CmdKind.readRow ≠ .query ∧ crate.Ready .host .readRow) ∧ ¬CountFits [] .readRow ∧
    (CountFits [1024#32] .readRow ∧ ¬ArgsInRange [1024#32] .readRow) ∧
    (CountFits [] .touch ∧ ArgsInRange [] .touch ∧ CmdKind.touch.isEdit = true ∧ crate.Ready .host .touch) ∧
    State.reset.opState.working = false ∧ crate.session = none ∧
    (editing []).session = some ⟨.host, 50, []⟩ ∧ (editing []).Ready .service .touch :=
  ⟨⟨by decide, rfl, rfl, by decide⟩, ⟨by decide, ready_of_reset rfl⟩, show ¬(0 + 1 = 2) by decide,
    ⟨rfl, show ¬(bitsAt 1024#32 0 16 ≤ 1023) by decide⟩, ⟨rfl, trivial, by decide, ready_of_reset rfl⟩, rfl, rfl, rfl, ready_of_reset rfl⟩

/-- QUERYs whose last word comes: of no argument, of a channel and of a probe code one too high, and of the highest channel. -/
theorem witness_CommandsRefusedInOrder_query :
    ([] ++ [0x06000007#32] = headerWord 0x06#8 1 7#16 :: [] ∧ (crate.port .host).commands = [] ∧ ¬CountFits [] .query) ∧
    ([0x06010007#32] ++ [16384#32] = headerWord 0x06#8 2 7#16 :: [16384#32] ∧ CountFits [16384#32] .query ∧
      ¬ArgsInRange [16384#32] .query) ∧
    (CountFits [16383#32, 4096#32] .query ∧ ¬ArgsInRange [16383#32, 4096#32] .query) ∧
    (CountFits [16383#32] .query ∧ ArgsInRange [16383#32] .query) :=
  ⟨⟨by decide, rfl, by simp [CountFits]⟩, ⟨by decide, .inl rfl, fun h => absurd h.1 (by decide)⟩,
    ⟨.inr rfl, fun h => absurd (h.2 rfl) (by decide)⟩, .inl rfl, show bitsAt 16383#32 0 16 ≤ 16383 by decide, nofun⟩

/-- The host port with a FIFO of 64 words, the last of a command that declares two. -/
def fullPort : State :=
  crate.setHost { PortState.reset with
    responses := List.replicate 64 0#32
    commands := [{ words := 0x063E0000#32 :: List.replicate 62 0#32, cut := false, released := false },
      { words := [0x02010001#32], cut := false, released := false }] }

/-- The host port with the commands `qs`. -/
def holding (qs : List QueuedCommand) : State := crate.setHost { PortState.reset with commands := qs }

/-- A READ_ROW with its header alone, and the same cut by an overflow. -/
def partialRead (cut : Bool) : QueuedCommand := { words := [0x02010001#32], cut := cut, released := false }

theorem witness_CommandWordsJoinCutAndGo :
    ((crate.port .host).commands = [] ∧ (crate.port .host).overflow = false ∧ 1 < headerCount 0x02010001#32) ∧
    (let q : QueuedCommand := { words := [0x11030007#32], cut := false, released := false };
      ((holding [q]).port .host).commands = [] ++ [q] ∧ ((holding [q]).port .host).overflow = false ∧
      ((holding [q]).port .host).wordCount < 64 ∧ ((holding [q]).port .host).takeable = none ∧
      q.words.length + 1 < headerCount q.header) ∧
    (((holding [partialRead true, partialRead false]).port .host).commands = [partialRead true] ++ [partialRead false] ∧
      ((holding [partialRead true, partialRead false]).port .host).takeable = none ∧
      (partialRead false).words.length < headerCount (partialRead false).header) ∧
    (((holding [partialRead true]).port .host).commands = [] ++ [partialRead true] ∧ (partialRead true).cut = true ∧
      (partialRead true).released = false ∧ ((holding [partialRead true]).port .host).takeable = none) ∧
    (CmdKind.readRow ≠ .query ∧ [0x02010001#32] ++ [5#32] = headerWord CmdKind.readRow.code ([5#32].length + 1) 1#16 :: [5#32] ∧
      ((holding [partialRead false]).port .host).commands = [{ words := [0x02010001#32], cut := false, released := false }]) ∧
    (((crate.setHost { PortState.reset with overflow := true }).port .host).overflow = true ∧
      ((crate.setHost { PortState.reset with overflow := true }).port .host).takeable = none) ∧
    ((fullPort.port .host).overflow = false ∧ (fullPort.port .host).wordCount = 64 ∧ (fullPort.port .host).takeable = none ∧
      (∀ q ∈ (fullPort.port .host).commands, q.released = true → q.cut = true) ∧
      (fullPort.port .host).commands.getLast? = some (partialRead false) ∧ (partialRead false).incomplete = true) ∧
    ((crate.port .host).takeable = none ∧ (crate.port .host).commands.getLast? = none) ∧
    (CmdKind.ofCode (headerKind 0x31000002#32) = some .hold ∧ headerCount 0x31000002#32 = 1) ∧
    (((holding [partialRead false]).port .host).commands = [partialRead false] ∧
      CmdKind.ofCode (headerKind (partialRead false).header) = some .readRow ∧
      ((holding [partialRead false]).port .host).responses.length + (1 + CmdKind.readRow.maxData) ≤ 64) ∧
    (let q : QueuedCommand := { words := [0x08010001#32], cut := true, released := false };
      ((holding [q]).port .host).commands = [q] ∧ CmdKind.ofCode (headerKind q.header) = none) := by decide +kernel

/-- R181, R185: PORT_STATUS lets a cut READ_ROW go, answered BAD_LENGTH (26), and the HOLD behind it follows. -/
theorem test_command_behind_cut : (after (.portStatus .host 0#32) (holding [partialRead true, wholeHold])).host.responses =
    [0x1A000001#32, 0x01010002#32, 2#32] := by decide +kernel

/-- R181: the HOLD at the front goes alone at its port, and the FIFO is empty then. -/
theorem witness_GoInOrder : ∃ t, State.FrontGoes .host (holding [wholeHold]) t ∧ State.GoInOrder .host crate crate := by
  refine ⟨_, .whole _ _ _ .hold rfl rfl (by decide) (by decide) (by decide) (by decide +kernel), .stop _ (not_takeable (by decide +kernel))⟩

theorem witness_PortWordsReadAndWritten : (crate.port .host).responses = [] ∧
    (((crate.setHost { PortState.reset with responses := [5#32] }).port .host).responses = 5#32 :: [] ∧
      PortState.reset.takeable = none) ∧
    (let s := crate.setHost { PortState.reset with
        responses := List.replicate 64 0#32, commands := [{ words := [0x02010001#32, 5#32], cut := false, released := false }] };
      (s.port .host).responses = 0#32 :: List.replicate 63 0#32 ∧ (s.port .host).overflow = false ∧
      (s.port .host).commands =
        [{ words := headerWord CmdKind.readRow.code ([5#32].length + 1) 1#16 :: [5#32], cut := false, released := false }]) := by decide +kernel

theorem witness_ServiceTransactionActs : (bitsOf 0#4).length < 8 ∧ (bitsAt 0x02#8 1 4 ≠ 0 ∧ 4 < bitsAt 0xA0#8 5 3) ∧
    (bitsOf 0#31).length < 32 ∧
    (bitsAt 0x80#8 1 4 = 0 ∧ (0x80#8).getLsbD 0 = false ∧ bitsAt 0x80#8 5 3 = 4 ∧ bitsAt 0x00#8 5 3 = 0 ∧ bitsAt 0x20#8 5 3 = 1 ∧
      bitsAt 0x40#8 5 3 = 2 ∧ bitsAt 0x60#8 5 3 = 3) ∧
    (bitsAt 0x21#8 1 4 = 0 ∧ (0x21#8).getLsbD 0 = true ∧ bitsAt 0x21#8 5 3 = 1) ∧
    (bitsAt 0x81#8 1 4 = 0 ∧ (0x81#8).getLsbD 0 = true ∧ bitsAt 0x81#8 5 3 = 4 ∧ bitsAt 0x01#8 5 3 = 0 ∧ bitsAt 0x41#8 5 3 = 2 ∧
      bitsAt 0x61#8 5 3 = 3) := by decide

/-- The crate with L0's receiver in a state, after a number of bad frames. -/
def receiving (rx : Receiver) (bad : Nat) : State := crate.putLink 0 { upLink with rx := rx, badCount := bad }

/-- The HELLO of level 1 up to its TAIL. -/
def helloFrame : RxFrame := { head := 0x0420#16, kept := [1#16], received := 1 }

theorem witness_LinkWordMovesReceiver : (crate.link 1).locked = false ∧
    ((receiving (.inFrame helloFrame) 6).link 0).locked = true ∧ ((receiving (.inFrame helloFrame) 6).link 0).badCount < 7 ∧
    parityGood 0#19 = false ∧ (parityGood (wireWord .idle 0#16) = true ∧ wireMarker (wireWord .idle 0#16) = .idle) ∧
    (parityGood (wireWord .head 0x0420#16) = true ∧ wireMarker (wireWord .head 0x0420#16) = .head) ∧
    (parityGood (wireWord .body 1#16) = true ∧ wireMarker (wireWord .body 1#16) = .body) ∧
    (parityGood (wireWord .tail 0#16) = true ∧ wireMarker (wireWord .tail 0#16) = .tail) ∧
    ((receiving .outside 0).link 0).rx = .outside ∧ ((receiving .discarding 0).link 0).rx = .discarding ∧
    ((receiving (.inFrame helloFrame) 0).link 0).rx = .inFrame helloFrame ∧ crc16 (helloFrame.head :: helloFrame.kept) ≠ 0#16 ∧
    (headLength 0x8420#16 = 1 ∧ BoardKind.ofCode (headKind 0x8420#16) = none) := by decide +kernel

/-- A frame whose kind no board sends, received whole. -/
def strangeFrame : RxFrame := { head := 0x8420#16, kept := [1#16], received := 1 }

/-- Seven bad frames on an UP link, in every state of its receiver, and a TAIL with the right check value. -/
theorem witness_LinkWordMovesReceiver_eighth : (∀ rx ∈ [.outside, .discarding, .inFrame helloFrame, .inFrame strangeFrame],
      ((receiving rx 7).link 0).state ≠ .down ∧ 7 ≤ ((receiving rx 7).link 0).badCount ∧ ((receiving rx 7).link 0).rx = rx ∧
        ((receiving rx 7).link 0).locked = true) ∧
    strangeFrame.received = headLength strangeFrame.head ∧ BoardKind.ofCode (headKind strangeFrame.head) = none ∧
    crc16 (strangeFrame.head :: strangeFrame.kept) = wireData (wireWord .tail (crc16 [0x8420#16, 1#16])) ∧
    parityGood (wireWord .tail (crc16 [0x8420#16, 1#16])) = true ∧ wireMarker (wireWord .tail (crc16 [0x8420#16, 1#16])) = .tail := by
  decide +kernel

theorem witness_GoodTailIsItsFrame : ∃ w, ((receiving (.inFrame helloFrame) 0).link 0).locked = true ∧
    ((receiving (.inFrame helloFrame) 0).link 0).rx = .inFrame helloFrame ∧ parityGood w = true ∧ wireMarker w = .tail ∧
    helloFrame.received = headLength helloFrame.head ∧ helloFrame.kept.length = headLength helloFrame.head ∧
    crc16 (helloFrame.head :: helloFrame.kept) = wireData w ∧ BoardKind.ofCode (headKind helloFrame.head) = some .hello ∧
    headReserved helloFrame.head = 0 ∧ BoardKind.hello.permits (headLength helloFrame.head) = true :=
  ⟨wireWord .tail (crc16 [0x0420#16, 1#16]), by decide +kernel⟩

theorem witness_LinkResetsAndLock : crate.Ready .host .resetLink ∧ bitsAt 11#32 0 16 = 11 ∧ (crate.link 11).state = .down ∧
    bitsAt 2#32 0 16 = 2 ∧ (crate.link 2).state ≠ .down ∧ (crate.link 11).locked = false ∧ (crate.link 2).locked = true ∧
    ((crate.putLink 11 { Link.reset with locked := true }).link 11).locked = true ∧
    ((crate.putLink 11 { Link.reset with locked := true }).link 11).state = .down :=
  ⟨ready_of_reset rfl, by decide, by decide, by decide, by decide, by decide, by decide, by decide, by decide⟩

theorem witness_HelloAdmits : (crate.link 2).locked = true ∧ (crate.link 2).state ≠ .down ∧
    ((crate.putLink 11 { Link.reset with locked := true }).link 11).locked = true ∧
    ((crate.putLink 11 { Link.reset with locked := true }).link 11).state = .down ∧
    ((crate.putLink 11 { Link.reset with tx := some ⟨0#2, .refusal .badRequest 19 true, 0⟩ }).link 11).tx ≠ none ∧
    0#16 ≠ 1#16 := by decide +kernel

theorem witness_RequestFramesJoinQueue : (crate.link 0).locked = true ∧ (crate.link 0).state = .up ∧ (crate.link 0).requests.length < 4 ∧
    4 ≤ ((crate.putLink 0 { upLink with requests := List.replicate 4 (Request.waiting 0#2 (.watch 5#16)) }).link 0).requests.length ∧
    ((crate.putLink 0 { upLink with state := .quiet }).link 0).state = .quiet ∧
    ((crate.putLink 11 { Link.reset with locked := true }).link 11).state = .down := by decide +kernel

theorem witness_AcknowledgementsMatchOrStray : (notified.link 0).locked = true ∧ (notified.link 0).state = .up ∧
    (notified.link 0).notices = ⟨10, .changed, 62⟩ :: [] ∧ (notified.link 0).resyncFlag = false ∧
    (⟨10, .changed, 62⟩ : Notice).row = (10#16).toNat ∧ (⟨10, .changed, 62⟩ : Notice).epoch = (62#32).toNat ∧
    (crate.link 0).notices = [] ∧ ((crate.putLink 0 { upLink with resyncFlag := true, resyncNumber := 65535 }).link 0).resyncNumber =
      (65535#16).toNat ∧
    (let l := (crate.putLink 0 { upLink with state := .quiet, resyncNumber := 65535 }).link 0;
      l.locked = true ∧ l.state = .quiet ∧ (l.resyncNumber + 1) % 65536 = (0#16).toNat) ∧
    (let l := (crate.putLink 0 { Link.reset with locked := true }).link 0; l.locked = true ∧ l.state = .down) := by decide +kernel

/-- A request of L0 that the engine has answered. -/
def takenRequest : Request := { Request.waiting 1#2 (.watch 5#16) with stage := .taken, boundEpoch := some 19, answer := some (.refusal .notFound) }

/-- A request of L0 whose RECORD of copy 1 is decided. -/
def takenFetch : Request :=
  { Request.waiting 1#2 (.fetch 70#16 (some 100#16)) with
    stage := .taken, boundEpoch := some 19, answer := some .record, boundCopy := some 1 }

/-- R132, R133: channel 70 of row 1, bound to copy 1 at epoch 19; the body names no profile, so the probe is ABSENT. -/
theorem test_record_contents : ((State.kick 0 (crate.putLink 0 { upLink with requests := [takenFetch] })).link 0).tx =
    some { tag := 1#2, position := 0, content := .record { channel := 70, epoch := 19, row := 1, span := ⟨64, 64⟩
                                                           activated := 19, effective := 10, body := body none, probe := .noProfile } } := by
  decide +kernel

theorem witness_TransmitterChoosesByRank :
    ((sendingFrame (.welcome 0 19 .serving) upLink).link 0).tx ≠ none ∧ (crate.link 0).tx = none ∧
    ((crate.putLink 0 { upLink with welcome := some 3#2 }).link 0).welcome = some 3#2 ∧
    (((crate.putLink 0 { upLink with resyncFlag := true, sendCount := 3, timer := .runOut }).link 0).resyncFlag = true ∧
      ((crate.putLink 0 { upLink with resyncFlag := true, sendCount := 3, timer := .runOut }).link 0).timer = .runOut) ∧
    (crate.putLink 0 { upLink with notices := fullQueue }).link 0 = { upLink with notices := ⟨0, .changed, 61⟩ :: fullQueue.drop 1 } ∧
    ((crate.putLink 0 { upLink with requests := [takenRequest] }).link 0).requests = [] ++ takenRequest :: [] ∧
    (takenFetch.stage = .taken ∧ takenFetch.answer = some .record ∧ takenFetch.ask = .fetch 70#16 (some 100#16) ∧
      takenFetch.boundCopy = some 1 ∧ takenFetch.boundEpoch = some 19) ∧
    ((crate.putLink 0 { upLink with prompts := [⟨1#2, .queueFull⟩] }).link 0).prompts = ⟨1#2, .queueFull⟩ :: [] := by decide +kernel

/-- A NOTICE of row 10, RETIRED at epoch 62, at a position of its transmission. -/
def sendingNotice (i : Nat) : Link := { upLink with tx := some { tag := 0#2, content := .notice ⟨10, .retired, 62⟩, position := i } }

/-- 11.2: a NOTICE has kind 0x27 and four body words: row, kind, epoch high, epoch low; an IDLE word follows its TAIL. -/
theorem test_notice_words : [0, 1, 2, 3, 4, 6].map (fun i => wireData (sendingNotice i).lineWord) =
    [0x9C80#16, 10#16, 1#16, 0#16, 62#16, 0#16] := by decide

theorem witness_FramesOnTheLine : Link.reset.tx = none ∧
    (∃ f, (sendingNotice 5).tx = some f ∧ f.position = [10#16, 1#16, 0#16, 62#16].length + 1 ∧ f.content.halves = [10#16, 1#16, 0#16, 62#16]) ∧
    (Content.record { channel := 16383, epoch := 70000, row := 1023, span := ⟨16128, 256⟩, activated := 69999, effective := 0
                      body := { body (some 31) with trims := List.replicate 8 ⟨0, 0⟩ }, probe := .value 5 }).halves.length = 23 :=
  ⟨rfl, ⟨_, rfl, rfl, by decide⟩, by decide⟩

/-- L0's queue with a TAKEN request of tag 1 before the one asked for. -/
def askingBehind (a : Ask) (s : State) : State := s.putLink 0 { upLink with requests := [takenRequest, Request.waiting 1#2 a] }

/-- Every clause has a request of this shape at the head of L0's queue, or behind one of the same tag. -/
theorem witness_FetchesTaken : (asking (.fetch 16383#16 (some 4095#16)) crate).selected = some 0 ∧
    ((asking (.fetch 127#16 none) crate).link 0).requests = [] ++ Request.waiting 1#2 (.fetch 127#16 none) :: [] ∧
    (asking (.fetch 127#16 none) crate).lookup 127 19 = some 1 ∧ ((asking (.fetch 127#16 none) crate).row 1).live = some 1 ∧
    (asking (.fetch 16383#16 none) crate).lookup 16383 19 = none ∧
    (asking (.fetch 16384#16 (some 4096#16)) crate).selected = some 0 ∧
    (asking (.fetch 0#16 none) (crate.setOpState .restoring)).selected = some 0 ∧
    (asking (.fetch 0#16 none) (crate.setOpState .held)).selected = some 0 ∧
    ((askingBehind (.fetch 127#16 none) crate).selected = some 0 ∧
      ((askingBehind (.fetch 127#16 none) crate).link 0).requests = [takenRequest] ++ Request.waiting 1#2 (.fetch 127#16 none) :: [] ∧
      takenRequest.tag = (Request.waiting 1#2 (.fetch 127#16 none)).tag ∧ takenRequest.stage ≠ .waiting) ∧
    (asking (.fetchProfile 31#16 16#16) crate).selected = some 0 ∧ ((asking (.fetchProfile 5#16 16#16) crate).slot 5).state = .active ∧
    ((asking (.fetchProfile 31#16 16#16) crate).slot 31).state ≠ .active ∧ (asking (.fetchProfile 32#16 17#16) crate).selected = some 0 ∧
    (asking (.fetchProfile 5#16 0#16) (crate.setOpState .cold)).selected = some 0 ∧
    (asking (.fetchProfile 5#16 0#16) (crate.setOpState .held)).selected = some 0 := by decide +kernel

theorem witness_WatchesTaken : (asking (.watch 127#16) crate).selected = some 0 ∧ (asking (.watch 127#16) crate).opState = .serving ∧
    (asking (.watch 127#16) crate).lookup 127 19 = some 1 ∧ 0 ∉ ((asking (.watch 127#16) crate).row 1).watch ∧
    ((asking (.watch 127#16) crate).link 0).watchCount < 256 ∧
    (let s := crate.putLink 0 { upLink with watchCount := 256, requests := [Request.waiting 1#2 (.watch 127#16)] };
      s.selected = some 0 ∧ 256 ≤ (s.link 0).watchCount) ∧
    (let s := asking (.watch 127#16) (crate.putRow 1 (liveRow 64 64 1 [0])); s.selected = some 0 ∧ 0 ∈ (s.row 1).watch) ∧
    ((asking (.watch 16384#16) crate).selected = some 0 ∧ (asking (.watch 16383#16) crate).lookup 16383 19 = none) ∧
    (asking (.watch 0#16) (crate.setOpState .cold)).selected = some 0 ∧ (asking (.watch 0#16) (crate.setOpState .held)).selected = some 0 ∧
    (askingBehind (.watch 127#16) crate).selected = some 0 ∧
    (let s := asking (.unwatch 1#16) (crate.putRow 1 (liveRow 64 64 1 [0]));
      s.selected = some 0 ∧ (s.row 1).phase = .live ∧ 0 ∈ (s.row 1).watch) ∧
    0 ∉ ((asking (.unwatch 1023#16) crate).row 1023).watch ∧
    (let s := asking (.unwatch 1#16) (crate.putRow 1 { liveRow 64 64 1 [0] with phase := .dead });
      s.selected = some 0 ∧ 0 ∈ (s.row 1).watch ∧ (s.row 1).phase ≠ .live ∧ (s.row 1).phase ≠ .dying) ∧ (asking (.unwatch 1024#16) crate).selected = some 0 ∧
    (askingBehind (.unwatch 1#16) crate).selected = some 0 := by decide +kernel

/-- Link `n` of the crate is UP with nothing queued, or as after hard reset. -/
theorem crate_link (n : Nat) : crate.link n = upLink ∨ crate.link n = Link.reset := by
  by_cases h0 : n = 0
  · subst h0; left; decide +kernel
  · by_cases h2 : n = 2
    · subst h2; left; decide +kernel
    · right; simp [State.link, crate, Table.read, Table.find, h0, h2]

theorem witness_EngineTurnsAndLookupFinds : (∀ k < 14, ¬ crate.Offering k) ∧ crate.selected = none ∧
    (querying 127#32).selected = some 12 ∧ (asking (.watch 530#16) (crate.setEngine 13)).selected = some 0 ∧
    crate.lookup 127 19 = some 1 ∧ (crate.row 1).span = some ⟨64, 64⟩ ∧
    (crate.row 1).born = some 19 ∧ (crate.row 1).dies = none ∧ (⟨64, 1⟩ : IndexItem) ∈ crate.spanIndex := by
  refine ⟨fun k _ h => ?_, by decide +kernel⟩
  rcases h with ⟨-, q, hq, -⟩ | ⟨-, q, h⟩ | ⟨-, q, h⟩
  · rcases crate_link k with e | e <;> simp [e, upLink, Link.reset] at hq
  · exact nomatch h.front
  · exact nomatch h.front

/-- A request of L0 that is SENDING. -/
def sendingRequest (a : Ask) (x : Answer) (c k : Option Nat) : Request :=
  { Request.waiting 0#2 a with stage := .sending, answer := some x, boundCopy := c, boundSlot := k }

/-- L0 sending the answer `x` with content `c` to the request `a`. -/
def answering (a : Ask) (x : Answer) (c : Content) (copy slot : Option Nat) : State :=
  sendingFrame c { upLink with requests := [sendingRequest a x copy slot] }

/-- L0 sends a RECORD of copy 1, which row 1 owns as DEAD. -/
def lastPin : State :=
  ((answering (.fetch 70#16 none) .record (.record (crate.recordOf 70 none 1 19)) (some 1) none).putCopy 1
    { liveCopy 1 none with state := .superseded, supersededAt := some 20, fetchPins := 1 }).putRow 1
      { liveRow 64 64 1 [] with phase := .dead, live := none, dies := some 20 }

theorem lastPin_row (r : Nat) : r = 1 ∧ (lastPin.row r).watch = [] ∨ r ≠ 1 ∧ lastPin.row r = crate.row r := by
  by_cases h : r = 1
  · subst h; left; decide +kernel
  · right; refine ⟨h, ?_⟩; rw [lastPin, State.row_putRow]; simp [h, answering, State.row_putCopy]; rfl

/-- The last pin of a DEAD row's copy, with no DEAD row watched. -/
theorem lastPin_deadUnwatched : lastPin.DeadUnwatched := by
  intro r hd
  rcases lastPin_row r with ⟨-, h⟩ | ⟨-, h⟩
  · exact h
  · rw [h] at hd
    by_cases h0 : r = 0
    · subst h0; exact absurd hd (by decide +kernel)
    · by_cases h1 : r = 1
      · subst h1; exact absurd hd (by decide +kernel)
      · by_cases h4 : r = 4
        · subst h4; exact absurd hd (by decide +kernel)
        · simp [State.row, crate, Table.read, Table.find, h0, h1, h4, Row.free] at hd

/-- A reset of L0 frees just copy 1. -/
theorem witness_LinkReleased : [1].Nodup ∧ (∀ c, c ∈ [1] ↔ lastPin.freedByReset 0 c = true) ∧ lastPin.DeadUnwatched := by
  refine ⟨by decide, fun c => ?_, lastPin_deadUnwatched⟩
  by_cases h : c = 1
  · subst h; decide +kernel
  · have hq : (lastPin.link 0).requests = [sendingRequest (.fetch 70#16 none) .record (some 1) none] := by decide +kernel
    simp [State.freedByReset, State.boundTo, hq, sendingRequest, h, Ne.symm h]

theorem witness_AnswerEndReleases :
    (let s := answering (.fetch 70#16 none) .record (.record (crate.recordOf 70 none 1 19)) (some 1) none;
      (s.link 0).tx = some ⟨0#2, .record (crate.recordOf 70 none 1 19), 0⟩ ∧
      (s.link 0).requests = [] ++ sendingRequest (.fetch 70#16 none) .record (some 1) none :: [] ∧ (s.copy 1).state = .live ∧
      1 < ((s.putCopy 1 { liveCopy 1 none with state := .superseded, fetchPins := 2 }).copy 1).fetchPins ∧
      ((s.putCopy 1 { liveCopy 1 none with state := .superseded, fetchPins := 1, snapPin := true }).copy 1).snapPin = true) ∧
    ((lastPin.copy 1).state = .superseded ∧ (lastPin.copy 1).fetchPins = 1 ∧ (lastPin.copy 1).snapPin = false ∧
      (lastPin.row 1).phase = .dead ∧ (lastPin.link 0).requests = [] ++ sendingRequest (.fetch 70#16 none) .record (some 1) none :: []) ∧
    (let s := answering (.fetchProfile 5#16 0#16) .profile (.profile (crate.profilePartOf 5 0 19)) none (some 5);
      (s.link 0).tx = some ⟨0#2, .profile (crate.profilePartOf 5 0 19), 0⟩ ∧
      (s.link 0).requests = [] ++ sendingRequest (.fetchProfile 5#16 0#16) .profile none (some 5) :: []) ∧
    (let a : Unwatched := { row := 1, notWatched := true, watchCount := 0 };
      let s := answering (.unwatch 1#16) (.unwatched a) (.unwatched a) none none;
      (s.link 0).tx = some ⟨0#2, .unwatched a, 0⟩ ∧
      (s.link 0).requests = [] ++ sendingRequest (.unwatch 1#16) (.unwatched a) none none :: []) ∧
    (let s := answering (.fetch 70#16 none) (.refusal .held) (.refusal .held 19 false) none none;
      (s.link 0).tx = some ⟨0#2, .refusal .held 19 false, 0⟩) := by decide +kernel

/-- R38, R18: with its last pin the copy goes, and the DEAD row and its index item with it. -/
theorem test_answerEnd_dead : (after (.answerEnd 0) lastPin).copy 1 = Copy.free ∧ (after (.answerEnd 0) lastPin).row 1 = Row.free ∧
    (after (.answerEnd 0) lastPin).spanIndex = [⟨0, 0⟩, ⟨512, 4⟩] := by decide +kernel

theorem witness_FrameEndsAndResendTimer :
    ((sendingFrame (.welcome 0 19 .serving) upLink).link 0).tx = some ⟨0#2, .welcome 0 19 .serving, 0⟩ ∧
    ((sendingFrame (.refusal .queueFull 19 true) upLink).link 0).tx = some ⟨0#2, .refusal .queueFull 19 true, 0⟩ ∧
    (let s := sendingFrame (.notice ⟨10, .changed, 61⟩) { upLink with notices := [⟨10, .changed, 61⟩] };
      (s.link 0).tx = some ⟨0#2, .notice ⟨10, .changed, 61⟩, 0⟩ ∧ (s.link 0).resyncFlag = false ∧
      (s.link 0).notices.head? = some ⟨10, .changed, 61⟩) ∧
    ((sendingFrame (.notice ⟨10, .changed, 61⟩) upLink).link 0).notices.head? ≠ some ⟨10, .changed, 61⟩ ∧
    (let s := sendingFrame (.resync 65535 63 256) { upLink with resyncFlag := true, resyncNumber := 65535 };
      (s.link 0).tx = some ⟨0#2, .resync 65535 63 256, 0⟩ ∧ (s.link 0).resyncNumber = 65535) ∧
    ((sendingFrame (.resync 8 63 0) upLink).link 0).resyncFlag = false ∧
    ((crate.putLink 11 { upLink with sendCount := 3, timer := .running 16 }).link 11).timer = .running 16 ∧
    ((crate.putLink 11 { upLink with sendCount := 4, timer := .running 1 }).link 11).timer = .running 1 ∧
    ((crate.putLink 11 { upLink with sendCount := 4, timer := .running 1 }).link 11).state = .up ∧
    (crate.link 11).timer = .stopped := by decide +kernel

theorem witness_FlashFailuresEndTheirOperation : (savingCrate.saving = true ∧ savingCrate.flash.op = some .identify) ∧
    (erasing.saving = true ∧ erasing.flash.op = some (.erase .bankB)) ∧
    (programming.saving = true ∧ programming.flash.op = some (.program .bankB 2)) ∧
    ((after (.hardReset true true) crate).saving = false ∧ (after (.hardReset true true) crate).flash.op = some .identify) ∧
    (after (.hardReset true true) crate).snap.origin = some .cold := by decide +kernel

/-- A bank with one record: row 1023, channel 16,383. -/
def oneEntry : List Byte := recordEntry 1023 ⟨16383, 1⟩ (body none)

/-- A header of a bank with one record, saved at an epoch. -/
def oneHeader (e : Nat) : BankHeader :=
  { sequence := 3, savedEpoch := e, profileCount := 0, recordCount := 1, bodyCheck := 0#32 }

/-- A part that selects a bank, with bank A's header surveyed. -/
def selecting (a : Survey) : State :=
  (after (.hardReset true true) State.reset).setSnap { Snapshot.reset with restorePhase := .selecting, origin := some .cold, surveyA := a }
    |>.setFlash { Flash.blank with op := some (.read .bankB 0) }

/-- A save about to read bank B's header page, bank A's surveyed as `a`, with `cells` in the flash. -/
def choosing (a : Survey) (cells : List Host.Cell) : State :=
  (savingCrate.setSnap { savingCrate.snap with surveyA := a }).setFlash { Flash.blank with op := some (.read .bankB 0), cells := cells }

/-- A flash whose bank B has the header `h`. -/
def headedB (h : BankHeader) : List Host.Cell := writeBytes (pageAddress .bankB 0) (headerPage h) []

/-- A part that selects a bank, with bank A surveyed as `a` and the header `h` in bank B. -/
def selectingB (a : Survey) (h : BankHeader) : State := (selecting a).setFlash { Flash.blank with op := some (.read .bankB 0), cells := headedB h }

theorem witness_FlashReadsLeadOn : savingCrate.flash.op = some .identify ∧
    (savingCrate.setFlash { Flash.blank with op := some (.read .bankA 0) }).flash.op = some (.read .bankA 0) ∧
    ((choosing (.valid (oneHeader 18)) []).saving = true ∧ (choosing (.valid (oneHeader 18)) []).snap.target = none ∧
      headerOfPage (readPage (applyChanges [] []) .bankB 0) = none) ∧
    (headerOfPage (readPage (applyChanges [] (headedB (oneHeader 18))) .bankB 0) = some (oneHeader 18) ∧
      (choosing .invalid (headedB (oneHeader 18))).flash.op = some (.read .bankB 0) ∧
      ({ oneHeader 18 with sequence := 4294967295 } : BankHeader).sequence + 1 > 4294967295) ∧
    ((selecting .invalid).saving = false ∧ (selecting .invalid).flash.op = some (.read .bankB 0) ∧
      (selecting .invalid).snap.triedA = false ∧ (selecting .invalid).snap.triedB = false ∧ (selecting .invalid).snap.target = none) ∧
    (selectingB (.valid { oneHeader 18 with sequence := 2 }) (oneHeader 4294967295)).snap.surveyA = .valid { oneHeader 18 with sequence := 2 } := by
  decide +kernel

/-- R164: with both headers valid and A's sequence the lower, bank A is the target. -/
theorem test_chooses_the_older_bank : (after (.pageReadDone []) (choosing (.valid { oneHeader 18 with sequence := 2 })
    (headedB (oneHeader 18)))).flash.op = some (.erase .bankA) := by decide +kernel

/-- R102, R174: bank B is newer, but its saved epoch is the limit, so bank A is begun in the same event. -/
theorem test_falls_back : (after (.pageReadDone []) (selectingB (.valid { oneHeader 18 with sequence := 2 })
    (oneHeader 4294967295))).flash.op = some (.read .bankA 1) := by decide +kernel

/-- The headers meet the conditions of the clauses. -/
theorem headers_pass_or_fail : (oneHeader 4294967294).Passes ∧ ¬(oneHeader 4294967295).Passes ∧
    ({ oneHeader 18 with recordCount := 0, bodyCheck := 0xFFFFFFFF#32 } : BankHeader).Passes ∧
    ({ oneHeader 18 with recordCount := 0 } : BankHeader).failsAtOnce :=
  ⟨⟨by decide, by decide, by decide⟩, fun h => absurd h.epoch (by decide), ⟨by decide, by decide, by decide⟩, .inr (by decide)⟩

/-- A part that loads bank A, whose header is `h`, its one page of entries being read. -/
def loading (h : BankHeader) (cells : List Host.Cell) : State :=
  ((selecting (.valid h)).setSnap { Snapshot.reset with
    restorePhase := .loading, origin := some .cold, surveyA := .valid h, loading := some .bankA, triedA := true
    targetEpoch := some 19, check := some crc32Start, readPos := some 0 }).setFlash
      { cells := cells, device := none, op := some (.read .bankA 1) }

/-- The header that belongs to `oneEntry`. -/
def rightHeader : BankHeader := { oneHeader 18 with bodyCheck := crc32From crc32Start oneEntry }

theorem extendCheck_check (bytes : List Byte) (s : State) :
    (s.extendCheck bytes).snap.check = some (crc32From (s.snap.check.getD crc32Start) bytes) := rfl

theorem loading_check (h : BankHeader) (cells : List Host.Cell) : (loading h cells).snap.check = some crc32Start := rfl

/-- Bank A's body of `n` records, rows and channels rising from 0, four to a page. -/
def someEntries (n : Nat) : List Byte := (List.range n).flatMap (fun r => recordEntry r ⟨r, 1⟩ (body none))

/-- A part whose bank A, being loaded, has five records, with `cells` in the flash; bank B is `b` and not tried. -/
def loadingFive (b : Survey) (cells : List Host.Cell) : State :=
  let s := loading { oneHeader 18 with recordCount := 5 } cells
  s.setSnap { s.snap with surveyB := b }

/-- A middle page that loads. -/
theorem witness_BankPagesLoad_middle :
    (let s := loadingFive .invalid (writeBytes 256 (someEntries 4) []);
      s.flash.op = some (.read .bankA (0 + 1)) ∧ s.snap.loadingHeader = some (.bankA, { oneHeader 18 with recordCount := 5 }) ∧
      s.snap.readPos = some 0 ∧ 0 + 1 < ({ oneHeader 18 with recordCount := 5 } : BankHeader).pages ∧
      (s.loadPage { oneHeader 18 with recordCount := 5 } 0 (readPage s.flash.cells .bankA 1)).2 = true) := by decide +kernel

/-- A last page that loads to the right check value. -/
theorem witness_BankPagesLoad_last :
    let s := loading rightHeader (writeBytes 256 oneEntry [])
    s.flash.op = some (.read .bankA (0 + 1)) ∧ s.snap.loadingHeader = some (.bankA, rightHeader) ∧ s.snap.readPos = some 0 ∧
      rightHeader.pages = 0 + 1 ∧ ∃ v, s.loadPage rightHeader 0 (readPage s.flash.cells .bankA (0 + 1)) = (v, true) ∧
        v.snap.check = some rightHeader.bodyCheck := by
  refine ⟨rfl, rfl, rfl, rfl, ?_⟩
  have he : recordEntriesOn rightHeader (0 - profilePages rightHeader.profileCount)
      (readPage (loading rightHeader (writeBytes 256 oneEntry [])).flash.cells .bankA (0 + 1)) = [oneEntry] := by decide +kernel
  have hs : (State.loadRecord 19 oneEntry ((loading rightHeader (writeBytes 256 oneEntry [])).extendCheck oneEntry)).isSome = true := by
    decide +kernel
  obtain ⟨v, hv⟩ := Option.isSome_iff_exists.mp hs
  refine ⟨v, ?_, by rw [(PortsKept.loadRecord_stores hv).snap, extendCheck_check, loading_check, Option.getD_some, rightHeader]⟩
  have h0 : ¬ 0 < profilePages rightHeader.profileCount := by decide +kernel
  have ht : orZero (loading rightHeader (writeBytes 256 oneEntry [])).snap.targetEpoch = 19 := rfl
  simp only [State.loadPage, if_neg h0, he, ht, State.loadEntries, hv]

/-- A page that does not load, with no other bank and with a valid one. -/
theorem witness_BankPagesLoad_refused :
    (let s := loadingFive .invalid [];
      (s.loadPage { oneHeader 18 with recordCount := 5 } 0 (readPage s.flash.cells .bankA 1)).2 = false ∧ s.snap.untried = none ∧
      s.snap.tried .bankA = true ∧ s.snap.survey .bankB = .invalid) ∧
    ((loadingFive (.valid (oneHeader 18)) []).snap.tried .bankA = true ∧
      (loadingFive (.valid (oneHeader 18)) []).snap.survey .bankB = .valid (oneHeader 18) ∧
      (loadingFive (.valid (oneHeader 18)) []).snap.tried .bankB = false) := by decide +kernel

/-- R174: a bank whose page does not load is given up for the other, valid one. -/
theorem test_page_falls_back : (after (.pageReadDone []) (loadingFive (.valid (oneHeader 18)) [])).flash.op = some (.read .bankB 1) := by
  decide +kernel

/-- R41, R42: watermark 2560, a page of one good record and erased bytes: POOL_LOW stays pending beside RESTORE_FAILED. -/
theorem test_pool_low_survives_a_failed_page :
    let s := loadingFive .invalid (writeBytes 256 oneEntry [])
    (after (.pageReadDone []) (s.setParams { s.params with poolWatermark := 2560 })).eventSet.set = 0x420#12 := by decide +kernel

theorem witness_BankEntriesLoad :
    (let e := profileEntry 31 [⟨0, -32768⟩, ⟨4095, 32767⟩];
      fieldAt e 0 1 = 31 ∧ (State.reset.slot 31).state = .free ∧ pointsValid (entryPoints e) = true) ∧
    fieldAt (profileEntry 32 []) 0 1 = 32 ∧
    (fieldAt oneEntry 0 2 = 1023 ∧ entrySpan oneEntry = ⟨16383, 1⟩ ∧ entryBody oneEntry = some (body none) ∧
      (State.reset.row 1023).phase = .free ∧ State.reset.bodyValid 1 (body none) = true) ∧
    fieldAt (recordEntry 1024 ⟨0, 1⟩ (body none)) 0 2 = 1024 := by decide +kernel

/-- The save's header page being programmed and read back. -/
def heading : State :=
  let h := savingCrate.snap.headerWith 0#32
  (erasing.setSnap { erasing.snap with savePhase := .header, check := some 0#32 }).setFlash
    { Flash.blank with op := some (.program .bankB 0), device := some (.program .bankB 0 (headerPage h)) }

theorem witness_FlashWritesLandAndLeadOn : (erasing.flash.device = some (.erase .bankB) ∧ erasing.flash.op = some (.erase .bankB) ∧
      erasing.saving = true ∧ erasing.snap.target = some .bankB ∧ erasing.snap.profileSet ≠ [] ∧
      erasing.snap.saveList.drop erasing.snap.writePos ≠ []) ∧
    (let s := erasing.setSnap { erasing.snap with profileSet := [], saveList := [] };
      s.snap.profileSet = [] ∧ s.snap.saveList.drop s.snap.writePos = [] ∧ s.saving = true) ∧
    (programming.flash.device = some (.program .bankB 2 (List.replicate 256 0#8)) ∧ programming.flash.op = some (.program .bankB 2) ∧
      (List.replicate 256 0#8).length = 256) ∧
    readPage (applyChanges [(131584, 1#8)] (writeBytes (pageAddress .bankB 2) (List.replicate 256 0#8) [])) .bankB 2 ≠
      List.replicate 256 0#8 ∧
    (heading.snap.savePhase = .header ∧ heading.snap.target = some .bankB ∧
      heading.flash.device = some (.program .bankB 0 (headerPage (savingCrate.snap.headerWith 0#32)))) := by decide +kernel

/-- R167: the header page reads back right, and the save is done. -/
theorem test_save_completes : (after (.pageProgramDone []) heading).snap.last = .saveDone .bankB 4 19 2 3 ∧
    (after (.pageProgramDone []) heading).eventSet.set = 0x004#12 := by decide +kernel

/-- A page of the save in phase `ph`, which reads back right: of `profiles` profiles, `records` records left to save. -/
def midSave (ph : SavePhase) (profiles : List Nat) (records : List SaveItem) : State :=
  (programming.setSnap { programming.snap with
    savePhase := ph, check := some 0#32, profileSet := profiles, saveList := records }).setFlash
      { Flash.blank with op := some (.program .bankB 1), device := some (.program .bankB 1 (List.replicate 256 255#8)) }

/-- Five records of three copies: the first page holds four of them. -/
def fiveItems : List SaveItem := [⟨0, 0⟩, ⟨1, 1⟩, ⟨4, 2⟩, ⟨5, 3⟩, ⟨6, 4⟩]

theorem witness_SavePagesLeadOn :
    (let s := midSave .profiles [0, 5, 6] fiveItems;
      s.flash.device = some (.program .bankB 1 (List.replicate 256 255#8)) ∧ s.flash.op = some (.program .bankB 1) ∧
      s.snap.target = some .bankB ∧ s.snap.check = some 0#32 ∧ s.snap.savePhase = .profiles ∧ s.snap.profileSet.drop (2 * 1) ≠ [] ∧
      readPage (applyChanges [] (writeBytes (pageAddress .bankB 1) (List.replicate 256 255#8) s.flash.cells)) .bankB 1 =
        List.replicate 256 255#8) ∧
    (let s := midSave .profiles [0, 5] fiveItems;
      s.snap.profileSet.drop (2 * 1) = [] ∧ s.snap.saveList.drop s.snap.writePos ≠ []) ∧
    (midSave .profiles [0, 5] []).snap.saveList.drop (midSave .profiles [0, 5] []).snap.writePos = [] ∧
    (let s := midSave .records [0, 5] fiveItems;
      s.snap.savePhase = .records ∧ (s.snap.saveList.drop s.snap.writePos).take 4 = fiveItems.take 4 ∧
      (fiveItems.take 4).map SaveItem.copy = [0, 1, 2, 3] ∧ ([0, 1, 2, 3] : List Nat).Nodup ∧ s.snap.saveList.drop (s.snap.writePos + 4) ≠ []) ∧
    (midSave .records [0, 5] (fiveItems.take 3)).snap.saveList.drop 3 = [] := by decide +kernel

/-- R166: the page's four items raise the write position, and the second record page is begun. -/
theorem test_record_page_matched : (after (.pageProgramDone []) (midSave .records [] fiveItems)).snap.writePos = 4 ∧
    (after (.pageProgramDone []) (midSave .records [] fiveItems)).flash.op = some (.program .bankB 2) := by decide +kernel

theorem witness_ProbeArithmetic : pointsValid [⟨0, -32768⟩, ⟨4095, 32767⟩] = true ∧
    ({ body none with trims := [⟨3, 127⟩] } : Body).trims = [] ++ ⟨3, 127⟩ :: [] ∧ (3 : Nat) = 4099 - 4096 := by decide +kernel

theorem witness_SavedBankReadsBack : (Span.valid ⟨16383, 1⟩ = true ∧ Body.inRange (body (some 31)) = true ∧ trimsOrdered 1 [⟨0, -128⟩] = true) ∧
    pointsValid [⟨0, -32768⟩, ⟨4095, 32767⟩] = true ∧ (oneHeader 4294967295).savedEpoch ≤ 4294967295 := by decide +kernel

/-- A step of the crate with a HELLO at the front: a state that the invariants hold in, and a next state. -/
theorem witness_LinksStayWithinBounds : (crate.setPending [.hello 2 0#2 1#16]).LinksKept ∧
    ∃ t, step (crate.setPending [.hello 2 0#2 1#16]) = .next t := by
  refine ⟨fun n => ?_, _, rfl⟩
  have h : (crate.setPending [.hello 2 0#2 1#16]).link n = crate.link n := rfl
  rw [h]
  rcases crate_link n with e | e <;> rw [e] <;> constructor <;> simp [upLink, Link.reset]

theorem witness_ModesStayLegal : savingCrate.ModesKept ∧ ∃ t, step savingCrate = .next t :=
  ⟨⟨fun h => absurd h (by decide +kernel), by
    have h : savingCrate.flash.op = some .identify := by decide +kernel
    simp only [State.waitKept, h]; exact .inl (by decide +kernel)⟩, _, rfl⟩

/-- A copy that is not one of the crate's three is FREE, and a slot not one of its two. -/
theorem crate_bodies : crate.BodiesKept where
  bodies := by
    intro c b
    by_cases h0 : c = 0
    · subst h0; revert b; simp [State.copy, crate, Table.read, Table.find, liveCopy, body, Body.inRange]
    · by_cases h1 : c = 1
      · subst h1; revert b; simp [State.copy, crate, Table.read, Table.find, liveCopy, body, Body.inRange]
      · by_cases h2 : c = 2
        · subst h2; revert b; simp [State.copy, crate, Table.read, Table.find, liveCopy, body, Body.inRange]
        · simp [State.copy, crate, Table.read, Table.find, h0, h1, h2, Copy.free]
  points := by
    intro k ps
    by_cases h0 : k = 0
    · subst h0; revert ps; simp [State.slot, crate, Table.read, Table.find, activeSlot, pointsValid, inputsAscending]
    · by_cases h5 : k = 5
      · subst h5; revert ps; simp [State.slot, crate, Table.read, Table.find, activeSlot, pointsValid, inputsAscending]
      · simp [State.slot, crate, Table.read, Table.find, h0, h5, Slot.free]

theorem witness_PortsStayWithinBounds : (crate.setPending [.hold .host 1#16 []]).PortsSafe ∧
    ∃ t, step (crate.setPending [.hold .host 1#16 []]) = .next t := by
  refine ⟨⟨?_, ?_, crate_bodies.1, crate_bodies.2⟩, _, rfl⟩ <;> constructor <;> decide +kernel

theorem witness_EpochNeverFalls : (sealedCrate .onCommand).ModesKept ∧
    ∃ t, exec (.switch .host 1#16 []) (sealedCrate .onCommand) = .next t :=
  ⟨⟨fun h => absurd h (by decide), trivial⟩, _, rfl⟩

theorem witness_FlashKeepsForm : Memory.wf erasing.flash.cells = true ∧ ∃ t, step erasing = .next t := ⟨by decide +kernel, _, rfl⟩

theorem witness_StoresStayConsistent : (amended.setPending [.touch .host 1#16 []]).ModesKept ∧
    (amended.setPending [.touch .host 1#16 []]).StoresKept ∧ ∃ t, step (amended.setPending [.touch .host 1#16 []]) = .next t :=
  ⟨{ amended_modesKept with }, { amended_storesKept with }, _, rfl⟩

theorem witness_HoldsStayCounted : (amended.setPending [.touch .host 1#16 []]).HoldsKept ∧
    (amended.setPending [.touch .host 1#16 []]).StoresKept ∧ ∃ t, step (amended.setPending [.touch .host 1#16 []]) = .next t :=
  ⟨{ amended_holdsKept with }, { amended_storesKept with }, _, rfl⟩

theorem witness_SpansStayDisjoint : (amended.setPending [.touch .host 1#16 []]).SpansKept ∧
    (amended.setPending [.touch .host 1#16 []]).StoresKept ∧ ∃ t, step (amended.setPending [.touch .host 1#16 []]) = .next t :=
  ⟨{ amended_spansKept with }, { amended_storesKept with }, _, rfl⟩

theorem witness_ParityRule : parityGood 0#19 = false ∧ (0 : Nat) < 19 ∧ (18 : Nat) < 19 ∧ (0 : Nat) ≠ 18 := by decide +kernel

theorem witness_FrameCheckRule :
    ({ helloFrame with received := 0 } : RxFrame).received ≠ headLength helloFrame.head ∧
    helloFrame.received = headLength helloFrame.head ∧ crc16 (helloFrame.head :: helloFrame.kept) ≠ 0#16 ∧
    helloFrame.checked (crc16 (helloFrame.head :: helloFrame.kept)) = .inr (.hello 1) := by decide +kernel

end Sys2Proof.Tests
end

section
/-! PROOF. The channel directory's statement (chapter 1): when a span is valid, when two overlap, and what INSERT answers to a span
that is not valid. -/

namespace Sys2Proof.Machine

/-! ### Spans (R5) -/

theorem Span.valid_iff (sp : Span) :
    sp.valid = true ↔ sp.first ≤ 16383 ∧ 1 ≤ sp.count ∧ sp.count ≤ 256 ∧ sp.first + sp.count - 1 ≤ 16383 := by
  simp only [Span.valid, Bool.and_eq_true, decide_eq_true_eq, and_assoc]
  exact and_congr Nat.lt_succ_iff (and_congr_right' (and_congr_right' Nat.lt_succ_iff))

theorem Span.first_le_last {sp : Span} (h : sp.valid = true) : sp.first ≤ sp.last := by
  obtain ⟨-, hpos, -, -⟩ := sp.valid_iff.mp h
  unfold Span.last
  omega

/-- The test on the ends of two valid spans finds a shared channel: the greater of their first channels is one. -/
theorem Span.overlaps_iff {a b : Span} (ha : a.valid = true) (hb : b.valid = true) :
    a.overlaps b = true ↔ ∃ c, (a.first ≤ c ∧ c ≤ a.last) ∧ (b.first ≤ c ∧ c ≤ b.last) := by
  simp only [Span.overlaps, Bool.and_eq_true, decide_eq_true_eq]
  constructor
  · rintro ⟨hab, hba⟩
    exact ⟨max a.first b.first, ⟨le_max_left _ _, max_le (Span.first_le_last ha) hba⟩,
      le_max_right _ _, max_le hab (Span.first_le_last hb)⟩
  · rintro ⟨c, ⟨hac, hca⟩, hbc, hcb⟩
    exact ⟨hac.trans hcb, hbc.trans hca⟩

/-! ### INSERT from the owner of the session (R59, R64) -/

theorem bitsAt_lt_two_pow {n : Nat} (w : BitVec n) (lo len : Nat) : bitsAt w lo len < 2 ^ len := (w.extractLsb' lo len).isLt

section
variable {s : State} {p : Port} {x : Session}

/-- The owner's edit command goes past the checks of operating state and lock to its own part (R59). -/
theorem guardEdit_owner (h : s.Owns p x) (act : State → State × Reply) : s.guardEdit p act = act s := by
  simp only [State.guardEdit, editRefusal_owner h]

theorem insertSpan_of_refusal {sp : Span} {b : Body} {c : Code} (h : s.insertRefusal sp b = some c) :
    s.insertSpan sp b = (s, .bare c) := by
  simp only [State.insertSpan, h]

/-- The span is the first thing INSERT checks of its own (R64 step 1). -/
theorem insertRefusal_badSpan {sp : Span} (b : Body) (h : sp.valid = false) : s.insertRefusal sp b = some .badSpan :=
  if_pos h

/-- INSERT of right length from the owner inserts the span and body of its words with the timer restarted, and is answered. -/
theorem exec_insert_owner (seq : Half) {args : List Word} (h : s.Ready p .insert) (ho : s.Owns p x)
    (hl : args.length = 3 + bitsAt (argAt args 2) 24 4) :
    exec (.insert p seq args) s =
      let u := (s.timerRestarted x).insertSpan (spanOfWord (argAt args 0))
        (bodyOfWords (argAt args 1) (argAt args 2) (args.drop 3))
      .next (u.1.respond p seq u.2) := by
  have hfits : args.length ≤ 63 := by
    have := bitsAt_lt_two_pow (argAt args 2) 24 4
    omega
  have htaken := deliver_owner seq h ho rfl hfits (decide_eq_true hl) rfl
  rw [State.perform, State.takeInsert, guardEdit_owner (Owns_timerRestarted ho)] at htaken
  exact congrArg Host.Outcome.next htaken

end

/-- Settles O8: R5's ranges as they stand, the greater first channel as the shared one, and the span as the first of INSERT's own
checks. -/
theorem spanCheck : Obligations.SpanCheck := by
  refine ⟨Span.valid_iff, fun a b ha hb => Span.overlaps_iff ha hb, fun p seq args s x hready howns hlen hbad => ?_⟩
  rw [exec_insert_owner seq hready howns hlen, insertSpan_of_refusal (insertRefusal_badSpan _ hbad)]
  rfl

end Sys2Proof.Machine
end

section
/-! PROOF. The point lists' statement (chapter 3): when a list is valid, what DEFINE_PROFILE of a FREE or PENDING slot answers to a
list that is not, and that a restore does not load it. -/

namespace Sys2Proof.Machine

/-! ### Point lists (R47) -/

/-- Comparing each point with the next is comparing each with every later one, since the order of input codes is transitive. -/
theorem inputsAscending_iff_isChain (ps : List Point) :
    inputsAscending ps = true ↔ ps.IsChain (fun y z => y.input < z.input) := by
  induction ps using inputsAscending.induct with
  | case1 => exact iff_of_true rfl .nil
  | case2 x => exact iff_of_true rfl (.singleton x)
  | case3 x y ps ih =>
    simp only [inputsAscending, Bool.and_eq_true, decide_eq_true_eq, List.isChain_cons_cons, ih]

theorem inputsAscending_iff (ps : List Point) :
    inputsAscending ps = true ↔ ps.Pairwise (fun y z => y.input < z.input) :=
  calc inputsAscending ps = true
    _ ↔ ps.IsChain (fun y z => y.input < z.input) := inputsAscending_iff_isChain ps
    _ ↔ (ps.map Point.input).IsChain (· < ·) := (List.isChain_map Point.input).symm
    _ ↔ (ps.map Point.input).Pairwise (· < ·) := List.isChain_iff_pairwise
    _ ↔ ps.Pairwise (fun y z => y.input < z.input) := List.pairwise_map

theorem pointsValid_iff (ps : List Point) :
    pointsValid ps = true ↔
      2 ≤ ps.length ∧ ps.length ≤ 17 ∧ (∀ y ∈ ps, y.input ≤ 4095) ∧
        (∀ y ∈ ps, -32768 ≤ y.output ∧ y.output ≤ 32767) ∧ ps.Pairwise (fun y z => y.input < z.input) := by
  simp only [pointsValid, Bool.and_eq_true, List.all_eq_true, decide_eq_true_eq, inputsAscending_iff, and_assoc, forall_and]

/-! ### DEFINE_PROFILE from the owner of the session (R49, R59) -/

section
variable {s : State}

/-- The point list is the first thing DEFINE_PROFILE checks of a slot whose state lets it be defined. -/
theorem defineProfile_badProfile {k : Nat} {pts : List Point} (hs : (s.slot k).state = .free ∨ (s.slot k).state = .pending)
    (hbad : pointsValid pts = false) : s.defineProfile k pts = (s, .bare .badProfile) := by
  obtain hfree | hpending := hs
  · simp only [State.defineProfile, hfree, if_pos hbad]
  · simp only [State.defineProfile, hpending, if_pos hbad]

/-- DEFINE_PROFILE of right form from the owner defines the slot of its words with the timer restarted, and is answered. -/
theorem exec_defineProfile_owner {p : Port} {x : Session} (seq : Half) {args : List Word} (h : s.Ready p .defineProfile)
    (ho : s.Owns p x) (hk : bitsAt (argAt args 0) 0 16 < 32) (hl : args.length = 1 + bitsAt (argAt args 0) 16 8)
    (hfits : args.length ≤ 63) :
    exec (.defineProfile p seq args) s =
      let u := (s.timerRestarted x).defineProfile (bitsAt (argAt args 0) 0 16) ((args.drop 1).map pointOfWord)
      .next (u.1.respond p seq u.2) := by
  have htaken := deliver_owner seq h ho rfl hfits (decide_eq_true hl) (decide_eq_true hk)
  rw [State.perform, State.takeDefineProfile, guardEdit_owner (Owns_timerRestarted ho)] at htaken
  exact congrArg Host.Outcome.next htaken

/-! ### A profile entry of a bank (R57) -/

theorem loadProfile_eq_none {entry : List Byte} (e : Nat) (hbad : pointsValid (entryPoints entry) = false) :
    s.loadProfile e entry = none :=
  if_neg fun ⟨_, _, hvalid⟩ => Bool.false_ne_true (hbad.symm.trans hvalid)

end

/-- Settles O13: R47's conditions as they stand, the list as DEFINE_PROFILE's first check of a FREE or PENDING slot, and the load
check of a profile entry. -/
theorem pointListCheck : Obligations.PointListCheck := by
  refine ⟨pointsValid_iff, fun p seq args s x hready howns hslot hlen hfits hstate hbad => ?_,
    fun e entry s hbad => loadProfile_eq_none e hbad⟩
  rw [exec_defineProfile_owner seq hready howns hslot hlen hfits, defineProfile_badProfile (s := s.timerRestarted x) hstate hbad]
  rfl

end Sys2Proof.Machine
end

section
/-! PROOF. The parity statement (chapter 11): the parity bit of a word sent, the receiver's count, and what inverted bits do to it. -/

namespace Sys2Proof.Machine

/-! ### Counting ones (R197) -/

theorem onesIn_eq_countP (n v : Nat) : onesIn n v = (List.range n).countP v.testBit := by
  induction n generalizing v with
  | zero => rfl
  | succ n ih =>
    have hrest : v.testBit ∘ Nat.succ = (v / 2).testBit := funext fun i => Nat.testBit_succ v i
    have hlow : (if v.testBit 0 = true then 1 else 0) = v % 2 := by
      rw [Nat.testBit_zero]
      obtain h | h := Nat.mod_two_eq_zero_or_one v <;> simp [h]
    rw [onesIn, ih, List.range_succ_eq_map, List.countP_cons, List.countP_map, hrest, hlow, Nat.add_comm]

/-- The ones of an exclusive-or are those of both patterns, but for the two of each position where they meet. -/
theorem countP_xor_mod_two {α : Type} (p q : α → Bool) (l : List α) :
    l.countP (fun x => p x ^^ q x) % 2 = (l.countP p + l.countP q) % 2 := by
  induction l with
  | nil => rfl
  | cons x l ih =>
    have hx : (if (p x ^^ q x) = true then 1 else 0) % 2 =
        ((if p x = true then 1 else 0) + (if q x = true then 1 else 0)) % 2 := by
      cases p x <;> cases q x <;> rfl
    simp only [List.countP_cons]
    omega

/-! ### The receiver's parity (R197) -/

theorem parityGood_iff (w : WireWord) :
    parityGood w = true ↔ (List.range 19).countP (fun i => w.getLsbD i) % 2 = 1 := by
  rw [parityGood, beq_iff_eq, onesIn_eq_countP]
  rfl

theorem getLsbD_one_shiftLeft {n i k : Nat} (hk : k < n) : (1#n <<< i).getLsbD k = (k == i) := by
  rw [← BitVec.twoPow_eq, BitVec.getLsbD_twoPow, Bool.eq_iff_iff, Bool.and_eq_true, decide_eq_true_eq, decide_eq_true_eq,
    beq_iff_eq]
  omega

/-- One inverted bit changes the number of ones by one. -/
theorem countP_invert_mod_two (w : WireWord) {i : Nat} (hi : i < 19) :
    (List.range 19).countP (fun k => (w ^^^ (1#19 <<< i)).getLsbD k) % 2 =
      ((List.range 19).countP (fun k => w.getLsbD k) + 1) % 2 := by
  have hone : (List.range 19).countP (· == i) = 1 :=
    List.count_eq_one_of_mem List.nodup_range (List.mem_range.mpr hi)
  have hbits : ∀ k ∈ List.range 19, (w ^^^ (1#19 <<< i)).getLsbD k = (w.getLsbD k ^^ k == i) := fun k hk => by
    rw [BitVec.getLsbD_xor, getLsbD_one_shiftLeft (List.mem_range.mp hk)]
  rw [List.countP_congr fun k hk => by rw [hbits k hk], countP_xor_mod_two, hone]

theorem parityGood_invert (w : WireWord) {i : Nat} (hi : i < 19) :
    parityGood (w ^^^ (1#19 <<< i)) = !parityGood w := by
  have hcount := countP_invert_mod_two w hi
  rw [Bool.eq_not, ne_eq, Bool.eq_iff_iff, parityGood_iff, parityGood_iff]
  omega

theorem receiveWord_of_badParity {w : WireWord} (n : Nat) (s : State) (h : parityGood w = false) :
    s.receiveWord w n = s.badWord n := if_pos h

/-! ### The words the part sends (R197) -/

theorem markerCode_lt_four (m : Marker) : m.code < 4 := by cases m <;> decide

/-- Nothing of marker, data and parity bit is lost in the 19 bits. -/
theorem wireWord_toNat (m : Marker) (d : Half) :
    (wireWord m d).toNat =
      (m.code * 65536 + d.toNat) * 2 + (1 - onesIn 18 (m.code * 65536 + d.toNat) % 2) := by
  have hm := markerCode_lt_four m
  have hd := d.isLt
  exact Nat.mod_eq_of_lt (by omega)

/-- Above the parity bit stand the marker and the data. -/
theorem wireWord_toNat_div_two (m : Marker) (d : Half) : (wireWord m d).toNat / 2 = m.code * 65536 + d.toNat := by
  rw [wireWord_toNat]
  omega

theorem wireWord_toNat_mod_two (m : Marker) (d : Half) :
    (wireWord m d).toNat % 2 = 1 - onesIn 18 ((wireWord m d).toNat / 2) % 2 := by
  rw [wireWord_toNat_div_two, wireWord_toNat]
  omega

theorem parityGood_wireWord (m : Marker) (d : Half) : parityGood (wireWord m d) = true := by
  rw [parityGood, beq_iff_eq, onesIn, wireWord_toNat_mod_two]
  omega

theorem wireWord_parityBit_iff (m : Marker) (d : Half) :
    (wireWord m d).getLsbD 0 = true ↔ onesIn 18 ((wireWord m d).toNat / 2) % 2 = 0 := by
  rw [BitVec.getLsbD, Nat.testBit_zero, decide_eq_true_eq, wireWord_toNat_mod_two]
  omega

theorem bitsAt_eq_div_mod {n : Nat} (w : BitVec n) (lo len : Nat) : bitsAt w lo len = w.toNat / 2 ^ lo % 2 ^ len := by
  rw [bitsAt, BitVec.extractLsb'_toNat, Nat.shiftRight_eq_div_pow]

theorem wireMarker_of_code {w : WireWord} {m : Marker} (h : bitsAt w 17 2 = m.code) : wireMarker w = m := by
  rw [wireMarker, h]
  cases m <;> rfl

theorem wireMarker_wireWord (m : Marker) (d : Half) : wireMarker (wireWord m d) = m := by
  apply wireMarker_of_code
  have hm := markerCode_lt_four m
  have hd := d.isLt
  have htop := wireWord_toNat_div_two m d
  rw [bitsAt_eq_div_mod]
  omega

theorem wireData_wireWord (m : Marker) (d : Half) : wireData (wireWord m d) = d := by
  apply BitVec.eq_of_toNat_eq
  have hd := d.isLt
  have htop := wireWord_toNat_div_two m d
  change bitsAt (wireWord m d) 1 16 = d.toNat
  rw [bitsAt_eq_div_mod]
  omega

/-- Settles O49: the parity bit completes the ones of marker and data to an odd number, and each inverted bit turns the receiver's
verdict round, so that two leave it. -/
theorem parityRule : Obligations.ParityRule := by
  refine ⟨fun m d => ⟨parityGood_wireWord m d, wireMarker_wireWord m d, wireData_wireWord m d, wireWord_parityBit_iff m d⟩,
    (wireWord_parityBit_iff .idle 0#16).mpr rfl, parityGood_iff, fun w i hi => parityGood_invert w hi,
    fun w i j hi hj _ => ?_, fun w n s h => receiveWord_of_badParity n s h⟩
  rw [parityGood_invert _ hj, parityGood_invert w hi, Bool.not_not]

end Sys2Proof.Machine
end

section
/-! PROOF. The frame check's statement (chapter 11): the register bit by bit, the TAIL the transmitter ends its frame with, and what the
receiver compares. -/

namespace Sys2Proof.Machine

/-! ### The check register (R199, R200) -/

theorem crcBit_eq_ite {n : Nat} (poly r : BitVec n) (d : Bool) :
    crcBit poly r d = if r.getLsbD (n - 1) = d then r <<< 1 else (r <<< 1) ^^^ poly := by
  rw [crcBit, BitVec.msb_eq_getLsbD_last]
  by_cases h : r.getLsbD (n - 1) = d <;> simp [h]

theorem bitsDown_eq_map {n : Nat} (w : BitVec n) (k : Nat) :
    bitsDown w k = (List.range k).map (fun i => w.getLsbD (k - 1 - i)) := by
  induction k with
  | zero => rfl
  | succ k ih =>
    rw [bitsDown, ih, List.range_succ_eq_map, List.map_cons, List.map_map]
    refine congrArg (w.getLsbD k :: ·) (List.map_congr_left fun i _ => ?_)
    exact congrArg w.getLsbD (by omega)

/-- Data words or bytes taken one after the other are their bits taken one after the other, each from the top down. -/
theorem foldl_crcBit_bitsDown {m n : Nat} (poly r : BitVec n) (ds : List (BitVec m)) :
    ds.foldl (fun r d => (bitsDown d m).foldl (crcBit poly) r) r =
      (ds.flatMap bitsOf).foldl
        (fun (r : BitVec n) (b : Bool) => if r.getLsbD (n - 1) = b then r <<< 1 else (r <<< 1) ^^^ poly) r := by
  simp only [List.foldl_flatMap, bitsDown_eq_map, bitsOf, ← crcBit_eq_ite]

/-! ### The frame check at both ends (R199) -/

theorem TxFrame.getLast?_wireWords (f : TxFrame) : f.wireWords.getLast? =
    some (wireWord .tail (crc16 (headData f.content.code f.content.halves.length f.tag :: f.content.halves))) :=
  List.getLast?_concat

theorem RxFrame.checked_of_wrongCount {f : RxFrame} (d : Half) (h : f.received ≠ headLength f.head) :
    f.checked d = .inl .check := if_pos h

theorem RxFrame.checked_of_rightCount {f : RxFrame} {d : Half} (hcount : f.received = headLength f.head)
    (h : crc16 (f.head :: f.kept) ≠ d) : f.checked d = .inl .check := by
  rw [RxFrame.checked, if_neg (not_not.mpr hcount), if_pos h]

/-- A good frame has passed both comparisons. -/
theorem RxFrame.crc16_eq_of_checked {f : RxFrame} {d : Half} {g : BoardFrame} (h : f.checked d = .inr g) :
    crc16 (f.head :: f.kept) = d := by
  by_contra hcheck
  have hbad : f.checked d = .inl .check := by
    by_cases hcount : f.received = headLength f.head
    · exact RxFrame.checked_of_rightCount hcount hcheck
    · exact RxFrame.checked_of_wrongCount d hcount
  cases hbad.symm.trans h

/-- Settles O50: the register taken bit by bit, the frame's last word, and the receiver's first two checks in their order. -/
theorem frameCheckRule : Obligations.FrameCheckRule :=
  ⟨foldl_crcBit_bitsDown 0x1021#16 0xFFFF#16, TxFrame.getLast?_wireWords, fun _ d =>
    ⟨RxFrame.checked_of_wrongCount d, RxFrame.checked_of_rightCount, fun _ => RxFrame.crc16_eq_of_checked⟩⟩

end Sys2Proof.Machine
end

section
/-! SUPPORT. What every step keeps: the events of the table sorted by the block they come to, and the one induction over them. A
condition that no port field, event or idle timer bears on, and that every kind of command of right form keeps, is kept by every event of
a port; with the events of the other blocks that makes it kept by every step. -/

namespace Sys2Proof.Machine

/-! ### Events of a port -/

/-- A condition that the commands which come in at a port keep: their form is right as they are carried out (R182). -/
structure KeptByCommands (P : State → Prop) : Prop where
  putPort : ∀ s p x, P s → P (s.putPort p x)
  eventSet : ∀ s x, P s → P (s.setEventSet x)
  setEngine : ∀ s k, P s → P (s.setEngine k)
  restartTimer : ∀ s p, P s → P (s.restartTimer p)
  perform : ∀ s p k args, lengthOk k args = true → rangeOk k args = true → P s → P (s.perform p k args).1

namespace KeptByCommands

variable {P : State → Prop} {s : State}

theorem carryOut (h : KeptByCommands P) (p : Port) (q : QueuedCommand) (hs : P s) : P (s.carryOut p q).1 := by
  cases hk : q.kind with
  | none => simpa only [State.carryOut, QueuedCommand.formError, hk] using hs
  | some k =>
    cases hf : q.formError with
    | some c => simpa only [State.carryOut, hf] using hs
    | none =>
      simp only [State.carryOut, hf, hk]
      simp only [QueuedCommand.formError, hk] at hf
      split at hf
      · cases hf
      · next hlen =>
        split at hf
        · cases hf
        · next hrange =>
          rw [not_or, not_or, Bool.not_eq_false] at hlen
          exact h.perform s p k _ hlen.2.2 (Bool.of_not_eq_false hrange) hs

theorem restartFor (h : KeptByCommands P) (p : Port) (q : QueuedCommand) (hs : P s) : P (s.restartFor p q) := by
  unfold State.restartFor
  split
  · exact hs
  · split
    · exact h.restartTimer s p hs
    · exact hs

theorem takeCommand (h : KeptByCommands P) (p : Port) (q : QueuedCommand) (hs : P s) : P (s.takeCommand p q) :=
  h.putPort _ _ _ (h.carryOut p q (h.restartFor p q (h.putPort _ _ _ hs)))

theorem takings (h : KeptByCommands P) (p : Port) (n : Nat) (hs : P s) : P (State.takings n p s) := by
  induction n generalizing s with
  | zero => exact hs
  | succ n ih =>
    unfold State.takings
    split
    · exact hs
    · exact ih (h.takeCommand p _ hs)

theorem takeAll (h : KeptByCommands P) (p : Port) (hs : P s) : P (s.takeAll p) := h.takings p _ hs

theorem writeCommandIn (h : KeptByCommands P) (p : Port) (w : Word) (hs : P s) : P (s.writeCommandIn p w) := by
  refine h.takeAll p ?_
  unfold State.offerWord
  dsimp only
  split
  · exact hs
  · split
    · exact h.putPort _ _ _ hs
    · exact h.eventSet _ _ (h.putPort _ _ _ hs)

theorem deliver (h : KeptByCommands P) (p : Port) (kind : Byte) (seq : Half) (args : List Word) (hs : P s) :
    P (s.deliver p kind seq args) := by
  unfold State.deliver
  generalize headerWord kind (args.length + 1) seq :: args = ws
  induction ws generalizing s with
  | nil => exact hs
  | cons w ws ih => exact ih (h.writeCommandIn p w hs)

theorem readResponse (h : KeptByCommands P) (p : Port) (hs : P s) : P (s.readResponse p) := by
  unfold State.readResponse
  split
  · exact h.putPort _ _ _ hs
  · exact h.takeAll p (h.putPort _ _ _ hs)

theorem query (h : KeptByCommands P) {t : State} (hs : P s) (he : execQuery s = .next t) : P t := by
  obtain rfl := Host.Outcome.next.inj he
  split
  · exact hs
  · split
    · exact hs
    · split
      · exact hs
      · exact h.takeAll _ (h.setEngine _ _ (h.takeCommand _ _ hs))

end KeptByCommands

/-! ### Events of the other blocks -/

/-- The events of the links and of the lookup engine's taking of a link's request (chapters 6 to 8). -/
def Instr.isLinkEvent : Instr → Bool
  | .linkWord _ _ | .receiverLockGained _ | .receiverLockLost _ | .hello _ _ _ | .fetch _ _ _ _ | .fetchProfile _ _ _ _
  | .watch _ _ _ | .unwatch _ _ _ | .ackNotice _ _ _ | .ackResync _ _ | .fetchTaken | .fetchProfileTaken | .watchTaken
  | .unwatchTaken | .welcomeEnd _ | .answerEnd _ | .promptRefusalEnd _ | .noticeEnd _ | .resyncEnd _
  | .resendTimerExpiry _ => true
  | _ => false

/-- The completions and time-outs of flash operations (chapter 9). -/
def Instr.isFlashEvent : Instr → Bool
  | .identificationDone | .flashAbsent | .pageReadDone _ | .bankEraseDone | .eraseTimeout | .pageProgramDone _
  | .programTimeout => true
  | _ => false

/-- A condition that every event keeps, block by block. -/
structure KeptByEvents (P : State → Prop) : Prop extends KeptByCommands P where
  queue : ∀ s cs, P s → P (s.setPending cs)
  mask : ∀ s p m, P s → P (s.putMask p m)
  wordTime : ∀ s, P s → P s.wordTime
  hardReset : ∀ s t strap powered, P s → exec (.hardReset strap powered) s = .next t → P t
  linkEvent : ∀ i s t, Instr.isLinkEvent i = true → P s → exec i s = .next t → P t
  idleTimer : ∀ s t, P s → exec .idleTimerExpiry s = .next t → P t
  marker : ∀ s t, P s → exec .markerArrival s = .next t → P t
  flashEvent : ∀ i s t, Instr.isFlashEvent i = true → P s → exec i s = .next t → P t

namespace KeptByEvents

variable {P : State → Prop} {s t : State}

theorem exec (h : KeptByEvents P) (i : Instr) (hs : P s) (he : Machine.exec i s = .next t) : P t := by
  cases i
  case hardReset => exact h.hardReset _ _ _ _ hs he
  case commandIn p w => exact Host.Outcome.next.inj he ▸ h.writeCommandIn p w hs
  case responseOut p => exact Host.Outcome.next.inj he ▸ h.readResponse p hs
  case portStatus p w => exact Host.Outcome.next.inj he ▸ h.takeAll p (h.putPort _ _ _ hs)
  case events => exact Host.Outcome.next.inj he ▸ h.eventSet _ _ hs
  case eventMask => exact Host.Outcome.next.inj he ▸ h.mask _ _ _ hs
  case registerWriteIgnored => exact Host.Outcome.next.inj he ▸ hs
  case query => exact h.query hs he
  case idleTimerExpiry => exact h.idleTimer _ _ hs he
  case markerArrival => exact h.marker _ _ hs he
  all_goals first
    | exact h.linkEvent _ _ _ rfl hs he
    | exact h.flashEvent _ _ _ rfl hs he
    | exact Host.Outcome.next.inj he ▸ h.deliver _ _ _ _ hs

/-- The induction over one step: the queue's front event, or one link-word time. -/
theorem step (h : KeptByEvents P) (hs : P s) (he : Machine.step s = .next t) : P t := by
  unfold Machine.step at he
  split at he
  · exact Host.Outcome.next.inj he ▸ h.wordTime s hs
  · exact h.exec _ (h.queue _ _ hs) he

end KeptByEvents

/-! ### What the events of the links leave alone -/

/-- An event of a link or of the lookup engine works on the stores, the links and the engine's pointer alone. -/
theorem storesOnly_of_linkEvent {i : Instr} {s t : State} (hi : Instr.isLinkEvent i = true) (he : exec i s = .next t) :
    StoresOnly s t := by
  cases i
  case linkWord n w => exact Host.Outcome.next.inj he ▸ .ite (.receiveWord w n s) (.refl s)
  case receiverLockGained n => exact Host.Outcome.next.inj he ▸ .ite (.refl s) (.link s n _)
  case receiverLockLost n => exact Host.Outcome.next.inj he ▸ .ite (.loseLock n s) (.refl s)
  case hello => exact Host.Outcome.next.inj he ▸ .receiveFrame _ _ _ s
  case fetch => exact Host.Outcome.next.inj he ▸ .receiveFrame _ _ _ s
  case fetchProfile => exact Host.Outcome.next.inj he ▸ .receiveFrame _ _ _ s
  case watch => exact Host.Outcome.next.inj he ▸ .receiveFrame _ _ _ s
  case unwatch => exact Host.Outcome.next.inj he ▸ .receiveFrame _ _ _ s
  case ackNotice => exact Host.Outcome.next.inj he ▸ .receiveFrame _ _ _ s
  case ackResync => exact Host.Outcome.next.inj he ▸ .receiveFrame _ _ _ s
  case fetchTaken =>
    obtain rfl := Host.Outcome.next.inj he
    split
    · split
      · exact .takeRequest _ _ s
      all_goals exact .refl s
    · exact .refl s
  case fetchProfileTaken =>
    obtain rfl := Host.Outcome.next.inj he
    split
    · split
      · exact .takeRequest _ _ s
      all_goals exact .refl s
    · exact .refl s
  case watchTaken =>
    obtain rfl := Host.Outcome.next.inj he
    split
    · split
      · exact .takeWatch _ _ _ s
      all_goals exact .refl s
    · exact .refl s
  case unwatchTaken =>
    obtain rfl := Host.Outcome.next.inj he
    split
    · split
      · exact .takeUnwatch _ _ _ s
      all_goals exact .refl s
    · exact .refl s
  case welcomeEnd n =>
    obtain rfl := Host.Outcome.next.inj he
    split
    · exact (StoresOnly.link s n _).trans (.frameEnds _ _)
    · exact .refl s
  case answerEnd n =>
    obtain rfl := Host.Outcome.next.inj he
    split
    · exact .ite (.answerEnds _ _ s) (.refl s)
    · exact .refl s
  case promptRefusalEnd n =>
    obtain rfl := Host.Outcome.next.inj he
    split
    · exact (StoresOnly.link s n _).trans (.frameEnds _ _)
    · exact .refl s
  case noticeEnd n =>
    obtain rfl := Host.Outcome.next.inj he
    split
    · exact (StoresOnly.link s n _).trans (.frameEnds _ _)
    · exact .refl s
  case resyncEnd n =>
    obtain rfl := Host.Outcome.next.inj he
    split
    · exact (StoresOnly.link s n _).trans (.frameEnds _ _)
    · exact .refl s
  case resendTimerExpiry n =>
    obtain rfl := Host.Outcome.next.inj he
    split
    · exact .timerRunsOut n s
    all_goals exact .refl s
  all_goals cases hi

end Sys2Proof.Machine
end

section
/-! PROOF. The flash's form and the operating modes (O53, O56): what the events leave of the operating state, the session, the staged
set, the save and the wait for the flash. -/

namespace Sys2Proof.Machine

/-! ### Everything but the stores, the session and the staged set -/

/-- From `s` to `t` the operating state, the epoch, the snapshot unit and the flash did not change. -/
structure UnitsKept (s t : State) : Prop where
  opState : t.opState = s.opState
  epoch : t.epoch = s.epoch
  snap : t.snap = s.snap
  flash : t.flash = s.flash

namespace UnitsKept

variable {s t u : State}

theorem refl (s : State) : UnitsKept s s := ⟨rfl, rfl, rfl, rfl⟩

theorem trans (h : UnitsKept s t) (k : UnitsKept t u) : UnitsKept s u :=
  ⟨k.opState.trans h.opState, k.epoch.trans h.epoch, k.snap.trans h.snap, k.flash.trans h.flash⟩

theorem of (h : StoresOnly s t) : UnitsKept s t := ⟨h.opState, h.epoch, h.snap, h.flash⟩

theorem setSession (s : State) (x : Option Session) : UnitsKept s (s.setSession x) := ⟨rfl, rfl, rfl, rfl⟩

theorem setStaged (s : State) (x : Option StagedSet) : UnitsKept s (s.setStaged x) := ⟨rfl, rfl, rfl, rfl⟩

theorem putItems (l : List ChangeItem) (s : State) : UnitsKept s (s.putItems l) := by
  unfold State.putItems
  split
  · exact refl s
  · exact setSession s _

theorem restartTimer (p : Port) (s : State) : UnitsKept s (s.restartTimer p) := by
  unfold State.restartTimer
  split
  · exact refl s
  · split
    · exact setSession s _
    · exact refl s

theorem forEach {f : Nat → State → State} (hf : ∀ n s, UnitsKept s (f n s)) (l : List Nat) (s : State) :
    UnitsKept s (State.forEach f l s) := by
  induction l generalizing s with
  | nil => exact refl s
  | cons n ns ih => exact (hf n s).trans (ih _)

theorem insertSpan (sp : Span) (b : Body) (s : State) : UnitsKept s (s.insertSpan sp b).1 := by
  unfold State.insertSpan
  split
  · exact refl s
  · split
    · exact refl s
    · split
      · exact refl s
      · exact (of ((StoresOnly.claimRow _ _ _ s).trans (.allocCopy _ _ _))).trans (putItems _ _)

theorem amendRow (r : Nat) (sel : Bool) (f : Body → Body) (s : State) : UnitsKept s (s.amendRow r sel f).1 := by
  unfold State.amendRow
  dsimp only
  split
  · exact refl s
  · split
    · exact of (.rewriteBody _ _ s)
    · split
      · exact refl s
      · split
        · exact refl s
        · exact (of ((StoresOnly.row s r _).trans (.allocCopy _ _ _))).trans (putItems _ _)

theorem retireEffect (r : Nat) (s : State) : UnitsKept s (s.retireEffect r) := by
  unfold State.retireEffect
  split
  · exact (of ((StoresOnly.freeDraft r s).trans (.freeRow r _))).trans (putItems _ _)
  · exact (of (.freeDraft r s)).trans (putItems _ _)
  · exact putItems _ s

theorem retireRow (r : Nat) (s : State) : UnitsKept s (s.retireRow r).1 := by
  unfold State.retireRow
  split
  · exact refl s
  · split
    · exact refl s
    · exact retireEffect r s

theorem retireGroup (g : Nat) (s : State) : UnitsKept s (s.retireGroup g).1 := by
  unfold State.retireGroup
  dsimp only
  split
  · exact refl s
  · exact forEach retireEffect _ s

theorem defineProfile (k : Nat) (pts : List Point) (s : State) : UnitsKept s (s.defineProfile k pts).1 := by
  unfold State.defineProfile
  split
  · exact refl s
  · exact refl s
  · split
    · exact refl s
    · split
      · exact refl s
      · exact (of (.slot s k _)).trans (putItems _ _)
  · split
    · exact refl s
    · exact of (.slot s k _)

theorem dropProfile (k : Nat) (s : State) : UnitsKept s (s.dropProfile k).1 := by
  unfold State.dropProfile
  split
  · exact refl s
  · split
    · exact refl s
    · exact refl s
    · split
      · exact refl s
      · exact (of (.slot s k _)).trans (putItems _ _)
    · split
      · exact refl s
      · exact of (.slot s k _)

theorem sealSession (pol : Policy) (s : State) : UnitsKept s (s.sealSession pol) := by
  refine (of (.foldl (f := State.sealRow) .sealRow s.items s)).trans ?_
  exact ⟨rfl, rfl, rfl, rfl⟩

theorem sealWith (pol : Policy) (s : State) : UnitsKept s (s.sealWith pol).1 := by
  unfold State.sealWith
  split
  · exact refl s
  · split
    · exact setSession s _
    · exact sealSession pol s

theorem abandonSession (s : State) : UnitsKept s s.abandonSession :=
  (of ((StoresOnly.foldl .abandonRow s.items s).trans (.foldl .abandonSlot s.items _))).trans (setSession _ _)

theorem withdrawSet (st : StagedSet) (s : State) : UnitsKept s (s.withdrawSet st) :=
  (of ((StoresOnly.forEach .withdrawRow _ s).trans (.foldl .withdrawSlot st.items _))).trans (setStaged _ _)

end UnitsKept

theorem working_of_editRefusal {s : State} {p : Port} (h : s.editRefusal p = none) : s.opState.working = true := by
  unfold State.editRefusal at h
  split at h
  · cases h
  · next hs => cases ho : s.opState <;> simp_all [OpState.working]

theorem working_iff {o : OpState} : o.working = true ↔ ¬(o = .cold ∨ o = .restoring) := by cases o <;> decide

/-- What a guarded edit command leaves: the state as it was, or what its own part does in SERVING or HELD. -/
theorem guardEdit_cases (p : Port) (act : State → State × Reply) (s : State) :
    (s.guardEdit p act).1 = s ∨ s.opState.working = true ∧ (s.guardEdit p act).1 = (act s).1 ∧
      ∃ x, s.session = some x ∧ x.owner = p := by
  unfold State.guardEdit
  split
  · exact .inl rfl
  · next h =>
    refine .inr ⟨working_of_editRefusal h, rfl, ?_⟩
    unfold State.editRefusal at h
    split at h
    · cases h
    · split at h
      · cases h
      · next x hx =>
        split at h
        · next ho => exact ⟨x, hx, ho⟩
        · cases h

/-- What the switch event leaves outside the stores and the links. -/
theorem switchSet_fields (trig : Trigger) (st : StagedSet) (s : State) :
    (s.switchSet trig st).epoch = s.epoch + 1 ∧ (s.switchSet trig st).staged = none ∧
    (s.switchSet trig st).session = s.session ∧ (s.switchSet trig st).opState = s.opState ∧
    (s.switchSet trig st).snap = s.snap ∧ (s.switchSet trig st).flash = s.flash ∧
    (s.switchSet trig st).markerCount = s.markerCount ∧ (s.switchSet trig st).params = s.params ∧
    (s.switchSet trig st).pending = s.pending := by
  have hover : ∀ fl u, (State.raiseOverflows fl u).epoch = u.epoch ∧ (State.raiseOverflows fl u).staged = u.staged ∧
      (State.raiseOverflows fl u).session = u.session ∧ (State.raiseOverflows fl u).opState = u.opState ∧
      (State.raiseOverflows fl u).snap = u.snap ∧ (State.raiseOverflows fl u).flash = u.flash ∧
      (State.raiseOverflows fl u).markerCount = u.markerCount ∧ (State.raiseOverflows fl u).params = u.params ∧
      (State.raiseOverflows fl u).pending = u.pending := by
    intro fl u
    match fl with
    | [] => simp [State.raiseOverflows]
    | [_] => simp [State.raiseOverflows]
    | _ :: _ :: _ => simp [State.raiseOverflows]
  unfold State.switchSet
  dsimp only
  have hkick := fun u : State => StoresOnly.kickAll u
  have hstores := StoresOnly.switchStores (s.epoch + 1) st.items (s.setEpoch (s.epoch + 1))
  have hpost := fun ps fl u => StoresOnly.takePostings ps fl u
  simp only [(hkick _).epoch, (hkick _).staged, (hkick _).session, (hkick _).opState, (hkick _).snap, (hkick _).flash,
    (hkick _).markerCount, (hkick _).params, (hkick _).pending, State.raise_epoch, State.raise_staged, State.raise_session,
    State.raise_opState, State.raise_snap, State.raise_flash, State.raise_markerCount, State.raise_params, State.raise_pending,
    hover, (hpost _ _ _).epoch, (hpost _ _ _).staged, (hpost _ _ _).session, (hpost _ _ _).opState, (hpost _ _ _).snap,
    (hpost _ _ _).flash, (hpost _ _ _).markerCount, (hpost _ _ _).params, (hpost _ _ _).pending]
  exact ⟨hstores.epoch, rfl, hstores.session, hstores.opState, hstores.snap, hstores.flash, hstores.markerCount, hstores.params,
    hstores.pending⟩

/-- What the early end of a save leaves outside the stores. -/
theorem endSave_fields (k : FailKind) (s : State) :
    (s.endSave k).opState = s.opState ∧ (s.endSave k).epoch = s.epoch ∧ (s.endSave k).session = s.session ∧
    (s.endSave k).staged = s.staged ∧ (s.endSave k).flash = { s.flash with op := none } ∧
    (s.endSave k).snap = { s.snap.spoilTarget.idleSave with last := .saveFailed k s.snap.target s.snap.writePos } := by
  have h := StoresOnly.clearListedPins s.snap.saveList s
  unfold State.endSave
  dsimp only
  simp [h.opState, h.epoch, h.session, h.staged, h.flash]

theorem endSave_saving (k : FailKind) (s : State) : (s.endSave k).saving = false := by
  simp [State.saving, (endSave_fields k s).2.2.2.2.2, Snapshot.idleSave]

/-! ### The flash's form (O56) -/

theorem Flash.wf_settled {f : Flash} (h : Memory.wf f.cells = true) : Memory.wf f.settled.cells = true := by
  unfold Flash.settled
  split
  · exact h
  · exact Memory.wf_effect _ h

theorem beginRestore_flash (o : Origin) (s : State) : (s.beginRestore o).flash = { s.flash with op := some .identify } := rfl

theorem beginSave_fields (s : State) :
    s.beginSave.flash = { s.flash with op := some .identify } ∧ s.beginSave.opState = s.opState ∧ s.beginSave.epoch = s.epoch ∧
    s.beginSave.session = s.session ∧ s.beginSave.staged = s.staged ∧ s.beginSave.snap.savePhase = .erasing := by
  have h := StoresOnly.forEach (f := State.setSnapPin) .setSnapPin (s.saveItems.map SaveItem.copy) s
  unfold State.beginSave State.beginIdentify
  dsimp only
  simp [h.flash, h.opState, h.epoch, h.session, h.staged]

theorem clearStores_flash (s : State) : s.clearStores.flash = s.flash := by
  have hempty := (StoresOnly.emptyStores s).flash
  unfold State.clearStores
  rw [(StoresOnly.kickAll _).flash, (StoresOnly.clearLinks _).flash]
  exact hempty

/-- No command touches the flash's cells. -/
theorem perform_cells (p : Port) (k : CmdKind) (args : List Word) (s : State) :
    (s.perform p k args).1.flash.cells = s.flash.cells := by
  have hedit : ∀ act, (∀ u, UnitsKept u (act u).1) → (s.guardEdit p act).1.flash.cells = s.flash.cells := by
    intro act hact
    obtain h | ⟨-, h, -⟩ := guardEdit_cases p act s
    · rw [h]
    · rw [h, (hact s).flash]
  cases k
  case openEdit =>
    show (s.takeOpenEdit p).1.flash.cells = _
    unfold State.takeOpenEdit
    split
    · rfl
    · split
      · rfl
      · split <;> rfl
  case insert => exact hedit _ (UnitsKept.insertSpan _ _)
  case amend => exact hedit _ (UnitsKept.amendRow _ _ _)
  case retire => exact hedit _ (UnitsKept.retireRow _)
  case retireGroup => exact hedit _ (UnitsKept.retireGroup _)
  case defineProfile => exact hedit _ (UnitsKept.defineProfile _ _)
  case dropProfile => exact hedit _ (UnitsKept.dropProfile _)
  case sealSession => exact hedit _ (UnitsKept.sealWith _)
  case abandon => exact hedit _ UnitsKept.abandonSession
  case touch => exact hedit _ UnitsKept.refl
  case linkStatus =>
    show (if _ then _ else s : State).flash.cells = _
    split <;> rfl
  case switch =>
    show s.takeSwitch.1.flash.cells = _
    unfold State.takeSwitch
    split
    · rfl
    · split
      · rfl
      · split
        · rfl
        · simp [switchSet_fields]
  case withdraw =>
    show s.takeWithdraw.1.flash.cells = _
    unfold State.takeWithdraw
    split
    · rfl
    · split
      · rfl
      · split
        · rfl
        · rw [(UnitsKept.withdrawSet _ s).flash]
  case save =>
    show s.takeSave.1.flash.cells = _
    unfold State.takeSave
    split
    · rfl
    · split
      · rfl
      · simp [beginSave_fields]
  case abortSave =>
    show s.takeAbortSave.1.flash.cells = _
    unfold State.takeAbortSave
    split <;> simp [endSave_fields]
  case restore =>
    show s.takeRestore.1.flash.cells = _
    unfold State.takeRestore
    split
    · rfl
    · split
      · rfl
      · split <;> rfl
  case startEmpty =>
    show s.takeStartEmpty.1.flash.cells = _
    unfold State.takeStartEmpty
    split <;> rfl
  case hold | resume =>
    show (s.takeGate _).1.flash.cells = _
    unfold State.takeGate
    split <;> rfl
  case clearAll =>
    show s.takeClearAll.1.flash.cells = _
    unfold State.takeClearAll
    split
    · rfl
    · exact congrArg Flash.cells (clearStores_flash s)
  case resetLink => exact congrArg Flash.cells (StoresOnly.resetLinkDown _ s).flash
  case setParam =>
    show (if _ then _ else _ : State).flash.cells = _
    split
    · exact congrArg Flash.cells (StoresOnly.checkArm _).flash
    · rfl
  all_goals rfl

end Sys2Proof.Machine
end

section
/-! PROOF. What the flash completions leave of the operating modes, and the statements on the modes, the epoch and the flash's form
(O53, O55, O56). -/

namespace Sys2Proof.Machine

/-! ### Loading a page -/

/-- From `s` to `t` entries were loaded: only the stores and the running check value changed. -/
def LoadsOnly (s t : State) : Prop := ∃ c, StoresOnly (s.setSnap { s.snap with check := c }) t

namespace LoadsOnly

variable {s t u : State}

theorem refl (s : State) : LoadsOnly s s := ⟨s.snap.check, .refl s⟩

theorem snap (h : LoadsOnly s t) : ∃ c, t.snap = { s.snap with check := c } := h.imp fun _ k => k.snap

theorem trans (h : LoadsOnly s t) (k : LoadsOnly t u) : LoadsOnly s u := by
  obtain ⟨c, h⟩ := h
  obtain ⟨d, k⟩ := k
  have hcheck : StoresOnly (s.setSnap { s.snap with check := d }) (t.setSnap { t.snap with check := d }) :=
    ⟨h.pending, h.session, h.epoch, h.staged, h.markerCount, h.switchRecord, by simp [h.snap], h.flash, h.host, h.service,
      h.opState, h.hostMask, h.serviceMask, h.params, h.freeTick⟩
  exact ⟨d, hcheck.trans k⟩

theorem of (h : StoresOnly s t) : LoadsOnly s t := ⟨s.snap.check, h⟩

theorem extendCheck (bytes : List Byte) (s : State) : LoadsOnly s (s.extendCheck bytes) := ⟨_, .refl _⟩

theorem loadProfile {e : Nat} {entry : List Byte} (h : s.loadProfile e entry = some t) : LoadsOnly s t := by
  unfold State.loadProfile at h
  dsimp only at h
  split at h
  · exact Option.some.inj h ▸ of (.slot s _ _)
  · cases h

theorem loadEntries {load : List Byte → State → Option State}
    (hl : ∀ {entry s t}, load entry s = some t → LoadsOnly s t) (l : List (List Byte)) (s : State) :
    LoadsOnly s (State.loadEntries load l s).1 := by
  induction l generalizing s with
  | nil => exact refl s
  | cons en ens ih =>
    unfold State.loadEntries
    split
    · next t ht => exact ((extendCheck en s).trans (hl ht)).trans (ih t)
    · exact refl s

theorem loadPage (h : BankHeader) (i : Nat) (page : List Byte) (s : State) : LoadsOnly s (s.loadPage h i page).1 := by
  unfold State.loadPage
  dsimp only
  split
  · exact loadEntries loadProfile _ s
  · exact loadEntries (fun h => of (PortsKept.loadRecord_stores h)) _ s

end LoadsOnly

/-! ### The ends of a restore and the banks it begins -/

/-- What the events of a restore that end it or begin a bank leave of the modes, the epoch and the flash: the wait is over, or it is
for a page of entries with a target epoch above the epoch (R102, R173 to R175). -/
structure RestoreMoves (s t : State) : Prop where
  cells : t.flash.cells = s.flash.cells
  session : t.session = s.session
  staged : t.staged = s.staged
  phase : t.snap.savePhase = s.snap.savePhase
  epoch : s.epoch ≤ t.epoch
  wait : t.flash.op = none ∨ ∃ bk page e, t.flash.op = some (.read bk (page + 1)) ∧ t.opState = s.opState ∧
    t.snap.targetEpoch = some e ∧ t.epoch < e

theorem restoreFails_moves (k : FailKind) (s : State) : RestoreMoves s (s.restoreFails k) :=
  ⟨rfl, rfl, rfl, rfl, le_refl _, .inl rfl⟩

theorem restoreSucceeds_moves {bk : Bank} {h : BankHeader} {s : State} (he : s.epoch ≤ orZero s.snap.targetEpoch) :
    RestoreMoves s (s.restoreSucceeds bk h) := by
  have hkick := fun u : State => StoresOnly.kickAll u
  have hlinks := StoresOnly.resyncUpLinks ((s.setEpoch (orZero s.snap.targetEpoch)).setOpState .serving)
  unfold State.restoreSucceeds
  dsimp only
  constructor
  · simp [(hkick _).flash, hlinks.flash]
  · simp [(hkick _).session, hlinks.session]
  · simp [(hkick _).staged, hlinks.staged]
  · simp [(hkick _).snap, hlinks.snap, Snapshot.idleRestore]
  · simpa [(hkick _).epoch, hlinks.epoch] using he
  · simp [(hkick _).flash]

/-- From `s` to `t` the modes, the epoch and the flash did not change, nor did the save. -/
structure RestoreReady (s t : State) : Prop where
  flash : t.flash = s.flash
  session : t.session = s.session
  staged : t.staged = s.staged
  phase : t.snap.savePhase = s.snap.savePhase
  epoch : t.epoch = s.epoch
  opState : t.opState = s.opState

theorem RestoreReady.of (s t : State) (h : StoresOnly s t) : RestoreReady s t :=
  ⟨h.flash, h.session, h.staged, congrArg Snapshot.savePhase h.snap, h.epoch, h.opState⟩

theorem RestoreReady.trans {s t u : State} (h : RestoreReady s t) (k : RestoreReady t u) : RestoreReady s u :=
  ⟨k.flash.trans h.flash, k.session.trans h.session, k.staged.trans h.staged, k.phase.trans h.phase,
    k.epoch.trans h.epoch, k.opState.trans h.opState⟩

theorem RestoreReady.moves {s t u : State} (h : RestoreReady s t) (k : RestoreMoves t u) : RestoreMoves s u := by
  refine ⟨k.cells.trans (congrArg Flash.cells h.flash), k.session.trans h.session, k.staged.trans h.staged,
    k.phase.trans h.phase, h.epoch ▸ k.epoch, ?_⟩
  obtain hw | ⟨b, p, e, hw, hop, hrest⟩ := k.wait
  · exact .inl hw
  · exact .inr ⟨b, p, e, hw, hop.trans h.opState, hrest⟩

/-- What the beginning of a bank leaves outside the stores (R173). -/
theorem beginLoading_ready (bk : Bank) (h : BankHeader) (s : State) : RestoreReady s (s.beginLoading bk h) := by
  unfold State.beginLoading
  dsimp only
  split <;> cases bk <;> exact ⟨rfl, rfl, rfl, rfl, rfl, rfl⟩

theorem beginLoading_targetEpoch (bk : Bank) (h : BankHeader) (s : State) :
    (s.beginLoading bk h).snap.targetEpoch = targetEpochOf s.epoch h.savedEpoch := rfl

theorem targetEpochOf_loadable {h : BankHeader} (e : Nat) (hl : h.loadable = true) :
    targetEpochOf e h.savedEpoch = some (max e h.savedEpoch + 1) := by
  simp only [BankHeader.loadable, Bool.and_eq_true, decide_eq_true_eq] at hl
  exact if_pos hl.2

/-- What follows the discard of a bank that failed, `fuel` bounding the banks still to be tried (R174, R175). -/
def State.afterDiscard (fuel : Nat) (s : State) : State :=
  match fuel, s.snap.untried with
  | n + 1, some b => State.tryBank n b.1 b.2 s
  | _, _ => s.restoreFails .corrupt

/-- What becomes of a bank that is tried (R173 to R175): its first page is read, or it has no entries and the restore succeeds; else
everything is discarded. -/
theorem tryBank_eq (fuel : Nat) (bk : Bank) (h : BankHeader) (s : State) : State.tryBank fuel bk h s =
    if h.loadable = true ∧ 0 < h.pages then (s.beginLoading bk h).beginRead bk 1
    else if h.loadable = true ∧ h.bodyCheck = crc32Start then (s.beginLoading bk h).restoreSucceeds bk h
    else (s.beginLoading bk h).emptyStores.afterDiscard fuel := by
  cases fuel with
  | zero => rw [State.tryBank]; rfl
  | succ n =>
    rw [State.tryBank]
    unfold State.afterDiscard
    dsimp only
    cases (s.beginLoading bk h).emptyStores.snap.untried <;> rfl

theorem loadFails_eq (s : State) : s.loadFails = s.emptyStores.afterDiscard 2 := by
  unfold State.loadFails State.afterDiscard
  cases hu : s.emptyStores.snap.untried <;> simp only [hu]

/-- A bank tried moves the restore on if what follows its discard does. -/
theorem tryBank_moves_of {fuel : Nat} (hdiscard : ∀ s, RestoreMoves s (s.afterDiscard fuel)) (bk : Bank) (h : BankHeader)
    (s : State) : RestoreMoves s (State.tryBank fuel bk h s) := by
  have hready := beginLoading_ready bk h s
  have htarget := beginLoading_targetEpoch bk h s
  rw [tryBank_eq]
  generalize s.beginLoading bk h = t at *
  split
  · next hc =>
    rw [targetEpochOf_loadable _ hc.1] at htarget
    have hlt : t.epoch < max s.epoch h.savedEpoch + 1 := by have := hready.epoch; omega
    exact hready.moves ⟨rfl, rfl, rfl, rfl, le_refl _, .inr ⟨bk, 0, _, rfl, rfl, htarget, hlt⟩⟩
  · split
    · next hc =>
      rw [targetEpochOf_loadable _ hc.1] at htarget
      refine hready.moves (restoreSucceeds_moves ?_)
      have := hready.epoch
      simp only [htarget, orZero, Option.getD_some]
      omega
    · exact (hready.trans (.of _ _ (.emptyStores _))).moves (hdiscard _)

theorem afterDiscard_moves (fuel : Nat) (s : State) : RestoreMoves s (s.afterDiscard fuel) := by
  induction fuel generalizing s with
  | zero => exact restoreFails_moves _ _
  | succ fuel ih =>
    unfold State.afterDiscard
    cases s.snap.untried with
    | none => exact restoreFails_moves _ _
    | some b => exact tryBank_moves_of ih b.1 b.2 s

theorem tryBank_moves (fuel : Nat) (bk : Bank) (h : BankHeader) (s : State) : RestoreMoves s (State.tryBank fuel bk h s) :=
  tryBank_moves_of (afterDiscard_moves fuel) bk h s

theorem loadFails_moves (s : State) : RestoreMoves s s.loadFails := by
  rw [loadFails_eq]
  exact (RestoreReady.of _ _ (.emptyStores s)).moves (afterDiscard_moves _ _)

theorem selectBank_moves (s : State) : RestoreMoves s s.selectBank := by
  unfold State.selectBank
  split
  · exact restoreFails_moves _ s
  · exact tryBank_moves _ _ _ s

theorem LoadsOnly.ready {s t : State} (h : LoadsOnly s t) : RestoreReady s t := by
  obtain ⟨c, h⟩ := h
  exact ⟨h.flash, h.session, h.staged, by simp [h.snap], h.epoch, h.opState⟩

theorem LoadsOnly.targetEpoch {s t : State} (h : LoadsOnly s t) : t.snap.targetEpoch = s.snap.targetEpoch := by
  obtain ⟨c, h⟩ := h
  simp [h.snap]

/-- What a page of entries that has been read does, its target epoch being above the epoch (R102, R173 to R175). -/
theorem pageLoaded_moves {page : List Byte} {s : State} {e : Nat} (htarget : s.snap.targetEpoch = some e) (hlt : s.epoch < e)
    (hop : s.flash.op = none) : RestoreMoves s (s.pageLoaded page) := by
  unfold State.pageLoaded
  split
  · exact ⟨rfl, rfl, rfl, rfl, le_refl _, .inl hop⟩
  · next bk h _ =>
    have hload := LoadsOnly.loadPage h (orZero s.snap.readPos) page s
    dsimp only
    generalize s.loadPage h (orZero s.snap.readPos) page = r at *
    have ht := hload.targetEpoch.trans htarget
    have hready := hload.ready
    have hlt' : r.1.epoch < e := hready.epoch ▸ hlt
    split
    · exact hready.moves (loadFails_moves _)
    · have hnext : RestoreReady s (r.1.setSnap { r.1.snap with readPos := some (orZero s.snap.readPos + 1) }) :=
        hready.trans ⟨rfl, rfl, rfl, rfl, rfl, rfl⟩
      split
      · exact hready.moves ⟨rfl, rfl, rfl, rfl, le_refl _, .inr ⟨bk, _, e, rfl, rfl, ht, hlt'⟩⟩
      · split
        · refine hnext.moves (restoreSucceeds_moves ?_)
          simp only [State.setSnap_snap, ht, orZero, Option.getD_some, State.setSnap_epoch]
          omega
        · exact hnext.moves (loadFails_moves _)

/-! ### The pages of a save -/

/-- What beginning the next page of a save leaves (R165 to R167): a program is waited for, and the save runs on. -/
structure SaveMoves (s t : State) : Prop where
  cells : t.flash.cells = s.flash.cells
  session : t.session = s.session
  staged : t.staged = s.staged
  opState : t.opState = s.opState
  epoch : t.epoch = s.epoch
  saving : t.saving = true
  wait : ∃ bk page, t.flash.op = some (.program bk page)

theorem nextRecordPage_moves (page : Nat) (s : State) : SaveMoves s (s.nextRecordPage page) := by
  unfold State.nextRecordPage
  split <;> exact ⟨rfl, rfl, rfl, rfl, rfl, rfl, _, _, rfl⟩

theorem nextProfilePage_moves (page : Nat) (s : State) : SaveMoves s (s.nextProfilePage page) := by
  unfold State.nextProfilePage
  split
  · exact nextRecordPage_moves page s
  · exact ⟨rfl, rfl, rfl, rfl, rfl, rfl, _, _, rfl⟩

theorem profilePageMatched_moves (page : Nat) (s : State) : SaveMoves s (s.profilePageMatched page) := by
  obtain ⟨hc, hse, hst, ho, he, hs, hw⟩ := nextProfilePage_moves (page + 1) (s.extendCheck (s.profileBytes (s.snap.profilesOn page)))
  exact ⟨hc, hse, hst, ho, he, hs, hw⟩

theorem recordPageMatched_moves (page : Nat) (s : State) : SaveMoves s (s.recordPageMatched page) := by
  unfold State.recordPageMatched
  dsimp only
  have hpins := StoresOnly.clearListedPins s.snap.nextItems (s.extendCheck (s.recordBytes s.snap.nextItems))
  generalize State.clearListedPins s.snap.nextItems (s.extendCheck (s.recordBytes s.snap.nextItems)) = t at *
  obtain ⟨hc, hse, hst, ho, he, hs, hw⟩ := nextRecordPage_moves (page + 1)
    (t.setSnap { t.snap with writePos := t.snap.writePos + s.snap.nextItems.length })
  exact ⟨hc.trans (congrArg Flash.cells hpins.flash), hse.trans hpins.session, hst.trans hpins.staged, ho.trans hpins.opState,
    he.trans hpins.epoch, hs, hw⟩

theorem UnitsKept.clearStores (s : State) : UnitsKept s s.clearStores := by
  have hempty := (UnitsKept.of (.emptyStores s)).trans ⟨rfl, rfl, rfl, rfl⟩ (u := (s.emptyStores.setLowArmed true).setStaged none)
  unfold State.clearStores
  generalize (s.emptyStores.setLowArmed true).setStaged none = t at *
  exact hempty.trans (.of ((StoresOnly.clearLinks t).trans (.kickAll _)))

/-! ### The operating modes (O53) -/

/-- In SERVING and HELD the modes agree just when every wait for the flash is a save's. -/
theorem modesKept_iff_of_working {s : State} (hw : s.opState.working = true) :
    s.ModesKept ↔ ∀ o, s.flash.op = some o → s.saving = true ∧ ∀ bk page, o ≠ .read bk (page + 1) := by
  have hres : s.opState ≠ .restoring := by
    intro h
    rw [h] at hw
    cases hw
  constructor
  · rintro ⟨-, hwait⟩ o ho
    unfold State.waitKept at hwait
    rw [ho] at hwait
    rcases o with _ | ⟨bk, _ | page⟩ | bk | ⟨bk, page⟩
    · exact ⟨hwait.resolve_right hres, fun _ _ h => nomatch h⟩
    · exact ⟨hwait.resolve_right hres, fun _ _ h => nomatch h⟩
    · exact absurd hwait.2.1 hres
    · exact ⟨hwait, fun _ _ h => nomatch h⟩
    · exact ⟨hwait, fun _ _ h => nomatch h⟩
  · intro h
    refine ⟨fun hn => absurd (hw.symm.trans hn) (by decide), ?_⟩
    unfold State.waitKept
    split
    · trivial
    · next ho => exact .inl (h _ ho).1
    · next ho => exact .inl (h _ ho).1
    · next ho => exact absurd rfl ((h _ ho).2 _ _)
    · next ho => exact (h _ ho).1
    · next ho => exact (h _ ho).1

namespace State.ModesKept

variable {s t : State}

/-- With no wait for the flash and no save the modes agree when no session is open and no set waits, or the part works. -/
theorem of_noWait (hidle : t.opState.working = false → t.session = none ∧ t.staged = none) (hs : t.saving = false)
    (hop : t.flash.op = none) : t.ModesKept := by
  refine ⟨fun h => ⟨(hidle h).1, (hidle h).2, hs⟩, ?_⟩
  unfold State.waitKept
  rw [hop]
  trivial

theorem of_same (h : s.ModesKept) (hu : UnitsKept s t) (hse : t.session = s.session) (hst : t.staged = s.staged) :
    t.ModesKept := by
  refine ⟨?_, ?_⟩
  · rw [State.saving, hu.snap, hu.opState, hse, hst]
    exact h.idle
  · unfold State.waitKept State.saving
    rw [hu.flash, hu.opState, hu.snap, hu.epoch]
    exact h.wait

theorem of_stores (h : s.ModesKept) (k : StoresOnly s t) : t.ModesKept := h.of_same (.of k) k.session k.staged

/-- In SERVING and HELD session, staged set and epoch are free. -/
theorem of_working (h : s.ModesKept) (hw : s.opState.working = true) (ho : t.opState = s.opState) (hsn : t.snap = s.snap)
    (hf : t.flash = s.flash) : t.ModesKept := by
  rw [modesKept_iff_of_working (ho ▸ hw), State.saving, hf, hsn]
  exact (modesKept_iff_of_working hw).1 h

theorem working_of_session (h : s.ModesKept) (hse : s.session ≠ none) : s.opState.working = true :=
  Bool.of_not_eq_false fun hn => hse (h.idle hn).1

theorem working_of_staged (h : s.ModesKept) (hst : s.staged ≠ none) : s.opState.working = true :=
  Bool.of_not_eq_false fun hn => hst (h.idle hn).2.1

theorem working_of_saving (h : s.ModesKept) (hs : s.saving = true) : s.opState.working = true :=
  Bool.of_not_eq_false fun hn => Bool.false_ne_true ((h.idle hn).2.2.symm.trans hs)

theorem endSave (k : FailKind) (h : s.ModesKept) : (s.endSave k).ModesKept := by
  obtain ⟨ho, -, hse, hst, hf, -⟩ := endSave_fields k s
  refine of_noWait (fun hn => ?_) (endSave_saving k s) (by rw [hf])
  rw [ho] at hn
  rw [hse, hst]
  exact ⟨(h.idle hn).1, (h.idle hn).2.1⟩

/-- The events of a restore keep the modes. -/
theorem of_restore (hres : s.opState = .restoring) (hse : s.session = none) (hst : s.staged = none) (hs : s.saving = false)
    (hm : RestoreMoves s t) : t.ModesKept := by
  have hsaving : t.saving = false := by rw [State.saving, hm.phase]; exact hs
  refine ⟨fun _ => ⟨hm.session.trans hse, hm.staged.trans hst, hsaving⟩, ?_⟩
  unfold State.waitKept
  obtain hw | ⟨bk, page, e, hw, ho, ht, hlt⟩ := hm.wait
  · rw [hw]; trivial
  · rw [hw]
    exact ⟨hsaving, ho.trans hres, e, ht, hlt⟩

theorem of_save (hw : s.opState.working = true) (hm : SaveMoves s t) : t.ModesKept := by
  rw [modesKept_iff_of_working (hm.opState ▸ hw)]
  obtain ⟨bk, page, hop⟩ := hm.wait
  rintro o ho
  rw [hop] at ho
  obtain rfl := Option.some.inj ho
  exact ⟨hm.saving, fun _ _ h => nomatch h⟩

theorem guardEdit (h : s.ModesKept) (p : Port) {act : State → State × Reply} (ha : ∀ u, UnitsKept u (act u).1) :
    (s.guardEdit p act).1.ModesKept := by
  obtain hs | ⟨hw, hs, -⟩ := guardEdit_cases p act s
  · rwa [hs]
  · rw [hs]
    exact h.of_working hw (ha s).opState (ha s).snap (ha s).flash

theorem switchSet (h : s.ModesKept) (hw : s.opState.working = true) (trig : Trigger) (st : StagedSet) :
    (s.switchSet trig st).ModesKept := by
  obtain ⟨-, -, -, ho, hsn, hf, -⟩ := switchSet_fields trig st s
  exact h.of_working hw ho hsn hf

theorem takeOpenEdit (h : s.ModesKept) (p : Port) : (s.takeOpenEdit p).1.ModesKept := by
  unfold State.takeOpenEdit
  split
  · exact h
  · next hw =>
    split
    · exact h.of_working (working_iff.2 hw) rfl rfl rfl
    · split <;> exact h

theorem takeSwitch (h : s.ModesKept) : s.takeSwitch.1.ModesKept := by
  unfold State.takeSwitch
  split
  · exact h
  · next hw =>
    split
    · exact h
    · split
      · exact h
      · dsimp only
        exact h.switchSet (Bool.of_not_eq_false hw) _ _

theorem takeWithdraw (h : s.ModesKept) : s.takeWithdraw.1.ModesKept := by
  unfold State.takeWithdraw
  split
  · exact h
  · next hw =>
    split
    · exact h
    · split
      · exact h
      · obtain ⟨ho, -, hsn, hf⟩ := UnitsKept.withdrawSet (by assumption) s
        exact h.of_working (Bool.of_not_eq_false hw) ho hsn hf

theorem takeSave (h : s.ModesKept) : s.takeSave.1.ModesKept := by
  unfold State.takeSave
  split
  · exact h
  · split
    · exact h
    · next hw =>
      obtain ⟨hf, ho, -, -, -, hph⟩ := beginSave_fields s
      rw [modesKept_iff_of_working (ho ▸ Bool.of_not_eq_false hw)]
      intro o hop
      rw [hf] at hop
      obtain rfl := Option.some.inj hop
      exact ⟨by rw [State.saving, hph]; rfl, fun _ _ h => nomatch h⟩

theorem takeAbortSave (h : s.ModesKept) : s.takeAbortSave.1.ModesKept := by
  unfold State.takeAbortSave
  split
  · exact h
  · exact h
  all_goals exact h.endSave _

theorem takeRestore (h : s.ModesKept) : s.takeRestore.1.ModesKept := by
  unfold State.takeRestore
  split
  · exact h
  · next hs =>
    split
    · exact h
    · next o ho =>
      split
      · exact h
      · have hidle : s.session = none ∧ s.staged = none := by
          unfold State.restoreOrigin at ho
          split at ho
          · next hc => exact ⟨(h.idle (by rw [hc]; rfl)).1, (h.idle (by rw [hc]; rfl)).2.1⟩
          · split at ho
            · next hc => exact ⟨hc.2.1, hc.2.2.1⟩
            · cases ho
          · cases ho
          · cases ho
        exact ⟨fun _ => ⟨hidle.1, hidle.2, Bool.of_not_eq_true hs⟩, .inr rfl⟩

theorem takeStartEmpty (h : s.ModesKept) : s.takeStartEmpty.1.ModesKept := by
  unfold State.takeStartEmpty
  split
  · next hc =>
    have hs := (h.idle (by rw [hc]; rfl)).2.2
    have hwait := h.wait
    refine of_noWait (fun hn => nomatch hn) hs ?_
    show s.flash.op = none
    unfold State.waitKept at hwait
    rw [hs, hc] at hwait
    split at hwait
    · assumption
    all_goals simp at hwait
  · exact h

theorem takeClearAll (h : s.ModesKept) : s.takeClearAll.1.ModesKept := by
  unfold State.takeClearAll
  split
  · exact h
  · next hc =>
    have hw : s.opState.working = true := by
      unfold State.clearRefusal at hc
      split at hc
      · cases hc
      · split at hc
        · cases hc
        · next ho => rw [not_not.1 ho]; rfl
    have hu := UnitsKept.clearStores s
    exact h.of_working hw hu.opState hu.snap hu.flash

theorem perform (h : s.ModesKept) (p : Port) (k : CmdKind) (args : List Word) : (s.perform p k args).1.ModesKept := by
  cases k
  case openEdit => exact h.takeOpenEdit p
  case insert => exact h.guardEdit p (UnitsKept.insertSpan _ _)
  case amend => exact h.guardEdit p (UnitsKept.amendRow _ _ _)
  case retire => exact h.guardEdit p (UnitsKept.retireRow _)
  case retireGroup => exact h.guardEdit p (UnitsKept.retireGroup _)
  case defineProfile => exact h.guardEdit p (UnitsKept.defineProfile _ _)
  case dropProfile => exact h.guardEdit p (UnitsKept.dropProfile _)
  case sealSession => exact h.guardEdit p (UnitsKept.sealWith _)
  case abandon => exact h.guardEdit p UnitsKept.abandonSession
  case touch => exact h.guardEdit p UnitsKept.refl
  case linkStatus =>
    show (if _ then _ else s : State).ModesKept
    split
    · exact h.of_stores (.link s _ _)
    · exact h
  case switch => exact h.takeSwitch
  case withdraw => exact h.takeWithdraw
  case save => exact h.takeSave
  case abortSave => exact h.takeAbortSave
  case restore => exact h.takeRestore
  case startEmpty => exact h.takeStartEmpty
  case hold | resume =>
    show (s.takeGate _).1.ModesKept
    unfold State.takeGate
    split
    · next hw => exact (modesKept_iff_of_working rfl).2 ((modesKept_iff_of_working hw).1 h)
    · exact h
  case clearAll => exact h.takeClearAll
  case resetLink => exact h.of_stores (.resetLinkDown _ s)
  case setParam =>
    have hp : (s.setParams (s.params.replace (bitsAt (argAt args 0) 24 8) (bitsAt (argAt args 0) 0 16))).ModesKept :=
      ⟨h.idle, h.wait⟩
    show (if _ then _ else _ : State).ModesKept
    split
    · exact hp.of_stores (.checkArm _)
    · exact hp
  all_goals exact h

/-- What a wait outside a save says (R162): the part is RESTORING, with no session, no staged set and no save. -/
theorem restoring_of_wait (h : s.ModesKept) (hs : s.saving = false)
    (hop : s.flash.op = some .identify ∨ ∃ bk, s.flash.op = some (.read bk 0)) :
    s.opState = .restoring ∧ s.session = none ∧ s.staged = none := by
  have hres : s.opState = .restoring := by
    have hwait := h.wait
    unfold State.waitKept at hwait
    obtain ho | ⟨bk, ho⟩ := hop
    · rw [ho] at hwait
      exact hwait.resolve_left (by simp [hs])
    · rw [ho] at hwait
      exact hwait.resolve_left (by simp [hs])
  exact ⟨hres, (h.idle (by rw [hres]; rfl)).1, (h.idle (by rw [hres]; rfl)).2.1⟩

end State.ModesKept

end Sys2Proof.Machine
end

section
/-! PROOF. The statements on the operating modes, the epoch and the flash's form (O53, O55, O56), event by event. -/

namespace Sys2Proof.Machine

/-! ### Completions and time-outs, case by case -/

section
variable {s t : State}

/-- A flash event that waits for an operation not in progress does nothing, and each other one is one of these cases (R162). -/
inductive FlashMove (s : State) : State → Prop where
  | none : FlashMove s s
  | identified : s.flash.op = some .identify → FlashMove s ((s.setFlash s.flash.settled).beginRead .bankA 0)
  | absentSave (k : FailKind) : s.saving = true → FlashMove s (s.endSave k)
  | absentRestore : s.flash.op = some .identify → s.saving = false → FlashMove s (s.restoreFails .flashAbsent)
  | read (bk : Bank) (page : Nat) (changes : List Host.Cell) : s.flash.op = some (.read bk page) →
      FlashMove s ((s.setFlash { s.flash with cells := applyChanges changes s.flash.cells }).readCompletes bk page)
  | erased (bk bk' : Bank) : s.flash.device = some (.erase bk) → s.flash.op = some (.erase bk') →
      FlashMove s (((s.setFlash { s.flash.settled with op := Option.none }).setSnap
        { s.snap with savePhase := .profiles }).nextProfilePage 1)
  | erasedLate (bk : Bank) : s.flash.device = some (.erase bk) → FlashMove s (s.setFlash s.flash.settled)
  | failed (k : FailKind) : (∃ bk, s.flash.op = some (.erase bk)) ∨ (∃ bk page, s.flash.op = some (.program bk page)) →
      FlashMove s (s.endSave k)
  | programmed (bk : Bank) (page : Nat) (bytes : List Byte) (bk' : Bank) (page' : Nat) (changes : List Host.Cell) :
      s.flash.device = some (.program bk page bytes) → s.flash.op = some (.program bk' page') →
      FlashMove s ((s.setFlash { s.flash.settled with
        cells := applyChanges changes s.flash.settled.cells, op := Option.none }).pageMatched page)
  | mismatched (changes : List Host.Cell) : (∃ bk page, s.flash.op = some (.program bk page)) →
      FlashMove s ((s.setFlash { s.flash.settled with cells := applyChanges changes s.flash.settled.cells }).endSave
        .verifyMismatch)
  | programmedLate (bk : Bank) (page : Nat) (bytes : List Byte) (changes : List Host.Cell) :
      s.flash.device = some (.program bk page bytes) →
      FlashMove s (s.setFlash { s.flash.settled with cells := applyChanges changes s.flash.settled.cells })

theorem flashMove_of_exec {i : Instr} (hi : Instr.isFlashEvent i = true) (he : exec i s = .next t) :
    FlashMove s t := by
  cases i
  case identificationDone =>
    obtain rfl := Host.Outcome.next.inj he
    split
    · next ho => exact .identified ho
    · exact .none
  case flashAbsent =>
    obtain rfl := Host.Outcome.next.inj he
    split
    · next ho =>
      split
      · next hs => exact .absentSave _ hs
      · next hs => exact .absentRestore ho (Bool.of_not_eq_true hs)
    · exact .none
  case pageReadDone changes =>
    obtain rfl := Host.Outcome.next.inj he
    split
    · next ho => exact .read _ _ changes ho
    all_goals exact .none
  case bankEraseDone =>
    obtain rfl := Host.Outcome.next.inj he
    split
    · next hd =>
      dsimp only
      split
      · next ho => exact .erased _ _ hd ho
      all_goals exact .erasedLate _ hd
    all_goals exact .none
  case eraseTimeout =>
    obtain rfl := Host.Outcome.next.inj he
    split
    · next ho => exact .failed _ (.inl ⟨_, ho⟩)
    all_goals exact .none
  case pageProgramDone changes =>
    obtain rfl := Host.Outcome.next.inj he
    split
    · next hd =>
      dsimp only
      split
      · next ho =>
        split
        · exact .programmed _ _ _ _ _ changes hd ho
        · exact .mismatched changes ⟨_, _, ho⟩
      all_goals exact .programmedLate _ _ _ changes hd
    all_goals exact .none
  case programTimeout =>
    obtain rfl := Host.Outcome.next.inj he
    split
    · next ho => exact .failed _ (.inr ⟨_, _, ho⟩)
    all_goals exact .none
  all_goals cases hi

/-! ### The marker, the idle timer and a header read, case by case -/

/-- MARKER_ARRIVAL counts, and switches a waiting AT_MARKER set with marker enable on, below the epoch limit (R89). -/
theorem markerArrival_cases (he : exec .markerArrival s = .next t) :
    ∃ m, s.setMarkerCount m = t ∨
      ∃ st, s.staged = some st ∧ s.epoch < Config.maxU32 ∧ (s.setMarkerCount m).switchSet .marker st = t := by
  have ht := Host.Outcome.next.inj he
  refine ⟨(s.markerCount + 1) % 4294967296, ?_⟩
  cases hst : s.staged with
  | none =>
    rw [hst] at ht
    exact .inl ht
  | some st =>
    rw [hst] at ht
    dsimp only at ht
    split at ht
    · next hc => exact .inr ⟨st, rfl, hc.2.2, ht⟩
    · exact .inl ht

theorem idleTimer_cases (he : exec .idleTimerExpiry s = .next t) :
    s.session = none ∧ s = t ∨ ∃ x, s.session = some x ∧ s.abandonSession.raise (.sessionExpired x.owner) = t := by
  have ht := Host.Outcome.next.inj he
  cases hx : s.session with
  | none =>
    rw [hx] at ht
    exact .inl ⟨rfl, ht⟩
  | some x =>
    rw [hx] at ht
    exact .inr ⟨x, rfl, ht⟩

/-- A header read goes on to the other header, to the erase of a save, or to the choice of a restore (R164, R172). -/
theorem headerRead_cases (bk : Bank) (page : List Byte) (s : State) :
    bk = .bankA ∧ s.headerRead bk page = (s.survey bk page).beginRead .bankB 0 ∨
    bk = .bankB ∧ s.saving = true ∧ s.headerRead bk page = (s.survey bk page).chooseAndErase ∨
    bk = .bankB ∧ s.saving = false ∧ s.headerRead bk page = (s.survey bk page).selectBank := by
  cases bk with
  | bankA => exact .inl ⟨rfl, rfl⟩
  | bankB =>
    have hs : (s.survey .bankB page).saving = s.saving := rfl
    unfold State.headerRead
    dsimp only
    rw [hs]
    cases s.saving
    · exact .inr (.inr ⟨rfl, rfl, rfl⟩)
    · exact .inr (.inl ⟨rfl, rfl, rfl⟩)

theorem chooseAndErase_cases (s : State) :
    s.chooseAndErase = s.endSave .aborted ∨ ∃ bk q, s.chooseAndErase =
      (s.setSnap { s.snap with target := some bk, sequence := some q }).beginErase bk := by
  unfold State.chooseAndErase
  dsimp only
  split
  · exact .inl rfl
  · exact .inr ⟨_, _, rfl⟩

/-! ### The flash's form (O56) -/

theorem settled_op (f : Flash) : f.settled.op = f.op := by
  unfold Flash.settled
  split <;> rfl

theorem cells_endSave (k : FailKind) (s : State) : (s.endSave k).flash.cells = s.flash.cells := by
  rw [(endSave_fields k s).2.2.2.2.1]

theorem cells_headerRead (bk : Bank) (page : List Byte) (s : State) : (s.headerRead bk page).flash.cells = s.flash.cells := by
  have hsurvey : (s.survey bk page).flash.cells = s.flash.cells := rfl
  obtain ⟨-, h⟩ | ⟨-, -, h⟩ | ⟨-, -, h⟩ := headerRead_cases bk page s
  · rw [h, ← hsurvey]; rfl
  · rw [h, ← hsurvey]
    obtain hc | ⟨bk', q, hc⟩ := chooseAndErase_cases (s.survey bk page)
    · rw [hc, cells_endSave]
    · rw [hc]; rfl
  · rw [h, (selectBank_moves _).cells, hsurvey]

theorem cells_loadPage (h : BankHeader) (i : Nat) (page : List Byte) (s : State) :
    (s.loadPage h i page).1.flash.cells = s.flash.cells := congrArg Flash.cells (LoadsOnly.loadPage h i page s).ready.flash

theorem cells_restoreSucceeds (bk : Bank) (h : BankHeader) (s : State) :
    (s.restoreSucceeds bk h).flash.cells = s.flash.cells := by
  have hlinks := StoresOnly.resyncUpLinks ((s.setEpoch (orZero s.snap.targetEpoch)).setOpState .serving)
  unfold State.restoreSucceeds
  simp [(StoresOnly.kickAll _).flash, hlinks.flash]

theorem cells_pageLoaded (page : List Byte) (s : State) : (s.pageLoaded page).flash.cells = s.flash.cells := by
  unfold State.pageLoaded
  split
  · rfl
  · next bk h _ =>
    have hload := cells_loadPage h (orZero s.snap.readPos) page s
    dsimp only
    generalize s.loadPage h (orZero s.snap.readPos) page = r at *
    rw [← hload]
    split
    · exact (loadFails_moves r.1).cells
    · split
      · rfl
      · split
        · rw [cells_restoreSucceeds]; rfl
        · exact (loadFails_moves _).cells

theorem cells_pageMatched (page : Nat) (s : State) : (s.pageMatched page).flash.cells = s.flash.cells := by
  unfold State.pageMatched
  split
  · exact (profilePageMatched_moves page s).cells
  · exact (recordPageMatched_moves page s).cells
  all_goals rfl

theorem FlashMove.wf (hm : FlashMove s t) (h : Memory.wf s.flash.cells = true) : Memory.wf t.flash.cells = true := by
  cases hm with
  | none => exact h
  | identified => exact Flash.wf_settled h
  | absentSave k => rwa [cells_endSave]
  | absentRestore => exact h
  | read bk page changes =>
    unfold State.readCompletes
    dsimp only
    split
    · rw [cells_headerRead]; exact Memory.wf_applyChanges _ h
    · rw [cells_pageLoaded]; exact Memory.wf_applyChanges _ h
  | erased => rw [(nextProfilePage_moves 1 _).cells]; exact Flash.wf_settled h
  | erasedLate => exact Flash.wf_settled h
  | failed k => rwa [cells_endSave]
  | programmed => rw [cells_pageMatched]; exact Memory.wf_applyChanges _ (Flash.wf_settled h)
  | mismatched => rw [cells_endSave]; exact Memory.wf_applyChanges _ (Flash.wf_settled h)
  | programmedLate => exact Memory.wf_applyChanges _ (Flash.wf_settled h)

theorem flashForm_kept : KeptByEvents (fun s => Memory.wf s.flash.cells = true) where
  putPort s p x h := by cases p <;> exact h
  eventSet _ _ h := h
  setEngine _ _ h := h
  restartTimer s p h := by rwa [(UnitsKept.restartTimer p s).flash]
  perform s p k args _ _ h := by rwa [perform_cells]
  queue _ _ h := h
  mask s p m h := by cases p <;> exact h
  wordTime _ h := h
  hardReset s t strap _ h he := by
    obtain rfl := Host.Outcome.next.inj he
    cases strap <;> exact h
  linkEvent _ _ _ hi h he := by rwa [(storesOnly_of_linkEvent hi he).flash]
  idleTimer s t h he := by
    obtain ⟨-, rfl⟩ | ⟨x, -, rfl⟩ := idleTimer_cases he
    · exact h
    · rwa [State.raise_flash, (UnitsKept.abandonSession s).flash]
  marker s t h he := by
    obtain ⟨m, rfl | ⟨st, hst, hlt, rfl⟩⟩ := markerArrival_cases he
    · exact h
    · rwa [(switchSet_fields _ _ _).2.2.2.2.2.1]
  flashEvent _ _ _ hi h he := (flashMove_of_exec hi he).wf h

/-- Settles O56: the cells change by erases, programs and bytes changed from outside alone, and each keeps their form. -/
theorem flashKeepsForm : Obligations.FlashKeepsForm := fun _ _ h he => flashForm_kept.step h he

/-! ### The modes (O53) -/

/-- In SERVING and HELD a state whose waits for the flash are a save's keeps the modes. -/
theorem State.ModesKept.of_waits (hw : t.opState.working = true)
    (h : ∀ o, t.flash.op = some o → t.saving = true ∧ ∀ bk page, o ≠ .read bk (page + 1)) : t.ModesKept :=
  (modesKept_iff_of_working hw).2 h

theorem pageMatched_modes {page : Nat} (hw : s.opState.working = true) (hop : s.flash.op = none) :
    (s.pageMatched page).ModesKept := by
  have hstay : s.ModesKept := .of_waits hw fun o ho => by rw [hop] at ho; cases ho
  unfold State.pageMatched
  split
  · exact .of_save hw (profilePageMatched_moves page s)
  · exact .of_save hw (recordPageMatched_moves page s)
  · exact .of_noWait (fun hn => absurd (hw.symm.trans hn) (by decide)) rfl hop
  · exact hstay
  · exact hstay

/-- A header read keeps the modes: a save runs in SERVING or HELD, and else the part is RESTORING with nothing open or waiting. -/
theorem headerRead_modes {bk : Bank} {page : List Byte} (hop : s.flash.op = none) (hsave : s.saving = true → s.opState.working = true)
    (hrestore : s.saving = false → s.opState = .restoring ∧ s.session = none ∧ s.staged = none) :
    (s.headerRead bk page).ModesKept := by
  have hmodes : s.ModesKept := by
    refine ⟨fun hn => ?_, by unfold State.waitKept; rw [hop]; trivial⟩
    have hs := Bool.of_not_eq_true fun hs => Bool.false_ne_true (hn.symm.trans (hsave hs))
    exact ⟨(hrestore hs).2.1, (hrestore hs).2.2, hs⟩
  have hsurvey : (s.survey bk page).ModesKept := by
    have hsaving : (s.survey bk page).saving = s.saving := by cases bk <;> rfl
    refine ⟨fun hn => hsaving ▸ hmodes.idle hn, ?_⟩
    show (s.survey bk page).waitKept
    unfold State.waitKept
    rw [show (s.survey bk page).flash.op = none from hop]
    trivial
  have hsaving : (s.survey bk page).saving = s.saving := by cases bk <;> rfl
  have hfields : (s.survey bk page).opState = s.opState ∧ (s.survey bk page).session = s.session ∧
    (s.survey bk page).staged = s.staged := ⟨rfl, rfl, rfl⟩
  obtain ⟨-, h⟩ | ⟨-, hs, h⟩ | ⟨-, hs, h⟩ := headerRead_cases bk page s
  · rw [h]
    refine ⟨hsurvey.idle, ?_⟩
    show (s.survey bk page).saving = true ∨ (s.survey bk page).opState = .restoring
    cases hs : (s.survey bk page).saving
    · exact .inr (hrestore (hsaving.symm.trans hs)).1
    · exact .inl rfl
  · rw [h]
    generalize s.survey bk page = u at *
    obtain hc | ⟨bk', q, hc⟩ := chooseAndErase_cases u
    · rw [hc]; exact hsurvey.endSave _
    · rw [hc]
      have hw : u.opState.working = true := hfields.1 ▸ hsave hs
      refine State.ModesKept.of_waits (t := (u.setSnap { u.snap with target := some bk', sequence := some q }).beginErase bk') hw
        fun o ho => ?_
      obtain rfl := Option.some.inj ho
      exact ⟨hsaving.trans hs, fun _ _ h => nomatch h⟩
  · rw [h]
    generalize s.survey bk page = u at *
    obtain ⟨hres, hse, hst⟩ := hrestore hs
    exact .of_restore (hfields.1.trans hres) (hfields.2.1.trans hse) (hfields.2.2.trans hst) (hsaving.trans hs)
      (selectBank_moves u)

theorem pageRead_modes {page : List Byte} {e : Nat} (hop : s.flash.op = none) (hres : s.opState = .restoring)
    (hse : s.session = none) (hst : s.staged = none) (hs : s.saving = false) (htarget : s.snap.targetEpoch = some e)
    (hlt : s.epoch < e) : (s.pageLoaded page).ModesKept :=
  .of_restore hres hse hst hs (pageLoaded_moves htarget hlt hop)

theorem FlashMove.modes (hm : FlashMove s t) (h : s.ModesKept) : t.ModesKept := by
  have hsave : ∀ k u, u.opState = s.opState → u.session = s.session → u.staged = s.staged → (State.endSave k u).ModesKept := by
    intro k u ho hse hst
    obtain ⟨ho', -, hse', hst', hf, -⟩ := endSave_fields k u
    refine .of_noWait (fun hn => ?_) (endSave_saving k u) (by rw [hf])
    rw [ho', ho] at hn
    rw [hse', hst', hse, hst]
    exact ⟨(h.idle hn).1, (h.idle hn).2.1⟩
  have hworks : ∀ o, s.flash.op = some o → (∃ bk, o = .erase bk) ∨ (∃ bk page, o = .program bk page) →
      s.opState.working = true := by
    intro o ho hor
    refine h.working_of_saving ?_
    have hwait := h.wait
    unfold State.waitKept at hwait
    obtain ⟨bk, rfl⟩ | ⟨bk, page, rfl⟩ := hor <;> rw [ho] at hwait <;> exact hwait
  have hlate : ∀ f : Flash, f.op = s.flash.op → (s.setFlash f).ModesKept := by
    intro f hf
    refine ⟨h.idle, ?_⟩
    have hwait := h.wait
    unfold State.waitKept at hwait ⊢
    rw [State.setFlash_flash, hf]
    exact hwait
  cases hm with
  | none => exact h
  | identified ho =>
    refine ⟨h.idle, ?_⟩
    have hwait := h.wait
    unfold State.waitKept at hwait
    rw [ho] at hwait
    exact hwait
  | absentSave k => exact hsave k s rfl rfl rfl
  | absentRestore ho hs =>
    obtain ⟨hres, hse, hst⟩ := h.restoring_of_wait hs (.inl ho)
    exact .of_restore hres hse hst hs (restoreFails_moves _ s)
  | read bk page changes ho =>
    unfold State.readCompletes
    dsimp only
    split
    · next hp =>
      subst hp
      refine headerRead_modes rfl (fun hs => h.working_of_saving hs) fun hs => h.restoring_of_wait hs (.inr ⟨_, ho⟩)
    · next hp =>
      obtain ⟨page, rfl⟩ := Nat.exists_eq_succ_of_ne_zero hp
      have hwait := h.wait
      unfold State.waitKept at hwait
      rw [ho] at hwait
      obtain ⟨hs, hres, e, htarget, hlt⟩ := hwait
      have hidle := h.idle (by rw [hres]; rfl)
      exact pageRead_modes rfl hres hidle.1 hidle.2.1 hs htarget hlt
  | erased bk bk' _ ho =>
    exact .of_save (s := (s.setFlash { s.flash.settled with op := Option.none }).setSnap { s.snap with savePhase := .profiles })
      (hworks _ ho (.inl ⟨_, rfl⟩)) (nextProfilePage_moves 1 _)
  | erasedLate => exact hlate _ (settled_op _)
  | failed k => exact hsave k s rfl rfl rfl
  | programmed bk page bytes bk' page' changes _ ho =>
    have hw := hworks _ ho (.inr ⟨_, _, rfl⟩)
    exact pageMatched_modes hw rfl
  | mismatched changes => exact hsave _ _ rfl rfl rfl
  | programmedLate => exact hlate _ (settled_op _)

theorem modes_kept : KeptByEvents State.ModesKept where
  putPort s p x h := by cases p <;> exact ⟨h.idle, h.wait⟩
  eventSet _ _ h := ⟨h.idle, h.wait⟩
  setEngine _ _ h := ⟨h.idle, h.wait⟩
  restartTimer s p h := by
    unfold State.restartTimer
    split
    · exact h
    · next hx =>
      split
      · exact h.of_working (h.working_of_session (by simp [hx])) rfl rfl rfl
      · exact h
  perform s p k args _ _ h := h.perform p k args
  queue _ _ h := ⟨h.idle, h.wait⟩
  mask s p m h := by cases p <;> exact ⟨h.idle, h.wait⟩
  wordTime _ h := ⟨h.idle, h.wait⟩
  hardReset s t strap powered _ he := by
    obtain rfl := Host.Outcome.next.inj he
    cases strap
    · exact .of_noWait (fun _ => ⟨rfl, rfl⟩) rfl rfl
    · exact ⟨fun _ => ⟨rfl, rfl, rfl⟩, .inr rfl⟩
  linkEvent _ _ _ hi h he := h.of_stores (storesOnly_of_linkEvent hi he)
  idleTimer s t h he := by
    obtain ⟨-, rfl⟩ | ⟨x, hx, rfl⟩ := idleTimer_cases he
    · exact h
    · obtain ⟨ho, -, hsn, hf⟩ := UnitsKept.abandonSession s
      exact h.of_working (h.working_of_session (by simp [hx])) ho hsn hf
  marker s t h he := by
    have hcount : ∀ m, (s.setMarkerCount m).ModesKept := fun _ => ⟨h.idle, h.wait⟩
    obtain ⟨m, rfl | ⟨st, hst, hlt, rfl⟩⟩ := markerArrival_cases he
    · exact hcount m
    · exact (hcount m).switchSet (h.working_of_staged (by simp [hst])) _ _
  flashEvent _ _ _ hi h he := (flashMove_of_exec hi he).modes h

/-- Settles O53: each event keeps the modes in agreement, the waits for the flash included. -/
theorem modesStayLegal : Obligations.ModesStayLegal := fun _ _ h he => modes_kept.step h he

/-! ### The epoch (O55) -/

/-- No command at a port makes the epoch fall. -/
theorem epoch_le_perform (p : Port) (k : CmdKind) (args : List Word) (s : State) : s.epoch ≤ (s.perform p k args).1.epoch := by
  have hedit : ∀ act, (∀ u, UnitsKept u (act u).1) → s.epoch ≤ (s.guardEdit p act).1.epoch := by
    intro act hact
    obtain h | ⟨-, h, -⟩ := guardEdit_cases p act s
    · rw [h]
    · rw [h, (hact s).epoch]
  cases k
  case openEdit =>
    show _ ≤ (s.takeOpenEdit p).1.epoch
    unfold State.takeOpenEdit
    split
    · exact le_refl _
    · split
      · exact le_refl _
      · split <;> exact le_refl _
  case insert => exact hedit _ (UnitsKept.insertSpan _ _)
  case amend => exact hedit _ (UnitsKept.amendRow _ _ _)
  case retire => exact hedit _ (UnitsKept.retireRow _)
  case retireGroup => exact hedit _ (UnitsKept.retireGroup _)
  case defineProfile => exact hedit _ (UnitsKept.defineProfile _ _)
  case dropProfile => exact hedit _ (UnitsKept.dropProfile _)
  case sealSession => exact hedit _ (UnitsKept.sealWith _)
  case abandon => exact hedit _ UnitsKept.abandonSession
  case touch => exact hedit _ UnitsKept.refl
  case linkStatus =>
    show _ ≤ (if _ then _ else s : State).epoch
    split <;> exact le_refl _
  case switch =>
    show _ ≤ s.takeSwitch.1.epoch
    unfold State.takeSwitch
    split
    · exact le_refl _
    · split
      · exact le_refl _
      · split
        · exact le_refl _
        · dsimp only
          rw [(switchSet_fields _ _ s).1]
          omega
  case withdraw =>
    show _ ≤ s.takeWithdraw.1.epoch
    unfold State.takeWithdraw
    split
    · exact le_refl _
    · split
      · exact le_refl _
      · split
        · exact le_refl _
        · rw [(UnitsKept.withdrawSet _ s).epoch]
  case save =>
    show _ ≤ s.takeSave.1.epoch
    unfold State.takeSave
    split
    · exact le_refl _
    · split
      · exact le_refl _
      · dsimp only
        rw [(beginSave_fields s).2.2.1]
  case abortSave =>
    show _ ≤ s.takeAbortSave.1.epoch
    unfold State.takeAbortSave
    split <;> simp [endSave_fields]
  case restore =>
    show _ ≤ s.takeRestore.1.epoch
    unfold State.takeRestore
    split
    · exact le_refl _
    · split
      · exact le_refl _
      · split <;> exact le_refl _
  case startEmpty =>
    show _ ≤ s.takeStartEmpty.1.epoch
    unfold State.takeStartEmpty
    split <;> exact le_refl _
  case hold | resume =>
    show _ ≤ (s.takeGate _).1.epoch
    unfold State.takeGate
    split <;> exact le_refl _
  case clearAll =>
    show _ ≤ s.takeClearAll.1.epoch
    unfold State.takeClearAll
    split
    · exact le_refl _
    · dsimp only
      rw [(UnitsKept.clearStores s).epoch]
  case resetLink => exact le_of_eq (StoresOnly.resetLinkDown _ s).epoch.symm
  case setParam =>
    show _ ≤ (if _ then _ else _ : State).epoch
    split
    · rw [(StoresOnly.checkArm _).epoch]; exact le_refl _
    · exact le_refl _
  all_goals exact le_refl _

theorem epoch_le_commands (e : Nat) : KeptByCommands (fun s => e ≤ s.epoch) where
  putPort s p x h := by cases p <;> exact h
  eventSet _ _ h := h
  setEngine _ _ h := h
  restartTimer s p h := by rwa [(UnitsKept.restartTimer p s).epoch]
  perform s p k args _ _ h := le_trans h (epoch_le_perform p k args s)

theorem epoch_le_headerRead (bk : Bank) (page : List Byte) (s : State) : s.epoch ≤ (s.headerRead bk page).epoch := by
  have hsurvey : (s.survey bk page).epoch = s.epoch := rfl
  obtain ⟨-, h⟩ | ⟨-, -, h⟩ | ⟨-, -, h⟩ := headerRead_cases bk page s
  · rw [h]; exact le_refl _
  · rw [h]
    obtain hc | ⟨bk', q, hc⟩ := chooseAndErase_cases (s.survey bk page)
    · rw [hc, (endSave_fields _ _).2.1, hsurvey]
    · rw [hc]; exact le_refl _
  · rw [h, ← hsurvey]; exact (selectBank_moves _).epoch

theorem epoch_le_pageLoaded {page : List Byte} {e : Nat} (hop : s.flash.op = none) (htarget : s.snap.targetEpoch = some e)
    (hlt : s.epoch < e) : s.epoch ≤ (s.pageLoaded page).epoch := (pageLoaded_moves htarget hlt hop).epoch

theorem FlashMove.epoch_le (hm : FlashMove s t) (h : s.ModesKept) : s.epoch ≤ t.epoch := by
  have hsave : ∀ k u, u.epoch = s.epoch → s.epoch ≤ (State.endSave k u).epoch := by
    intro k u he
    rw [(endSave_fields k u).2.1, he]
  cases hm with
  | none => exact le_refl _
  | identified => exact le_refl _
  | absentSave k => exact hsave k s rfl
  | absentRestore => exact le_refl _
  | read bk page changes ho =>
    unfold State.readCompletes
    dsimp only
    split
    · refine le_trans ?_ (epoch_le_headerRead _ _ _)
      exact le_refl _
    · next hp =>
      obtain ⟨page, rfl⟩ := Nat.exists_eq_succ_of_ne_zero hp
      have hwait := h.wait
      unfold State.waitKept at hwait
      rw [ho] at hwait
      obtain ⟨-, -, e, htarget, hlt⟩ := hwait
      refine le_trans ?_ (epoch_le_pageLoaded (e := e) ?_ ?_ ?_)
      · exact le_refl _
      · rfl
      · exact htarget
      · exact hlt
  | erased => rw [(nextProfilePage_moves 1 _).epoch]; exact le_refl _
  | erasedLate => exact le_refl _
  | failed k => exact hsave k s rfl
  | programmed =>
    unfold State.pageMatched
    split
    · rw [(profilePageMatched_moves _ _).epoch]; exact le_refl _
    · rw [(recordPageMatched_moves _ _).epoch]; exact le_refl _
    all_goals exact le_refl _
  | mismatched => exact hsave _ _ rfl
  | programmedLate => exact le_refl _

/-- Settles O55: a switch raises the epoch by one, a restore to its target epoch, which is above it, and no other event but a hard
reset sets it. -/
theorem epochNeverFalls : Obligations.EpochNeverFalls := by
  intro c s t hm he hreset
  have hport := epoch_le_commands s.epoch
  cases c
  case hardReset => exact absurd rfl (hreset _ _)
  case commandIn p w => exact Host.Outcome.next.inj he ▸ hport.writeCommandIn p w (le_refl _)
  case responseOut p => exact Host.Outcome.next.inj he ▸ hport.readResponse p (le_refl _)
  case portStatus p w => exact Host.Outcome.next.inj he ▸ hport.takeAll p (hport.putPort _ _ _ (le_refl _))
  case events => exact Host.Outcome.next.inj he ▸ le_refl _
  case eventMask p w => exact Host.Outcome.next.inj he ▸ (by cases p <;> exact le_refl _)
  case registerWriteIgnored => exact Host.Outcome.next.inj he ▸ le_refl _
  case query => exact hport.query (le_refl _) he
  case idleTimerExpiry =>
    obtain ⟨-, rfl⟩ | ⟨x, -, rfl⟩ := idleTimer_cases he
    · exact le_refl _
    · exact le_of_eq (UnitsKept.abandonSession s).epoch.symm
  case markerArrival =>
    obtain ⟨m, rfl | ⟨st, hst, hlt, rfl⟩⟩ := markerArrival_cases he
    · exact le_refl _
    · rw [(switchSet_fields _ _ _).1, State.setMarkerCount_epoch]
      exact Nat.le_succ _
  all_goals first
    | exact le_of_eq (storesOnly_of_linkEvent rfl he).epoch.symm
    | exact (flashMove_of_exec rfl he).epoch_le hm
    | exact Host.Outcome.next.inj he ▸ hport.deliver _ _ _ _ (le_refl _)

end
end Sys2Proof.Machine
end

section
/-! PROOF. The bounds of the link controllers (O52), event by event. -/

namespace Sys2Proof.Machine
namespace State.LinksKept

variable {s t : State}

/-! ### The stores at edits, the switch and saves -/

theorem setSnap (x : Snapshot) (h : s.LinksKept) : (s.setSnap x).LinksKept := h

theorem freeDraft (r : Nat) (h : s.LinksKept) : (s.freeDraft r).LinksKept := by
  unfold State.freeDraft
  split
  · exact h
  · exact State.LinksKept.freeCopy _ (h.of_links rfl)

theorem putItems (l : List ChangeItem) (h : s.LinksKept) : (s.putItems l).LinksKept := by
  unfold State.putItems
  split
  · exact h
  · exact h.of_links rfl

theorem restartTimer (p : Port) (h : s.LinksKept) : (s.restartTimer p).LinksKept := by
  unfold State.restartTimer
  split
  · exact h
  · split
    · exact h.of_links rfl
    · exact h

theorem checkLow (h : s.LinksKept) : s.checkLow.LinksKept := by
  unfold State.checkLow
  split
  · exact h.of_links rfl
  · exact h

theorem addRef (k : Option Nat) (h : s.LinksKept) : (s.addRef k).LinksKept := by
  cases k <;> exact h

theorem dropRef (k : Option Nat) (h : s.LinksKept) : (s.dropRef k).LinksKept := by
  cases k <;> exact h

theorem checkArm (h : s.LinksKept) : s.checkArm.LinksKept := by
  unfold State.checkArm
  split
  · exact h.of_links rfl
  · exact h

theorem allocCopy (c : Nat) (x : Copy) (h : s.LinksKept) : (s.allocCopy c x).LinksKept :=
  checkLow (State.LinksKept.of_links (s := (s.putCopy c x).addRef x.profile) (addRef _ (h : (s.putCopy c x).LinksKept)) rfl)

theorem rewriteBody (c : Nat) (b : Body) (h : s.LinksKept) : (s.rewriteBody c b).LinksKept := by
  unfold State.rewriteBody
  dsimp only
  split
  · exact h
  · exact addRef _ (dropRef _ h)

theorem guardEdit (p : Port) {act : State → State × Reply} (ha : (act s).1.LinksKept) (h : s.LinksKept) :
    (s.guardEdit p act).1.LinksKept := by
  obtain he | ⟨-, he, -⟩ := guardEdit_cases p act s
  · rwa [he]
  · rwa [he]

theorem insertSpan (sp : Span) (b : Body) (h : s.LinksKept) : (s.insertSpan sp b).1.LinksKept := by
  unfold State.insertSpan
  split
  · exact h
  · split
    · exact h
    · split
      · exact h
      · exact putItems _ (allocCopy _ _ (h : (s.claimRow _ _ _).LinksKept))

theorem amendRow (r : Nat) (sel : Bool) (f : Body → Body) (h : s.LinksKept) : (s.amendRow r sel f).1.LinksKept := by
  unfold State.amendRow
  dsimp only
  split
  · exact h
  · split
    · exact rewriteBody _ _ h
    · split
      · exact h
      · split
        · exact h
        · exact putItems _ (allocCopy _ _ (h : (s.putRow r _).LinksKept))

theorem retireEffect (r : Nat) (h : s.LinksKept) : (s.retireEffect r).LinksKept := by
  unfold State.retireEffect
  split
  · exact putItems _ (freeRow r (freeDraft r h))
  · exact putItems _ (freeDraft r h)
  · exact putItems _ h

theorem retireRow (r : Nat) (h : s.LinksKept) : (s.retireRow r).1.LinksKept := by
  unfold State.retireRow
  split
  · exact h
  · split
    · exact h
    · exact retireEffect r h

theorem retireGroup (g : Nat) (h : s.LinksKept) : (s.retireGroup g).1.LinksKept := by
  unfold State.retireGroup
  dsimp only
  split
  · exact h
  · exact each (fun n _ h => retireEffect n h) _ h

theorem defineProfile (k : Nat) (pts : List Point) (h : s.LinksKept) : (s.defineProfile k pts).1.LinksKept := by
  unfold State.defineProfile
  split
  · exact h
  · exact h
  · split
    · exact h
    · split
      · exact h
      · exact putItems _ (h : (s.putSlot k _).LinksKept)
  · split <;> exact h

theorem dropProfile (k : Nat) (h : s.LinksKept) : (s.dropProfile k).1.LinksKept := by
  unfold State.dropProfile
  split
  · exact h
  · split
    · exact h
    · exact h
    · split
      · exact h
      · exact putItems _ (h : (s.putSlot k _).LinksKept)
    · split <;> exact h

theorem abandonSession (h : s.LinksKept) : s.abandonSession.LinksKept := by
  refine State.LinksKept.fold (fun s i h => ?_) s.items (State.LinksKept.fold (fun s i h => ?_) s.items h)
  · cases i <;> exact h
  · cases i with
    | insert r => exact freeRow r (freeDraft r h)
    | amend r => exact freeDraft r h
    | retire r => exact h
    | defineProfile k => exact h

theorem sealWith (pol : Policy) (h : s.LinksKept) : (s.sealWith pol).1.LinksKept := by
  unfold State.sealWith
  split
  · exact h
  · split
    · exact h
    · exact State.LinksKept.fold (fun s i h => by cases i <;> exact h) s.items h

theorem supersede (e c : Nat) (h : s.LinksKept) : (s.supersede e c).LinksKept := by
  unfold State.supersede
  dsimp only
  split
  · exact freeCopy _ h
  · exact h

theorem buryRow (e r : Nat) (h : s.LinksKept) : (s.buryRow e r).LinksKept := by
  unfold State.buryRow
  split
  · dsimp only
    split
    · exact emptyWatchSet r h
    · exact freeRow r (emptyWatchSet r h)
  · exact h

theorem switchStores (e : Nat) (items : List ChangeItem) (h : s.LinksKept) : (s.switchStores e items).LinksKept := by
  unfold State.switchStores
  dsimp only
  refine each (fun r _ h => buryRow e r h) _ ?_
  refine each (fun c _ h => supersede e c h) _ ?_
  exact each (f := State.switchRow e) (fun _ _ h => h) _ h

theorem raiseOverflows (fl : List Nat) (h : s.LinksKept) : (s.raiseOverflows fl).LinksKept := by
  match fl with
  | [] => exact h
  | [_] => exact h
  | _ :: _ :: _ => exact h

theorem switchSet (trig : Trigger) (st : StagedSet) (h : s.LinksKept) : (s.switchSet trig st).LinksKept := by
  have hstores : ((s.setEpoch (s.epoch + 1)).switchStores (s.epoch + 1) st.items).LinksKept :=
    switchStores _ _ (h.of_links rfl)
  unfold State.switchSet
  dsimp only
  generalize (s.setEpoch (s.epoch + 1)).switchStores (s.epoch + 1) st.items = u at *
  exact kickAll (raise _ (raiseOverflows _ (takePostings _ _ (hstores.of_links rfl))))

theorem withdrawRow (r : Nat) (h : s.LinksKept) : (s.withdrawRow r).LinksKept := by
  unfold State.withdrawRow
  split
  · split
    · exact freeRow r (freeCopy _ (h : (s.putRow r _).LinksKept))
    · exact freeRow r h
  · split
    · exact freeCopy _ (h : (s.putRow r _).LinksKept)
    · exact h
  all_goals exact h

theorem withdrawSet (st : StagedSet) (h : s.LinksKept) : (s.withdrawSet st).LinksKept :=
  State.LinksKept.fold (fun s i h => by cases i <;> exact h) st.items (each (fun r _ h => withdrawRow r h) _ h)

theorem clearListedPins (l : List SaveItem) (h : s.LinksKept) : (s.clearListedPins l).LinksKept :=
  each (fun c _ h => clearSnapPin c h) _ h

theorem endSave (k : FailKind) (h : s.LinksKept) : (s.endSave k).LinksKept :=
  (clearListedPins s.snap.saveList h).of_links rfl

theorem beginSave (h : s.LinksKept) : s.beginSave.LinksKept :=
  (each (f := State.setSnapPin) (fun _ _ h => h) (s.saveItems.map SaveItem.copy) h).of_links rfl

theorem emptyStores (h : s.LinksKept) : s.emptyStores.LinksKept := by
  refine h.of_links ?_
  unfold State.emptyStores State.checkArm
  split <;> rfl

theorem clearStores (h : s.LinksKept) : s.clearStores.LinksKept := by
  have hempty := emptyStores h
  unfold State.clearStores
  generalize s.emptyStores = u at *
  exact kickAll (clearLinks (hempty : ((u.setLowArmed true).setStaged none).LinksKept))

theorem takeClearAll (h : s.LinksKept) : s.takeClearAll.1.LinksKept := by
  unfold State.takeClearAll
  split
  · exact h
  · dsimp only
    exact clearStores h

theorem takeSwitch (h : s.LinksKept) : s.takeSwitch.1.LinksKept := by
  unfold State.takeSwitch
  split
  · exact h
  · split
    · exact h
    · split
      · exact h
      · dsimp only
        exact switchSet _ _ h

theorem linkStatus (n : Nat) (clear : Bool) (h : s.LinksKept) : (s.linkStatus n clear).1.LinksKept := by
  unfold State.linkStatus
  cases clear
  · exact h
  · have hl := h n
    exact h.put n ⟨hl.prompts, hl.requests, hl.notices, hl.badCount, hl.resyncNumber, hl.watchCount, hl.sends, hl.sending, hl.down⟩

theorem perform (p : Port) (k : CmdKind) (args : List Word) (h : s.LinksKept) : (s.perform p k args).1.LinksKept := by
  cases k
  case openEdit =>
    show (s.takeOpenEdit p).1.LinksKept
    unfold State.takeOpenEdit
    split
    · exact h
    · split
      · exact h
      · split <;> exact h
  case insert => exact guardEdit p (insertSpan _ _ h) h
  case amend => exact guardEdit p (amendRow _ _ _ h) h
  case retire => exact guardEdit p (retireRow _ h) h
  case retireGroup => exact guardEdit p (retireGroup _ h) h
  case defineProfile => exact guardEdit p (defineProfile _ _ h) h
  case dropProfile => exact guardEdit p (dropProfile _ h) h
  case sealSession => exact guardEdit p (sealWith _ h) h
  case abandon => exact guardEdit p (abandonSession h) h
  case touch => exact guardEdit p h h
  case linkStatus => exact linkStatus _ _ h
  case switch => exact takeSwitch h
  case withdraw =>
    show s.takeWithdraw.1.LinksKept
    unfold State.takeWithdraw
    split
    · exact h
    · split
      · exact h
      · split
        · exact h
        · exact withdrawSet _ h
  case save =>
    show s.takeSave.1.LinksKept
    unfold State.takeSave
    split
    · exact h
    · split
      · exact h
      · exact beginSave h
  case abortSave =>
    show s.takeAbortSave.1.LinksKept
    unfold State.takeAbortSave
    split
    · exact h
    · exact h
    all_goals exact endSave _ h
  case restore =>
    show s.takeRestore.1.LinksKept
    unfold State.takeRestore
    split
    · exact h
    · split
      · exact h
      · split <;> exact h
  case startEmpty =>
    show s.takeStartEmpty.1.LinksKept
    unfold State.takeStartEmpty
    split <;> exact h
  case hold | resume =>
    show (s.takeGate _).1.LinksKept
    unfold State.takeGate
    split <;> exact h
  case clearAll => exact takeClearAll h
  case resetLink => exact resetLinkDown _ h
  case setParam =>
    show (if _ then _ else _ : State).LinksKept
    split
    · exact checkArm (h.of_links rfl)
    · exact h
  all_goals exact h

/-! ### Restoring -/

theorem restoreSucceeds (bk : Bank) (b : BankHeader) (h : s.LinksKept) : (s.restoreSucceeds bk b).LinksKept := by
  have hresync : ((s.setEpoch (orZero s.snap.targetEpoch)).setOpState .serving).resyncUpLinks.LinksKept := resyncUpLinks h
  unfold State.restoreSucceeds
  dsimp only
  generalize ((s.setEpoch (orZero s.snap.targetEpoch)).setOpState .serving).resyncUpLinks = u at *
  exact kickAll (raise .restoreDone hresync)

theorem tryBank_of {fuel : Nat} (hdiscard : ∀ s : State, s.LinksKept → (s.afterDiscard fuel).LinksKept) (bk : Bank)
    (b : BankHeader) (h : s.LinksKept) : (State.tryBank fuel bk b s).LinksKept := by
  have hbegun : (s.beginLoading bk b).LinksKept := by
    refine h.of_links ?_
    unfold State.beginLoading
    dsimp only
    split <;> rfl
  rw [tryBank_eq]
  split
  · exact hbegun
  · split
    · exact restoreSucceeds _ _ hbegun
    · exact hdiscard _ (emptyStores hbegun)

theorem afterDiscard (fuel : Nat) (h : s.LinksKept) : (s.afterDiscard fuel).LinksKept := by
  induction fuel generalizing s with
  | zero => exact h
  | succ fuel ih =>
    unfold State.afterDiscard
    cases s.snap.untried with
    | none => exact h
    | some b => exact tryBank_of (fun _ h => ih h) b.1 b.2 h

theorem selectBank (h : s.LinksKept) : s.selectBank.LinksKept := by
  unfold State.selectBank
  split
  · exact h
  · exact tryBank_of (fun _ h => afterDiscard _ h) _ _ h

theorem loadFails (h : s.LinksKept) : s.loadFails.LinksKept := by
  rw [loadFails_eq]
  exact afterDiscard _ (emptyStores h)

theorem loadRecord {e : Nat} {entry : List Byte} (hl : s.loadRecord e entry = some t) (h : s.LinksKept) : t.LinksKept := by
  unfold State.loadRecord at hl
  dsimp only at hl
  split at hl
  · split at hl
    · exact Option.some.inj hl ▸ allocCopy _ _ (h : (s.claimRow _ _ _).LinksKept)
    · cases hl
  all_goals cases hl

theorem loadProfile {e : Nat} {entry : List Byte} (hl : s.loadProfile e entry = some t) (h : s.LinksKept) : t.LinksKept := by
  unfold State.loadProfile at hl
  dsimp only at hl
  split at hl
  · exact Option.some.inj hl ▸ h
  · cases hl

theorem loadEntries {load : List Byte → State → Option State}
    (hload : ∀ {entry s t}, load entry s = some t → State.LinksKept s → t.LinksKept) (l : List (List Byte)) (h : s.LinksKept) :
    (State.loadEntries load l s).1.LinksKept := by
  induction l generalizing s with
  | nil => exact h
  | cons en ens ih =>
    unfold State.loadEntries
    split
    · next ht => exact ih (hload ht (h : (s.extendCheck en).LinksKept))
    · exact h

theorem pageLoaded (page : List Byte) (h : s.LinksKept) : (s.pageLoaded page).LinksKept := by
  unfold State.pageLoaded
  split
  · exact h
  · next bk b _ =>
    have hload : (s.loadPage b (orZero s.snap.readPos) page).1.LinksKept := by
      unfold State.loadPage
      dsimp only
      split
      · exact loadEntries loadProfile _ h
      · exact loadEntries loadRecord _ h
    dsimp only
    generalize s.loadPage b (orZero s.snap.readPos) page = r at *
    split
    · exact loadFails hload
    · split
      · exact hload
      · split
        · exact restoreSucceeds _ _ (hload.of_links rfl)
        · exact loadFails (hload.of_links rfl)

theorem nextProfilePage (page : Nat) (h : s.LinksKept) : (s.nextProfilePage page).LinksKept := by
  refine h.of_links ?_
  unfold State.nextProfilePage State.nextRecordPage
  split
  · split <;> rfl
  · rfl

theorem nextRecordPage (page : Nat) (h : s.LinksKept) : (s.nextRecordPage page).LinksKept := by
  refine h.of_links ?_
  unfold State.nextRecordPage
  split <;> rfl

theorem pageMatched (page : Nat) (h : s.LinksKept) : (s.pageMatched page).LinksKept := by
  unfold State.pageMatched
  split
  · exact nextProfilePage _ (h : (s.extendCheck _).LinksKept)
  · exact nextRecordPage _ (setSnap _ (clearListedPins _ (h : (s.extendCheck _).LinksKept)))
  all_goals exact h

theorem flashMove (hm : FlashMove s t) (h : s.LinksKept) : t.LinksKept := by
  cases hm with
  | none => exact h
  | identified => exact h
  | absentSave k => exact endSave k h
  | absentRestore => exact h
  | read bk page changes =>
    unfold State.readCompletes
    dsimp only
    split
    · generalize hu : (s.setFlash _).setFlash _ = u
      have hkept : u.LinksKept := hu ▸ h
      obtain ⟨-, he⟩ | ⟨-, -, he⟩ | ⟨-, -, he⟩ := headerRead_cases bk (readPage (s.setFlash _).flash.cells bk page) u
      · rw [he]; exact hkept
      · rw [he]
        obtain hc | ⟨bk', q, hc⟩ := chooseAndErase_cases (u.survey bk (readPage (s.setFlash _).flash.cells bk page))
        · rw [hc]; exact endSave _ hkept
        · rw [hc]; exact hkept
      · rw [he]; exact selectBank hkept
    · exact pageLoaded _ h
  | erased => exact nextProfilePage 1 h
  | erasedLate => exact h
  | failed k => exact endSave k h
  | programmed => exact pageMatched _ h
  | mismatched => exact endSave _ h
  | programmedLate => exact h

/-! ### Events of links and of the lookup engine -/

/-- At the end of a frame only the controller with its transmitter idle has to meet the bounds. -/
theorem ended (n : Nat) {l : Link} (h : s.LinksKept) (hl : Link.Kept { l with tx := none }) :
    ((s.putLink n l).frameEnds n).LinksKept := by
  have hput := h.put n hl
  unfold State.frameEnds
  rw [State.link_putLink]
  refine kick n ?_
  intro k
  have hk := hput k
  by_cases hkn : k = n <;> simp_all

/-- The link that offers a request holds one, so it is not DOWN (R127). -/
theorem offered_up {n : Nat} {q : Request} (h : s.LinksKept) (hsel : s.selectedLink = some (n, q)) : (s.link n).state ≠ .down := by
  intro hdown
  unfold State.selectedLink at hsel
  split at hsel
  · cases hsel
  · next k _ =>
    split at hsel
    · obtain ⟨q', hq, he⟩ := Option.map_eq_some_iff.1 hsel
      obtain rfl := congrArg Prod.fst he
      have hempty := ((h k).down hdown).1
      rw [State.linkOffer, hempty] at hq
      cases hq
    · cases hsel

theorem takeWatch (n : Nat) (tag : Tag) (ch : Half) (h : s.LinksKept) (hup : (s.link n).state ≠ .down) :
    (s.takeWatch n tag ch).LinksKept := by
  unfold State.takeWatch
  split
  · exact takeRequest _ _ h
  · next r hr =>
    refine takeRequest _ _ (addWatch n r h hup ?_)
    unfold State.checkWatch at hr
    split at hr
    · cases hr
    · split at hr
      · cases hr
      · split at hr
        · cases hr
        · split at hr
          · cases hr
          · next hlim =>
            obtain rfl := Sum.inr.inj hr
            rw [not_and_or, Bool.not_eq_false, Nat.not_le] at hlim
            exact hlim

theorem linkEvent {i : Instr} (hi : Instr.isLinkEvent i = true) (h : s.LinksKept) (he : exec i s = .next t) : t.LinksKept := by
  have hcount : ∀ {l m : Link}, l.Kept → l.sendCount < Config.sendLimit → (∃ i, m = { l with
      sendCount := l.sendCount + 1, timer := .running i, tx := none }) → m.Kept := by
    rintro l m hl hlt ⟨i, rfl⟩
    exact ⟨hl.prompts, hl.requests, hl.notices, hl.badCount, hl.resyncNumber, hl.watchCount, hlt, (fun _ hf => nomatch hf), hl.down⟩
  cases i
  case linkWord n w =>
    obtain rfl := Host.Outcome.next.inj he
    split
    · exact receiveWord w n h
    · exact h
  case receiverLockGained n =>
    obtain rfl := Host.Outcome.next.inj he
    split
    · exact h
    · have hl := h n
      exact h.put n ⟨hl.prompts, hl.requests, hl.notices, hl.badCount, hl.resyncNumber, hl.watchCount, hl.sends, hl.sending, hl.down⟩
  case receiverLockLost n =>
    obtain rfl := Host.Outcome.next.inj he
    split
    · exact loseLock n h
    · exact h
  case hello | fetch | fetchProfile | watch | unwatch | ackNotice | ackResync =>
    exact Host.Outcome.next.inj he ▸ receiveFrame _ _ _ h
  case fetchTaken | fetchProfileTaken =>
    obtain rfl := Host.Outcome.next.inj he
    split
    · split
      all_goals first
        | exact takeRequest _ _ h
        | exact h
    · exact h
  case watchTaken =>
    obtain rfl := Host.Outcome.next.inj he
    split
    · next hsel =>
      split
      · exact takeWatch _ _ _ h (h.offered_up hsel)
      all_goals exact h
    · exact h
  case unwatchTaken =>
    obtain rfl := Host.Outcome.next.inj he
    split
    · split
      · unfold State.takeUnwatch
        split
        · exact takeRequest _ _ h
        · exact takeRequest _ _ (removeWatch _ _ h)
      all_goals exact h
    · exact h
  case welcomeEnd n =>
    obtain rfl := Host.Outcome.next.inj he
    split
    · have hl := h n
      refine frameEnds n (h.put n ⟨hl.prompts, hl.requests, hl.notices, hl.badCount, hl.resyncNumber, hl.watchCount, hl.sends,
        hl.sending, fun hd => ?_⟩)
      obtain ⟨h1, h2, h3, h4, -⟩ := hl.down hd
      exact ⟨h1, h2, h3, h4, rfl⟩
    · exact h
  case answerEnd n =>
    obtain rfl := Host.Outcome.next.inj he
    split
    · split
      · exact answerEnds _ _ h
      · exact h
    · exact h
  case promptRefusalEnd n =>
    obtain rfl := Host.Outcome.next.inj he
    split
    · have hl := h n
      refine frameEnds n (h.put n ⟨?_, hl.requests, hl.notices, hl.badCount, hl.resyncNumber, hl.watchCount, hl.sends,
        hl.sending, hl.down⟩)
      exact le_trans (by simp) hl.prompts
    · exact h
  case noticeEnd n =>
    obtain rfl := Host.Outcome.next.inj he
    split
    · next x hx =>
      obtain ⟨f, hf, hfx⟩ := Option.map_eq_some_iff.1 hx
      have hlt := (h n).sending f hf (by rw [hfx]; rfl)
      refine State.LinksKept.ended n h ?_
      unfold Link.noticeEnded
      split
      · exact hcount (h n) hlt ⟨_, rfl⟩
      · exact (h n).idle
    · exact h
  case resyncEnd n =>
    obtain rfl := Host.Outcome.next.inj he
    split
    · next k _ _ hx =>
      obtain ⟨f, hf, hfx⟩ := Option.map_eq_some_iff.1 hx
      have hlt := (h n).sending f hf (by rw [hfx]; rfl)
      refine State.LinksKept.ended n h ?_
      unfold Link.resyncEnded
      split
      · exact hcount (h n) hlt ⟨_, rfl⟩
      · exact (h n).idle
    · exact h
  case resendTimerExpiry n =>
    obtain rfl := Host.Outcome.next.inj he
    split
    · exact timerRunsOut n h
    all_goals exact h
  all_goals cases hi

end State.LinksKept

/-- A word time moves a frame in progress on by a word, and nothing else. -/
theorem Link.Kept.advance {l : Link} (h : l.Kept) : l.advance.Kept := by
  refine ⟨h.prompts, h.requests, h.notices, h.badCount, h.resyncNumber, h.watchCount, h.sends, fun f hf hc => ?_, h.down⟩
  obtain ⟨g, hg, rfl⟩ := Option.map_eq_some_iff.1 hf
  exact h.sending g hg hc

@[simp] theorem State.link_wordTime (s : State) (n : Nat) : s.wordTime.link n = (s.link n).advance :=
  Table.read_mapValues Link.reset Link.advance rfl _ _

/-- Every event and every command keeps the bounds of the link controllers. -/
theorem links_kept : KeptByEvents State.LinksKept where
  putPort s p x h := by cases p <;> exact h
  eventSet _ _ h := h
  setEngine _ _ h := h
  restartTimer _ p h := State.LinksKept.restartTimer p h
  perform _ p k args _ _ h := State.LinksKept.perform p k args h
  queue _ _ h := h
  mask s p m h := by cases p <;> exact h
  wordTime s h n := by
    rw [State.link_wordTime]
    exact (h n).advance
  hardReset s t strap _ h he := by
    obtain rfl := Host.Outcome.next.inj he
    cases strap <;> exact fun n => Link.Kept.reset
  linkEvent _ _ _ hi h he := State.LinksKept.linkEvent hi h he
  idleTimer s t h he := by
    obtain ⟨-, rfl⟩ | ⟨x, -, rfl⟩ := idleTimer_cases he
    · exact h
    · exact State.LinksKept.raise _ (State.LinksKept.abandonSession h)
  marker s t h he := by
    obtain ⟨m, rfl | ⟨st, -, -, rfl⟩⟩ := markerArrival_cases he
    · exact h
    · exact State.LinksKept.switchSet _ _ h
  flashEvent _ _ _ hi h he := State.LinksKept.flashMove (flashMove_of_exec hi he) h

/-- Settles O52: each event keeps every link controller within its bounds. -/
theorem linksStayWithinBounds : Obligations.LinksStayWithinBounds := fun _ _ h he => links_kept.step h he

end Sys2Proof.Machine
end

section
/-! PROOF. The bodies and point lists that bound the responses, event by event (O54, R25, R47). -/

namespace Sys2Proof.Machine
namespace State.BodiesKept

variable {s t : State}

/-! ### Writes of the stores -/

theorem of_stores (h : s.BodiesKept) (hc : t.copies = s.copies) (hs : t.slots = s.slots) : t.BodiesKept := by
  obtain ⟨hb, hp⟩ := h
  refine ⟨fun c b => ?_, fun k ps => ?_⟩
  · unfold State.copy; rw [hc]; exact hb c b
  · unfold State.slot; rw [hs]; exact hp k ps

/-- A copy written keeps its body, gives it up, or takes one within its ranges. -/
theorem putCopy (c : Nat) {x : Copy} (h : s.BodiesKept)
    (hx : x.body = none ∨ x.body = (s.copy c).body ∨ ∃ b, x.body = some b ∧ b.inRange = true) : (s.putCopy c x).BodiesKept := by
  refine ⟨fun k b hk => ?_, h.points⟩
  rw [State.copy_putCopy] at hk
  split at hk
  · obtain hn | hs | ⟨b', hb', hr⟩ := hx
    · rw [hn] at hk; cases hk
    · rw [hs] at hk; exact h.bodies _ _ hk
    · obtain rfl := Option.some.inj (hb'.symm.trans hk)
      exact hr
  · exact h.bodies _ _ hk

/-- A slot written keeps its points, gives them up, or takes a valid list. -/
theorem putSlot (k : Nat) {x : Slot} (h : s.BodiesKept)
    (hx : x.points = none ∨ x.points = (s.slot k).points ∨ ∃ ps, x.points = some ps ∧ pointsValid ps = true) :
    (s.putSlot k x).BodiesKept := by
  refine ⟨h.bodies, fun j ps hk => ?_⟩
  rw [State.slot_putSlot] at hk
  split at hk
  · obtain hn | hs | ⟨qs, hqs, hv⟩ := hx
    · rw [hn] at hk; cases hk
    · rw [hs] at hk; exact h.points _ _ hk
    · obtain rfl := Option.some.inj (hqs.symm.trans hk)
      exact hv
  · exact h.points _ _ hk

theorem mapCopies {f : Copy → Copy} (hf : ∀ x, (f x).body = x.body) (hd : f Copy.free = Copy.free) (h : s.BodiesKept) :
    (s.setCopies (Table.mapValues f s.copies)).BodiesKept := by
  refine ⟨fun c b hc => h.bodies c b ?_, h.points⟩
  have hread : (s.setCopies (Table.mapValues f s.copies)).copy c = f (s.copy c) := Table.read_mapValues _ _ hd _ _
  rwa [hread, hf] at hc

theorem mapSlots {f : Slot → Slot} (hf : ∀ x, (f x).points = x.points) (hd : f Slot.free = Slot.free) (h : s.BodiesKept) :
    (s.setSlots (Table.mapValues f s.slots)).BodiesKept := by
  refine ⟨h.bodies, fun k ps hk => h.points k ps ?_⟩
  have hread : (s.setSlots (Table.mapValues f s.slots)).slot k = f (s.slot k) := Table.read_mapValues _ _ hd _ _
  rwa [hread, hf] at hk

theorem noSlots (h : s.BodiesKept) : (s.setSlots []).BodiesKept := ⟨h.bodies, fun _ _ hk => by cases hk⟩

theorem each {f : Nat → State → State} (hf : ∀ n s, State.BodiesKept s → (f n s).BodiesKept) (l : List Nat) (h : s.BodiesKept) :
    (State.forEach f l s).BodiesKept := by
  induction l generalizing s with
  | nil => exact h
  | cons n ns ih => exact ih (hf n s h)

theorem fold {β : Type} {f : State → β → State} (hf : ∀ s b, State.BodiesKept s → (f s b).BodiesKept) (l : List β)
    (h : s.BodiesKept) : (l.foldl f s).BodiesKept := by
  induction l generalizing s with
  | nil => exact h
  | cons x xs ih => exact ih (hf s x h)

theorem setSnap (x : Snapshot) (h : s.BodiesKept) : (s.setSnap x).BodiesKept := ⟨h.bodies, h.points⟩
theorem raise (o : Occurrence) (h : s.BodiesKept) : (s.raise o).BodiesKept := ⟨h.bodies, h.points⟩
theorem putLink (n : Nat) (x : Link) (h : s.BodiesKept) : (s.putLink n x).BodiesKept := ⟨h.bodies, h.points⟩
theorem putRow (n : Nat) (x : Row) (h : s.BodiesKept) : (s.putRow n x).BodiesKept := ⟨h.bodies, h.points⟩
theorem setFlash (x : Flash) (h : s.BodiesKept) : (s.setFlash x).BodiesKept := ⟨h.bodies, h.points⟩

/-! ### Rows, copies and slots -/

theorem addRef (k : Option Nat) (h : s.BodiesKept) : (s.addRef k).BodiesKept := by
  cases k with
  | none => exact h
  | some k => exact h.putSlot k (.inr (.inl rfl))

theorem dropRef (k : Option Nat) (h : s.BodiesKept) : (s.dropRef k).BodiesKept := by
  cases k with
  | none => exact h
  | some k => exact h.putSlot k (.inr (.inl rfl))

theorem checkLow (h : s.BodiesKept) : s.checkLow.BodiesKept := by
  unfold State.checkLow
  split
  · exact h.of_stores rfl rfl
  · exact h

theorem checkArm (h : s.BodiesKept) : s.checkArm.BodiesKept := by
  unfold State.checkArm
  split
  · exact h.of_stores rfl rfl
  · exact h

theorem allocCopy (c : Nat) {x : Copy} (h : s.BodiesKept) (hx : x.body = none ∨ ∃ b, x.body = some b ∧ b.inRange = true) :
    (s.allocCopy c x).BodiesKept := by
  have hput : ((s.putCopy c x).addRef x.profile).BodiesKept := addRef _ (h.putCopy c (hx.imp_right .inr))
  exact checkLow (hput.of_stores rfl rfl)

theorem freeCopy (c : Nat) (h : s.BodiesKept) : (s.freeCopy c).BodiesKept := by
  have hput : ((s.putCopy c Copy.free).dropRef (s.copy c).profile).BodiesKept := dropRef _ (h.putCopy c (.inl rfl))
  exact checkArm (hput.of_stores rfl rfl)

theorem rewriteBody (c : Nat) {b : Body} (h : s.BodiesKept) (hb : b.inRange = true) : (s.rewriteBody c b).BodiesKept := by
  have hput : (s.putCopy c { s.copy c with body := some b }).BodiesKept := h.putCopy c (.inr (.inr ⟨b, rfl, hb⟩))
  unfold State.rewriteBody
  dsimp only
  split
  · exact hput
  · exact addRef _ (dropRef _ hput)

theorem emptyWatchSet (r : Nat) (h : s.BodiesKept) : (s.emptyWatchSet r).BodiesKept :=
  each (fun _ _ h => putLink _ _ h) _ (putRow _ _ h)

theorem freeRow (r : Nat) (h : s.BodiesKept) : (s.freeRow r).BodiesKept :=
  (emptyWatchSet r h).of_stores rfl rfl

theorem reapRow (r : Nat) (h : s.BodiesKept) : (s.reapRow r).BodiesKept := by
  unfold State.reapRow
  split
  · exact freeRow r h
  · exact h

theorem settleCopy (c : Nat) (h : s.BodiesKept) : (s.settleCopy c).BodiesKept := by
  unfold State.settleCopy
  split
  · split
    · exact freeCopy c h
    · exact reapRow _ (freeCopy c h)
  · exact h

theorem dropFetchPin (c : Nat) (h : s.BodiesKept) : (s.dropFetchPin c).BodiesKept :=
  settleCopy c (h.putCopy c (.inr (.inl rfl)))

theorem clearSnapPin (c : Nat) (h : s.BodiesKept) : (s.clearSnapPin c).BodiesKept := by
  unfold State.clearSnapPin
  split
  · exact settleCopy c (h.putCopy c (.inr (.inl rfl)))
  · exact h

/-! ### The session and the staged set -/

theorem putItems (l : List ChangeItem) (h : s.BodiesKept) : (s.putItems l).BodiesKept := by
  unfold State.putItems
  split
  · exact h
  · exact h.of_stores rfl rfl

theorem freeDraft (r : Nat) (h : s.BodiesKept) : (s.freeDraft r).BodiesKept := by
  unfold State.freeDraft
  split
  · exact h
  · exact freeCopy _ (putRow _ _ h)

theorem guardEdit (p : Port) {act : State → State × Reply} (h : s.BodiesKept) (ha : (act s).1.BodiesKept) :
    (s.guardEdit p act).1.BodiesKept := by
  obtain he | ⟨-, he, -⟩ := guardEdit_cases p act s <;> rwa [he]

theorem inRange_of_bodyValid {n : Nat} {b : Body} (h : ¬s.bodyValid n b = false) : b.inRange = true := by
  rw [Bool.not_eq_false, State.bodyValid, Bool.and_eq_true, Bool.and_eq_true] at h
  exact h.1.1

theorem insertSpan (sp : Span) (b : Body) (h : s.BodiesKept) : (s.insertSpan sp b).1.BodiesKept := by
  unfold State.insertSpan
  split
  · exact h
  · next hr =>
    split
    · exact h
    · split
      · exact h
      · refine putItems _ (allocCopy _ (h.of_stores rfl rfl : (s.claimRow _ _ _).BodiesKept) (.inr ⟨b, rfl, ?_⟩))
        unfold State.insertRefusal at hr
        split at hr
        · cases hr
        · split at hr
          · cases hr
          · next hb => exact inRange_of_bodyValid hb

theorem amendRow (r : Nat) (sel : Bool) (f : Body → Body) (h : s.BodiesKept) : (s.amendRow r sel f).1.BodiesKept := by
  unfold State.amendRow
  dsimp only
  split
  · exact h
  · next hr =>
    have hb : (f (s.bodyOf (orZero (s.row r).amendSource))).inRange = true := by
      unfold State.amendRefusal at hr
      split at hr
      · cases hr
      · split at hr
        · cases hr
        · split at hr
          · cases hr
          · next hb => exact inRange_of_bodyValid (not_or.1 hb).2
    split
    · exact rewriteBody _ h hb
    · split
      · exact h
      · split
        · exact h
        · exact putItems _ (allocCopy _ (putRow _ _ h) (.inr ⟨_, rfl, hb⟩))

theorem retireEffect (r : Nat) (h : s.BodiesKept) : (s.retireEffect r).BodiesKept := by
  unfold State.retireEffect
  split
  · exact putItems _ (freeRow r (freeDraft r h))
  · exact putItems _ (freeDraft r h)
  · exact putItems _ h

theorem retireRow (r : Nat) (h : s.BodiesKept) : (s.retireRow r).1.BodiesKept := by
  unfold State.retireRow
  split
  · exact h
  · split
    · exact h
    · exact retireEffect r h

theorem retireGroup (g : Nat) (h : s.BodiesKept) : (s.retireGroup g).1.BodiesKept := by
  unfold State.retireGroup
  dsimp only
  split
  · exact h
  · exact each (fun n _ h => retireEffect n h) _ h

theorem defineProfile (k : Nat) (pts : List Point) (h : s.BodiesKept) : (s.defineProfile k pts).1.BodiesKept := by
  have hput : ∀ x : Slot, x.points = some pts → ¬pointsValid pts = false → (s.putSlot k x).BodiesKept := fun x hx hv =>
    h.putSlot k (.inr (.inr ⟨pts, hx, by rwa [Bool.not_eq_false] at hv⟩))
  unfold State.defineProfile
  split
  · exact h
  · exact h
  · split
    · exact h
    · next hv =>
      split
      · exact h
      · exact putItems _ (hput _ rfl hv)
  · split
    · exact h
    · next hv => exact hput _ rfl hv

theorem dropProfile (k : Nat) (h : s.BodiesKept) : (s.dropProfile k).1.BodiesKept := by
  have hput : (s.putSlot k Slot.free).BodiesKept := h.putSlot k (.inl rfl)
  unfold State.dropProfile
  split
  · exact h
  · split
    · exact h
    · exact h
    · split
      · exact h
      · exact putItems _ hput
    · split
      · exact h
      · exact hput

theorem abandonSession (h : s.BodiesKept) : s.abandonSession.BodiesKept := by
  have hrows : (s.items.foldl State.abandonRow s).BodiesKept := fold (fun s i h => by
    cases i with
    | insert r => exact freeRow r (freeDraft r h)
    | amend r => exact freeDraft r h
    | retire r => exact h
    | defineProfile k => exact h) _ h
  have hslots : (s.items.foldl State.abandonSlot (s.items.foldl State.abandonRow s)).BodiesKept := fold (fun s i h => by
    cases i with
    | defineProfile k => exact h.putSlot k (.inl rfl)
    | _ => exact h) _ hrows
  exact hslots.of_stores rfl rfl

theorem sealWith (pol : Policy) (h : s.BodiesKept) : (s.sealWith pol).1.BodiesKept := by
  unfold State.sealWith
  split
  · exact h
  · split
    · exact h.of_stores rfl rfl
    · have hrows : (s.items.foldl State.sealRow s).BodiesKept := fold (fun s i h => by
        cases i with
        | defineProfile k => exact h
        | _ => exact putRow _ _ h) _ h
      have hcopies := mapCopies (f := Copy.sealed) (fun x => by unfold Copy.sealed; split <;> rfl) rfl hrows
      have hslots := mapSlots (f := Slot.sealed) (fun x => by unfold Slot.sealed; split <;> rfl) rfl hcopies
      exact hslots.of_stores rfl rfl

theorem supersede (e c : Nat) (h : s.BodiesKept) : (s.supersede e c).BodiesKept := by
  have hput : (s.putCopy c { s.copy c with state := .superseded, supersededAt := some e }).BodiesKept :=
    h.putCopy c (.inr (.inl rfl))
  unfold State.supersede
  dsimp only
  split
  · exact freeCopy _ hput
  · exact hput

theorem buryRow (e r : Nat) (h : s.BodiesKept) : (s.buryRow e r).BodiesKept := by
  unfold State.buryRow
  split
  · dsimp only
    split
    · exact putRow _ _ (emptyWatchSet r h)
    · exact freeRow r (emptyWatchSet r h)
  · exact h

theorem switchStores (e : Nat) (items : List ChangeItem) (h : s.BodiesKept) : (s.switchStores e items).BodiesKept := by
  have hcopies := mapCopies (f := Copy.activate e) (fun x => by unfold Copy.activate; split <;> rfl) rfl h
  have hslots := mapSlots (f := Slot.activate e) (fun x => by unfold Slot.activate; split <;> rfl) rfl hcopies
  have hrows := each (f := State.switchRow e) (fun r s h => putRow r _ h) (items.filterMap ChangeItem.row?) hslots
  have hold := each (fun c _ h => supersede e c h) (sortAscending ((items.filterMap ChangeItem.row?).filterMap
    (fun r => (s.row r).supersedes))) hrows
  unfold State.switchStores
  dsimp only
  exact each (fun r _ h => buryRow e r h) _ (hold.of_stores rfl rfl)

theorem takePostings (ps : List (Nat × Notice)) (fl : List Nat) (h : s.BodiesKept) : (State.takePostings ps fl s).1.BodiesKept := by
  induction ps generalizing s fl with
  | nil => exact h
  | cons y ys ih => exact ih _ (putLink _ _ h)

theorem kick (n : Nat) (h : s.BodiesKept) : (s.kick n).BodiesKept := by
  unfold State.kick
  split
  · split
    · exact putLink _ _ h
    · exact h
  · exact h

theorem kickAll (h : s.BodiesKept) : s.kickAll.BodiesKept := each (fun n _ h => kick n h) _ h

theorem switchSet (trig : Trigger) (st : StagedSet) (h : s.BodiesKept) : (s.switchSet trig st).BodiesKept := by
  have hstores : ((s.setEpoch (s.epoch + 1)).switchStores (s.epoch + 1) st.items).BodiesKept :=
    switchStores _ _ (h.of_stores rfl rfl)
  have hover : ∀ (fl : List Nat) (u : State), u.BodiesKept → (u.raiseOverflows fl).BodiesKept
    | [], _, h => h
    | [_], _, h => raise _ h
    | _ :: _ :: _, _, h => h.of_stores rfl rfl
  unfold State.switchSet
  dsimp only
  generalize (s.setEpoch (s.epoch + 1)).switchStores (s.epoch + 1) st.items = u at *
  exact kickAll (raise _ (hover _ _ (takePostings _ _ (hstores.of_stores rfl rfl))))

theorem withdrawRow (r : Nat) (h : s.BodiesKept) : (s.withdrawRow r).BodiesKept := by
  unfold State.withdrawRow
  split
  · split
    · exact freeRow r (freeCopy _ (putRow _ _ h))
    · exact freeRow r h
  · split
    · exact freeCopy _ (putRow _ _ h)
    · exact h
  · exact putRow _ _ h
  all_goals exact h

theorem withdrawSet (st : StagedSet) (h : s.BodiesKept) : (s.withdrawSet st).BodiesKept := by
  have hrows := each (fun r _ h => withdrawRow r h) (st.items.filterMap ChangeItem.row?) h
  have hslots := fold (f := State.withdrawSlot) (fun s i h => by
    cases i with
    | defineProfile k => exact h.putSlot k (.inl rfl)
    | _ => exact h) st.items hrows
  exact hslots.of_stores rfl rfl

/-! ### Saves and restores -/

theorem clearListedPins (l : List SaveItem) (h : s.BodiesKept) : (s.clearListedPins l).BodiesKept :=
  each (fun c _ h => clearSnapPin c h) _ h

theorem endSave (k : FailKind) (h : s.BodiesKept) : (s.endSave k).BodiesKept :=
  raise _ (setFlash _ (setSnap _ (clearListedPins s.snap.saveList h)))

theorem beginSave (h : s.BodiesKept) : s.beginSave.BodiesKept :=
  (each (f := State.setSnapPin) (fun c _ h => h.putCopy c (.inr (.inl rfl))) (s.saveItems.map SaveItem.copy) h).of_stores rfl rfl

theorem emptyStores (s : State) : s.emptyStores.BodiesKept := by
  have hempty : ∀ u : State, u.copies = [] → u.slots = [] → u.BodiesKept := fun u hc hs =>
    ⟨fun c b hb => (by unfold State.copy at hb; rw [hc] at hb; cases hb),
      fun k ps hp => (by unfold State.slot at hp; rw [hs] at hp; cases hp)⟩
  unfold State.emptyStores State.checkArm
  split <;> exact hempty _ rfl rfl

theorem clearStores (s : State) : s.clearStores.BodiesKept := by
  have h := emptyStores s
  unfold State.clearStores
  generalize s.emptyStores = u at *
  exact kickAll (each (f := fun n s => s.putLink n (s.link n).cleared) (fun n s h => putLink n _ h) allLinks
    (h.of_stores rfl rfl : ((u.setLowArmed true).setStaged none).BodiesKept))

theorem resyncUpLinks (h : s.BodiesKept) : s.resyncUpLinks.BodiesKept :=
  each (fun n _ h => by split; exacts [h, putLink _ _ h]) _ h

theorem restoreSucceeds (bk : Bank) (b : BankHeader) (h : s.BodiesKept) : (s.restoreSucceeds bk b).BodiesKept := by
  have hresync : ((s.setEpoch (orZero s.snap.targetEpoch)).setOpState .serving).resyncUpLinks.BodiesKept :=
    resyncUpLinks (h.of_stores rfl rfl)
  unfold State.restoreSucceeds
  dsimp only
  generalize ((s.setEpoch (orZero s.snap.targetEpoch)).setOpState .serving).resyncUpLinks = u at *
  exact kickAll (raise _ (setFlash _ (setSnap _ hresync)))

theorem tryBank_of {fuel : Nat} (hdiscard : ∀ s : State, s.BodiesKept → (s.afterDiscard fuel).BodiesKept) (bk : Bank)
    (b : BankHeader) (h : s.BodiesKept) : (State.tryBank fuel bk b s).BodiesKept := by
  have hbegun : (s.beginLoading bk b).BodiesKept := by
    unfold State.beginLoading
    dsimp only
    split
    · exact setSnap _ h.noSlots
    · exact setSnap _ h
  rw [tryBank_eq]
  split
  · exact hbegun.of_stores rfl rfl
  · split
    · exact restoreSucceeds _ _ hbegun
    · exact hdiscard _ (emptyStores _)

theorem restoreFails (k : FailKind) (h : s.BodiesKept) : (s.restoreFails k).BodiesKept := h.of_stores rfl rfl

theorem afterDiscard (fuel : Nat) (h : s.BodiesKept) : (s.afterDiscard fuel).BodiesKept := by
  induction fuel generalizing s with
  | zero => exact restoreFails _ h
  | succ fuel ih =>
    unfold State.afterDiscard
    cases s.snap.untried with
    | none => exact restoreFails _ h
    | some b => exact tryBank_of (fun _ h => ih h) b.1 b.2 h

theorem selectBank (h : s.BodiesKept) : s.selectBank.BodiesKept := by
  unfold State.selectBank
  split
  · exact restoreFails _ h
  · exact tryBank_of (fun _ h => afterDiscard _ h) _ _ h

theorem loadFails (s : State) : s.loadFails.BodiesKept := by
  rw [loadFails_eq]
  exact afterDiscard _ (emptyStores s)

theorem loadRecord {e : Nat} {entry : List Byte} (hl : s.loadRecord e entry = some t) (h : s.BodiesKept) : t.BodiesKept := by
  unfold State.loadRecord at hl
  dsimp only at hl
  split at hl
  · split at hl
    · next b _ _ _ hok =>
      refine Option.some.inj hl ▸ allocCopy _ (h.of_stores rfl rfl : (s.claimRow _ _ _).BodiesKept) (.inr ⟨b, rfl, ?_⟩)
      exact inRange_of_bodyValid (s := s) (n := (entrySpan entry).count) (by simp [hok.2.2.2.2])
    · cases hl
  all_goals cases hl

theorem loadProfile {e : Nat} {entry : List Byte} (hl : s.loadProfile e entry = some t) (h : s.BodiesKept) : t.BodiesKept := by
  unfold State.loadProfile at hl
  dsimp only at hl
  split at hl
  · next hok => exact Option.some.inj hl ▸ h.putSlot _ (.inr (.inr ⟨_, rfl, hok.2.2⟩))
  · cases hl

theorem loadEntries {load : List Byte → State → Option State}
    (hload : ∀ {entry s t}, load entry s = some t → State.BodiesKept s → t.BodiesKept) (l : List (List Byte)) (h : s.BodiesKept) :
    (State.loadEntries load l s).1.BodiesKept := by
  induction l generalizing s with
  | nil => exact h
  | cons en ens ih =>
    unfold State.loadEntries
    split
    · next ht => exact ih (hload ht (setSnap _ h))
    · exact h

theorem pageLoaded (page : List Byte) (h : s.BodiesKept) : (s.pageLoaded page).BodiesKept := by
  unfold State.pageLoaded
  split
  · exact h
  · next bk b _ =>
    have hload : (s.loadPage b (orZero s.snap.readPos) page).1.BodiesKept := by
      unfold State.loadPage
      dsimp only
      split
      · exact loadEntries loadProfile _ h
      · exact loadEntries loadRecord _ h
    dsimp only
    generalize s.loadPage b (orZero s.snap.readPos) page = r at *
    split
    · exact loadFails _
    · split
      · exact setFlash _ (setSnap _ hload)
      · split
        · exact restoreSucceeds _ _ (setSnap _ hload)
        · exact loadFails _

theorem enterHeader (h : s.BodiesKept) : s.enterHeader.BodiesKept := h.of_stores rfl rfl

theorem nextRecordPage (page : Nat) (h : s.BodiesKept) : (s.nextRecordPage page).BodiesKept := by
  unfold State.nextRecordPage
  split
  · exact enterHeader h
  · exact h.of_stores rfl rfl

theorem nextProfilePage (page : Nat) (h : s.BodiesKept) : (s.nextProfilePage page).BodiesKept := by
  unfold State.nextProfilePage
  split
  · exact nextRecordPage page h
  · exact h.of_stores rfl rfl

theorem pageMatched (page : Nat) (h : s.BodiesKept) : (s.pageMatched page).BodiesKept := by
  unfold State.pageMatched
  split
  · exact nextProfilePage _ (setSnap _ h)
  · exact nextRecordPage _ (setSnap _ (clearListedPins _ (setSnap _ h)))
  · exact h.of_stores rfl rfl
  all_goals exact h

theorem flashMove (hm : FlashMove s t) (h : s.BodiesKept) : t.BodiesKept := by
  cases hm with
  | none => exact h
  | identified => exact h.of_stores rfl rfl
  | absentSave k => exact endSave k h
  | absentRestore => exact restoreFails _ h
  | read bk page changes =>
    unfold State.readCompletes
    dsimp only
    split
    · generalize hu : (s.setFlash _).setFlash _ = u
      have hkept : u.BodiesKept := hu ▸ setFlash _ (setFlash _ h)
      obtain ⟨-, he⟩ | ⟨-, -, he⟩ | ⟨-, -, he⟩ := headerRead_cases bk (readPage (s.setFlash _).flash.cells bk page) u
      · rw [he]; exact hkept.of_stores rfl rfl
      · rw [he]
        obtain hc | ⟨bk', q, hc⟩ := chooseAndErase_cases (u.survey bk (readPage (s.setFlash _).flash.cells bk page))
        · rw [hc]; exact endSave _ (setSnap _ hkept)
        · rw [hc]; exact hkept.of_stores rfl rfl
      · rw [he]; exact selectBank (setSnap _ hkept)
    · exact pageLoaded _ (setFlash _ (setFlash _ h))
  | erased => exact nextProfilePage 1 (h.of_stores rfl rfl)
  | erasedLate => exact setFlash _ h
  | failed k => exact endSave k h
  | programmed => exact pageMatched _ (setFlash _ (setFlash _ h))
  | mismatched => exact endSave _ (setFlash _ h)
  | programmedLate => exact setFlash _ h

/-! ### Links and the lookup engine -/

theorem releaseRequest (q : Request) (h : s.BodiesKept) : (s.releaseRequest q).BodiesKept := by
  have hpin : State.BodiesKept (match q.boundCopy with | some c => s.dropFetchPin c | none => s) := by
    split
    · exact dropFetchPin _ h
    · exact h
  unfold State.releaseRequest
  dsimp only
  split
  · exact hpin.putSlot _ (.inr (.inl rfl))
  · exact hpin

theorem releaseRequests (qs : List Request) (h : s.BodiesKept) : (State.releaseRequests qs s).BodiesKept := by
  induction qs generalizing s with
  | nil => exact h
  | cons q qs ih => exact ih (releaseRequest q h)

theorem resetLink (n : Nat) (h : s.BodiesKept) : (s.resetLink n).BodiesKept :=
  putLink _ _ (releaseRequests _ (h.of_stores rfl rfl : (s.leaveWatchSets n).BodiesKept))

theorem resetLinkDown (n : Nat) (h : s.BodiesKept) : (s.resetLinkDown n).BodiesKept := by
  unfold State.resetLinkDown
  split
  · exact resetLink n h
  · exact raise _ (resetLink n h)

theorem badFrame (e : FrameError) (rx : Receiver) (n : Nat) (h : s.BodiesKept) : (s.badFrame e rx n).BodiesKept := by
  unfold State.badFrame
  dsimp only
  split
  · exact resetLinkDown n (putLink _ _ h)
  · exact putLink _ _ h

theorem answerHello (n : Nat) (tag : Tag) (level : Nat) (h : s.BodiesKept) : (s.answerHello n tag level).BodiesKept := by
  unfold State.answerHello
  split
  · exact raise _ (putLink _ _ h)
  · exact putLink _ _ h

theorem takeHello (n : Nat) (tag : Tag) (level : Nat) (h : s.BodiesKept) : (s.takeHello n tag level).BodiesKept := by
  unfold State.takeHello
  split
  · exact answerHello _ _ _ h
  · split
    · exact answerHello _ _ _ (resetLink n h)
    · exact answerHello _ _ _ (raise _ (resetLink n h))

theorem goodFrame (n : Nat) (tag : Tag) (f : BoardFrame) (h : s.BodiesKept) : (s.goodFrame n tag f).BodiesKept := by
  unfold State.goodFrame
  cases f with
  | hello level => exact kick n (takeHello n tag level (putLink _ _ h))
  | ask a => exact kick n (putLink _ _ (putLink _ _ h))
  | ackNotice r e => exact kick n (putLink _ _ (putLink _ _ h))
  | ackResync k => exact kick n (putLink _ _ (putLink _ _ h))

theorem receiveFrame (n : Nat) (tag : Tag) (f : BoardFrame) (h : s.BodiesKept) : (s.receiveFrame n tag f).BodiesKept := by
  unfold State.receiveFrame
  split
  · exact goodFrame n tag f h
  · exact h

theorem receiveWord (w : WireWord) (n : Nat) (h : s.BodiesKept) : (s.receiveWord w n).BodiesKept := by
  unfold State.receiveWord
  split
  · unfold State.badWord
    split
    · exact badFrame _ _ n h
    · exact badFrame _ _ n h
    · exact h
  · split
    · exact h
    · unfold State.headWord
      split
      · exact putLink _ _ h
      · exact badFrame _ _ n h
      · exact putLink _ _ h
    · unfold State.bodyWord
      split
      · exact badFrame _ _ n h
      · exact putLink _ _ h
      · exact h
    · unfold State.tailWord
      split
      · exact badFrame _ _ n h
      · split
        · exact badFrame _ _ n h
        · exact goodFrame n _ _ h
      · exact putLink _ _ h

theorem placeHolds (d : Decision) (h : s.BodiesKept) : (s.placeHolds d).BodiesKept := by
  have hpin : State.BodiesKept (match d.copy with | some c => s.addFetchPin c | none => s) := by
    split
    · exact h.putCopy _ (.inr (.inl rfl))
    · exact h
  unfold State.placeHolds
  dsimp only
  split
  · exact hpin.putSlot _ (.inr (.inl rfl))
  · exact hpin

theorem takeRequest (n : Nat) (d : Decision) (h : s.BodiesKept) : (s.takeRequest n d).BodiesKept :=
  kick n ((placeHolds d h).of_stores rfl rfl)

theorem frameEnds (n : Nat) (h : s.BodiesKept) : (s.frameEnds n).BodiesKept := kick n (putLink _ _ h)

theorem answerEnds (n : Nat) (c : Content) (h : s.BodiesKept) : (s.answerEnds n c).BodiesKept := by
  have hdone : (s.completeRequest n).BodiesKept := by
    unfold State.completeRequest
    split
    · exact releaseRequest _ (putLink _ _ h)
    · exact h
  exact frameEnds n (putLink _ _ hdone)

theorem linkEvent {i : Instr} (hi : Instr.isLinkEvent i = true) (h : s.BodiesKept) (he : exec i s = .next t) : t.BodiesKept := by
  cases i
  case linkWord n w =>
    obtain rfl := Host.Outcome.next.inj he
    split
    · exact receiveWord w n h
    · exact h
  case receiverLockGained n =>
    obtain rfl := Host.Outcome.next.inj he
    split
    · exact h
    · exact putLink _ _ h
  case receiverLockLost n =>
    obtain rfl := Host.Outcome.next.inj he
    split
    · unfold State.loseLock
      dsimp only
      split
      · exact putLink _ _ h
      · exact resetLinkDown _ (putLink _ _ h)
    · exact h
  case hello | fetch | fetchProfile | watch | unwatch | ackNotice | ackResync =>
    exact Host.Outcome.next.inj he ▸ receiveFrame _ _ _ h
  case fetchTaken | fetchProfileTaken =>
    obtain rfl := Host.Outcome.next.inj he
    split
    · split
      all_goals first
        | exact takeRequest _ _ h
        | exact h
    · exact h
  case watchTaken =>
    obtain rfl := Host.Outcome.next.inj he
    split
    · split
      · unfold State.takeWatch
        split
        · exact takeRequest _ _ h
        · refine takeRequest _ _ ?_
          unfold State.addWatch
          split
          · exact h
          · exact putLink _ _ (putRow _ _ h)
      all_goals exact h
    · exact h
  case unwatchTaken =>
    obtain rfl := Host.Outcome.next.inj he
    split
    · split
      · unfold State.takeUnwatch
        split
        · exact takeRequest _ _ h
        · refine takeRequest _ _ ?_
          unfold State.removeWatch
          split
          · exact putLink _ _ (putRow _ _ h)
          · exact h
      all_goals exact h
    · exact h
  case answerEnd n =>
    obtain rfl := Host.Outcome.next.inj he
    split
    · split
      · exact answerEnds _ _ h
      · exact h
    · exact h
  case welcomeEnd | promptRefusalEnd | noticeEnd | resyncEnd =>
    obtain rfl := Host.Outcome.next.inj he
    split
    · exact frameEnds _ (putLink _ _ h)
    · exact h
  case resendTimerExpiry n =>
    obtain rfl := Host.Outcome.next.inj he
    split
    · unfold State.timerRunsOut
      dsimp only
      split
      · exact kick _ (putLink _ _ h)
      · split
        · exact raise _ (putLink _ _ h)
        · exact putLink _ _ h
    all_goals exact h
  all_goals cases hi

/-! ### Commands -/

theorem perform (p : Port) (k : CmdKind) (args : List Word) (h : s.BodiesKept) : (s.perform p k args).1.BodiesKept := by
  cases k
  case openEdit =>
    show (s.takeOpenEdit p).1.BodiesKept
    unfold State.takeOpenEdit
    split
    · exact h
    · split
      · exact h.of_stores rfl rfl
      · split <;> exact h
  case insert => exact guardEdit p h (insertSpan _ _ h)
  case amend => exact guardEdit p h (amendRow _ _ _ h)
  case retire => exact guardEdit p h (retireRow _ h)
  case retireGroup => exact guardEdit p h (retireGroup _ h)
  case defineProfile => exact guardEdit p h (defineProfile _ _ h)
  case dropProfile => exact guardEdit p h (dropProfile _ h)
  case sealSession => exact guardEdit p h (sealWith _ h)
  case abandon => exact guardEdit p h (abandonSession h)
  case touch => exact guardEdit p h h
  case linkStatus =>
    show (s.linkStatus _ _).1.BodiesKept
    unfold State.linkStatus
    dsimp only
    split
    · exact putLink _ _ h
    · exact h
  case switch =>
    show s.takeSwitch.1.BodiesKept
    unfold State.takeSwitch
    split
    · exact h
    · split
      · exact h
      · split
        · exact h
        · dsimp only
          exact switchSet _ _ h
  case withdraw =>
    show s.takeWithdraw.1.BodiesKept
    unfold State.takeWithdraw
    split
    · exact h
    · split
      · exact h
      · split
        · exact h
        · exact withdrawSet _ h
  case save =>
    show s.takeSave.1.BodiesKept
    unfold State.takeSave
    split
    · exact h
    · split
      · exact h
      · exact beginSave h
  case abortSave =>
    show s.takeAbortSave.1.BodiesKept
    unfold State.takeAbortSave
    split
    · exact h
    · exact h
    all_goals exact endSave _ h
  case restore =>
    show s.takeRestore.1.BodiesKept
    unfold State.takeRestore
    split
    · exact h
    · split
      · exact h
      · split
        · exact h
        · exact h.of_stores rfl rfl
  case startEmpty =>
    show s.takeStartEmpty.1.BodiesKept
    unfold State.takeStartEmpty
    split
    · exact h.of_stores rfl rfl
    · exact h
  case hold | resume =>
    show (s.takeGate _).1.BodiesKept
    unfold State.takeGate
    split
    · exact h.of_stores rfl rfl
    · exact h
  case clearAll =>
    show s.takeClearAll.1.BodiesKept
    unfold State.takeClearAll
    split
    · exact h
    · dsimp only
      exact clearStores s
  case resetLink => exact resetLinkDown _ h
  case setParam =>
    show (if _ then _ else _ : State).BodiesKept
    split
    · exact checkArm (h.of_stores rfl rfl)
    · exact h.of_stores rfl rfl
  all_goals exact h

end State.BodiesKept

/-- Every event and every command keeps bodies and point lists within their ranges. -/
theorem bodies_kept : KeptByEvents State.BodiesKept where
  putPort s p x h := by cases p <;> exact h.of_stores rfl rfl
  eventSet _ _ h := h.of_stores rfl rfl
  setEngine _ _ h := h.of_stores rfl rfl
  restartTimer s p h := by
    unfold State.restartTimer
    split
    · exact h
    · split
      · exact h.of_stores rfl rfl
      · exact h
  perform _ p k args _ _ h := h.perform p k args
  queue _ _ h := h.of_stores rfl rfl
  mask s p m h := by cases p <;> exact h.of_stores rfl rfl
  wordTime _ h := h.of_stores rfl rfl
  hardReset s t strap _ h he := by
    obtain rfl := Host.Outcome.next.inj he
    cases strap <;> exact ⟨fun _ _ hb => (by cases hb), fun _ _ hp => (by cases hp)⟩
  linkEvent _ _ _ hi h he := h.linkEvent hi he
  idleTimer s t h he := by
    obtain ⟨-, rfl⟩ | ⟨x, -, rfl⟩ := idleTimer_cases he
    · exact h
    · exact (h.abandonSession).raise _
  marker s t h he := by
    obtain ⟨m, rfl | ⟨st, -, -, rfl⟩⟩ := markerArrival_cases he
    · exact h.of_stores rfl rfl
    · exact (h.of_stores rfl rfl : (s.setMarkerCount m).BodiesKept).switchSet _ _
  flashEvent _ _ _ hi h he := h.flashMove (flashMove_of_exec hi he)

end Sys2Proof.Machine
end

section
/-! PROOF. What the completions of flash operations leave alone, whatever save or restore waits for them. -/

namespace Sys2Proof.Machine
namespace State.SameBesideRestore

variable {s t u : State}

theorem refl (s : State) : s.SameBesideRestore s := ⟨rfl, rfl, rfl, rfl, rfl, rfl, rfl, rfl, ⟨rfl, rfl, rfl, rfl⟩⟩

theorem trans (h : s.SameBesideRestore t) (k : t.SameBesideRestore u) : s.SameBesideRestore u :=
  ⟨k.pending.trans h.pending, k.session.trans h.session, k.staged.trans h.staged, k.markerCount.trans h.markerCount,
    k.switchRecord.trans h.switchRecord, k.engine.trans h.engine, k.params.trans h.params, k.freeTick.trans h.freeTick,
    k.ports.host.trans h.ports.host, k.ports.service.trans h.ports.service, k.ports.hostMask.trans h.ports.hostMask,
    k.ports.serviceMask.trans h.ports.serviceMask⟩

/-! ### Writes -/

theorem putRow (s : State) (n : Nat) (x : Row) : s.SameBesideRestore (s.putRow n x) :=
  ⟨rfl, rfl, rfl, rfl, rfl, rfl, rfl, rfl, rfl, rfl, rfl, rfl⟩
theorem putCopy (s : State) (n : Nat) (x : Copy) : s.SameBesideRestore (s.putCopy n x) :=
  ⟨rfl, rfl, rfl, rfl, rfl, rfl, rfl, rfl, rfl, rfl, rfl, rfl⟩
theorem putSlot (s : State) (n : Nat) (x : Slot) : s.SameBesideRestore (s.putSlot n x) :=
  ⟨rfl, rfl, rfl, rfl, rfl, rfl, rfl, rfl, rfl, rfl, rfl, rfl⟩
theorem putLink (s : State) (n : Nat) (x : Link) : s.SameBesideRestore (s.putLink n x) :=
  ⟨rfl, rfl, rfl, rfl, rfl, rfl, rfl, rfl, rfl, rfl, rfl, rfl⟩
theorem setSpanIndex (s : State) (x : List IndexItem) : s.SameBesideRestore (s.setSpanIndex x) :=
  ⟨rfl, rfl, rfl, rfl, rfl, rfl, rfl, rfl, rfl, rfl, rfl, rfl⟩
theorem setSuperseded (s : State) (x : List Nat) : s.SameBesideRestore (s.setSuperseded x) :=
  ⟨rfl, rfl, rfl, rfl, rfl, rfl, rfl, rfl, rfl, rfl, rfl, rfl⟩
theorem setFreeCount (s : State) (x : Nat) : s.SameBesideRestore (s.setFreeCount x) :=
  ⟨rfl, rfl, rfl, rfl, rfl, rfl, rfl, rfl, rfl, rfl, rfl, rfl⟩
theorem setSlots (s : State) (x : Table Slot) : s.SameBesideRestore (s.setSlots x) :=
  ⟨rfl, rfl, rfl, rfl, rfl, rfl, rfl, rfl, rfl, rfl, rfl, rfl⟩
theorem setSnap (s : State) (x : Snapshot) : s.SameBesideRestore (s.setSnap x) :=
  ⟨rfl, rfl, rfl, rfl, rfl, rfl, rfl, rfl, rfl, rfl, rfl, rfl⟩
theorem setFlash (s : State) (x : Flash) : s.SameBesideRestore (s.setFlash x) :=
  ⟨rfl, rfl, rfl, rfl, rfl, rfl, rfl, rfl, rfl, rfl, rfl, rfl⟩
theorem setEpoch (s : State) (x : Nat) : s.SameBesideRestore (s.setEpoch x) :=
  ⟨rfl, rfl, rfl, rfl, rfl, rfl, rfl, rfl, rfl, rfl, rfl, rfl⟩
theorem setOpState (s : State) (x : OpState) : s.SameBesideRestore (s.setOpState x) :=
  ⟨rfl, rfl, rfl, rfl, rfl, rfl, rfl, rfl, rfl, rfl, rfl, rfl⟩
theorem raise (s : State) (o : Occurrence) : s.SameBesideRestore (s.raise o) :=
  ⟨rfl, rfl, rfl, rfl, rfl, rfl, rfl, rfl, rfl, rfl, rfl, rfl⟩

theorem each {f : Nat → State → State} (hf : ∀ n s, State.SameBesideRestore s (f n s)) (l : List Nat) (s : State) :
    s.SameBesideRestore (State.forEach f l s) := by
  induction l generalizing s with
  | nil => exact refl s
  | cons n ns ih => exact (hf n s).trans (ih _)

/-! ### Operations of the stores and of the links -/

theorem addRef (k : Option Nat) (s : State) : s.SameBesideRestore (s.addRef k) := by
  cases k
  · exact refl s
  · exact putSlot s _ _

theorem dropRef (k : Option Nat) (s : State) : s.SameBesideRestore (s.dropRef k) := by
  cases k
  · exact refl s
  · exact putSlot s _ _

theorem checkLow (s : State) : s.SameBesideRestore s.checkLow := by
  unfold State.checkLow
  split
  · exact ⟨rfl, rfl, rfl, rfl, rfl, rfl, rfl, rfl, rfl, rfl, rfl, rfl⟩
  · exact refl s

theorem checkArm (s : State) : s.SameBesideRestore s.checkArm := by
  unfold State.checkArm
  split
  · exact ⟨rfl, rfl, rfl, rfl, rfl, rfl, rfl, rfl, rfl, rfl, rfl, rfl⟩
  · exact refl s

theorem allocCopy (c : Nat) (x : Copy) (s : State) : s.SameBesideRestore (s.allocCopy c x) :=
  ((putCopy s c x).trans (addRef x.profile _)).trans ((setFreeCount _ _).trans (checkLow _))

theorem freeCopy (c : Nat) (s : State) : s.SameBesideRestore (s.freeCopy c) :=
  ((putCopy s c _).trans (dropRef (s.copy c).profile _)).trans
    (((setSuperseded _ _).trans (setFreeCount _ _)).trans (checkArm _))

theorem freeRow (r : Nat) (s : State) : s.SameBesideRestore (s.freeRow r) :=
  ((putRow s r _).trans (each (fun n s => putLink s n _) (s.row r).watch _)).trans ((putRow _ r _).trans (setSpanIndex _ _))

theorem reapRow (r : Nat) (s : State) : s.SameBesideRestore (s.reapRow r) := by
  unfold State.reapRow
  split
  · exact freeRow r s
  · exact refl s

theorem settleCopy (c : Nat) (s : State) : s.SameBesideRestore (s.settleCopy c) := by
  unfold State.settleCopy
  split
  · split
    · exact freeCopy c s
    · exact (freeCopy c s).trans (reapRow _ _)
  · exact refl s

theorem clearSnapPin (c : Nat) (s : State) : s.SameBesideRestore (s.clearSnapPin c) := by
  unfold State.clearSnapPin
  split
  · exact (putCopy s c _).trans (settleCopy c _)
  · exact refl s

theorem clearListedPins (l : List SaveItem) (s : State) : s.SameBesideRestore (s.clearListedPins l) := each clearSnapPin _ s

theorem kick (n : Nat) (s : State) : s.SameBesideRestore (s.kick n) := by
  unfold State.kick
  split
  · split
    · exact putLink s n _
    · exact refl s
  · exact refl s

theorem kickAll (s : State) : s.SameBesideRestore s.kickAll := each kick _ s

theorem resyncUpLinks (s : State) : s.SameBesideRestore s.resyncUpLinks :=
  each (fun n s => by split; exacts [refl s, putLink s n _]) _ s

theorem emptyStores (s : State) : s.SameBesideRestore s.emptyStores := by
  unfold State.emptyStores State.checkArm
  split <;> exact ⟨rfl, rfl, rfl, rfl, rfl, rfl, rfl, rfl, rfl, rfl, rfl, rfl⟩

/-! ### Saves and restores -/

theorem endSave (k : FailKind) (s : State) : s.SameBesideRestore (s.endSave k) :=
  (clearListedPins s.snap.saveList s).trans (((setSnap _ _).trans (setFlash _ _)).trans (raise _ _))

theorem restoreFails (k : FailKind) (s : State) : s.SameBesideRestore (s.restoreFails k) :=
  ((setOpState s _).trans (setSnap _ _)).trans ((setFlash _ _).trans (raise _ _))

theorem restoreSucceeds (bk : Bank) (h : BankHeader) (s : State) : s.SameBesideRestore (s.restoreSucceeds bk h) :=
  (((setEpoch s _).trans (setOpState _ _)).trans (resyncUpLinks _)).trans
    (((setSnap _ _).trans (setFlash _ _)).trans ((raise _ _).trans (kickAll _)))

theorem beginLoading (bk : Bank) (h : BankHeader) (s : State) : s.SameBesideRestore (s.beginLoading bk h) := by
  unfold State.beginLoading
  dsimp only
  split
  · exact (setSlots s _).trans (setSnap _ _)
  · exact setSnap s _

theorem tryBank_of {fuel : Nat} (hdiscard : ∀ s : State, s.SameBesideRestore (s.afterDiscard fuel)) (bk : Bank) (h : BankHeader)
    (s : State) : s.SameBesideRestore (State.tryBank fuel bk h s) := by
  rw [tryBank_eq]
  split
  · exact (beginLoading bk h s).trans (setFlash _ _)
  · split
    · exact (beginLoading bk h s).trans (restoreSucceeds _ _ _)
    · exact ((beginLoading bk h s).trans (emptyStores _)).trans (hdiscard _)

theorem afterDiscard (fuel : Nat) (s : State) : s.SameBesideRestore (s.afterDiscard fuel) := by
  induction fuel generalizing s with
  | zero => exact restoreFails _ s
  | succ fuel ih =>
    unfold State.afterDiscard
    cases s.snap.untried with
    | none => exact restoreFails _ s
    | some b => exact tryBank_of ih b.1 b.2 s

theorem tryBank (fuel : Nat) (bk : Bank) (h : BankHeader) (s : State) : s.SameBesideRestore (State.tryBank fuel bk h s) :=
  tryBank_of (afterDiscard fuel) bk h s

theorem selectBank (s : State) : s.SameBesideRestore s.selectBank := by
  unfold State.selectBank
  split
  · exact restoreFails _ s
  · exact tryBank _ _ _ s

theorem loadFails (s : State) : s.SameBesideRestore s.loadFails := by
  rw [loadFails_eq]
  exact (emptyStores s).trans (afterDiscard _ _)

theorem loadRecord {e : Nat} {entry : List Byte} (hl : s.loadRecord e entry = some t) : s.SameBesideRestore t := by
  unfold State.loadRecord at hl
  dsimp only at hl
  split at hl
  · split at hl
    · exact Option.some.inj hl ▸ ((putRow s _ _).trans (setSpanIndex _ _)).trans (allocCopy _ _ _)
    · cases hl
  all_goals cases hl

theorem loadProfile {e : Nat} {entry : List Byte} (hl : s.loadProfile e entry = some t) : s.SameBesideRestore t := by
  unfold State.loadProfile at hl
  dsimp only at hl
  split at hl
  · exact Option.some.inj hl ▸ putSlot s _ _
  · cases hl

theorem loadEntries {load : List Byte → State → Option State}
    (hload : ∀ {entry s t}, load entry s = some t → State.SameBesideRestore s t) (l : List (List Byte)) (s : State) :
    s.SameBesideRestore (State.loadEntries load l s).1 := by
  induction l generalizing s with
  | nil => exact refl s
  | cons en ens ih =>
    unfold State.loadEntries
    split
    · next ht => exact ((setSnap s _).trans (hload ht)).trans (ih _)
    · exact refl s

theorem loadPage (h : BankHeader) (i : Nat) (page : List Byte) (s : State) : s.SameBesideRestore (s.loadPage h i page).1 := by
  unfold State.loadPage
  dsimp only
  split
  · exact loadEntries loadProfile _ s
  · exact loadEntries loadRecord _ s

theorem pageLoaded (page : List Byte) (s : State) : s.SameBesideRestore (s.pageLoaded page) := by
  unfold State.pageLoaded
  split
  · exact refl s
  · next bk b _ =>
    have hload := loadPage b (orZero s.snap.readPos) page s
    dsimp only
    generalize s.loadPage b (orZero s.snap.readPos) page = r at *
    refine hload.trans ?_
    split
    · exact loadFails _
    · split
      · exact (setSnap _ _).trans (setFlash _ _)
      · split
        · exact (setSnap _ _).trans (restoreSucceeds _ _ _)
        · exact (setSnap _ _).trans (loadFails _)

theorem nextRecordPage (page : Nat) (s : State) : s.SameBesideRestore (s.nextRecordPage page) := by
  unfold State.nextRecordPage
  split
  · exact (setSnap s _).trans (setFlash _ _)
  · exact (setSnap s _).trans (setFlash _ _)

theorem nextProfilePage (page : Nat) (s : State) : s.SameBesideRestore (s.nextProfilePage page) := by
  unfold State.nextProfilePage
  split
  · exact nextRecordPage page s
  · exact (setSnap s _).trans (setFlash _ _)

theorem pageMatched (page : Nat) (s : State) : s.SameBesideRestore (s.pageMatched page) := by
  unfold State.pageMatched
  split
  · exact (setSnap s _).trans (nextProfilePage _ _)
  · exact ((setSnap s _).trans (clearListedPins _ _)).trans ((setSnap _ _).trans (nextRecordPage _ _))
  · exact (setSnap s _).trans (raise _ _)
  all_goals exact refl s

/-- A completion or time-out of a flash operation touches neither session, staged set nor port. -/
theorem flashMove (hm : FlashMove s t) : s.SameBesideRestore t := by
  cases hm with
  | none => exact refl s
  | identified => exact (setFlash s _).trans (setFlash _ _)
  | absentSave k => exact endSave k s
  | absentRestore => exact restoreFails _ s
  | read bk page changes =>
    unfold State.readCompletes
    dsimp only
    generalize hu : (s.setFlash _).setFlash _ = u
    have hflash : s.SameBesideRestore u := hu ▸ (setFlash s _).trans (setFlash _ _)
    refine hflash.trans ?_
    split
    · obtain ⟨-, he⟩ | ⟨-, -, he⟩ | ⟨-, -, he⟩ := headerRead_cases bk (readPage (s.setFlash _).flash.cells bk page) u
      · rw [he]; exact (setSnap u _).trans (setFlash _ _)
      · rw [he]
        obtain hc | ⟨bk', q, hc⟩ := chooseAndErase_cases (u.survey bk (readPage (s.setFlash _).flash.cells bk page))
        · rw [hc]; exact (setSnap u _).trans (endSave _ _)
        · rw [hc]; exact (setSnap u _).trans ((setSnap _ _).trans (setFlash _ _))
      · rw [he]; exact (setSnap u _).trans (selectBank _)
    · exact pageLoaded _ u
  | erased => exact ((setFlash s _).trans (setFlash _ _)).trans ((setSnap _ _).trans (nextProfilePage 1 _))
  | erasedLate => exact setFlash s _
  | failed k => exact endSave k s
  | programmed => exact ((setFlash s _).trans (setFlash _ _)).trans (pageMatched _ _)
  | mismatched => exact (setFlash s _).trans (endSave _ _)
  | programmedLate => exact setFlash s _

end State.SameBesideRestore
end Sys2Proof.Machine
end

section
/-! PROOF. What the two ports keep (O54): the words of their FIFOs, command by command and event by event. -/

namespace Sys2Proof.Machine

variable {s t : State}

/-! ### The largest response of each kind (R181, R183) -/

theorem bodyOf_trims (h : s.BodiesKept) (c : Nat) : (s.bodyOf c).trims.length ≤ Config.trimsMax := by
  unfold State.bodyOf
  cases hb : (s.copy c).body with
  | none => simp [Body.none]
  | some b =>
    have hr := h.bodies c b hb
    simp only [Body.inRange, Bool.and_eq_true, decide_eq_true_eq] at hr
    exact hr.1.2

theorem bodyWordsOf_length (h : s.BodiesKept) (c : Nat) : (bodyWordsOf (s.copy c).body).length ≤ 10 := by
  cases hb : (s.copy c).body with
  | none => simp [bodyWordsOf]
  | some b =>
    have hr := h.bodies c b hb
    simp only [Body.inRange, Bool.and_eq_true, decide_eq_true_eq] at hr
    have ht : b.trims.length ≤ 8 := hr.1.2
    simp only [bodyWordsOf, List.length_append, List.length_cons, List.length_nil, List.length_map]
    omega

theorem pointsOf_length (h : s.BodiesKept) (k : Nat) : (s.pointsOf k).length ≤ 17 := by
  unfold State.pointsOf
  cases hp : (s.slot k).points with
  | none => simp
  | some ps =>
    have hv := h.points k ps hp
    simp only [pointsValid, Bool.and_eq_true, decide_eq_true_eq] at hv
    exact hv.1.1.2

theorem spansFrom_length (s : State) (c : Nat) : (s.spansFrom c).length ≤ 16 := by simp [State.spansFrom]

theorem spanItems_length (s : State) (l : List IndexItem) : (l.flatMap s.spanItemWords).length = 2 * l.length := by
  induction l with
  | nil => rfl
  | cons x xs ih => simp only [List.flatMap_cons, List.length_append, ih, State.spanItemWords, List.length_cons, List.length_nil]; omega

theorem statusSwitch_length (s : State) : s.statusSwitch.length = 5 := by
  unfold State.statusSwitch
  split <;> rfl

theorem Survey.words_length (x : Survey) : x.words.length = 2 := by cases x <;> rfl

theorem LastResult.words_length (x : LastResult) : x.words.length = 5 := by cases x <;> rfl

theorem statusWords_length (s : State) : s.statusWords.length = 40 := by
  simp [State.statusWords, State.statusPublication, statusSwitch_length, State.statusStores, Snapshot.statusWords,
    Survey.words_length, LastResult.words_length, State.statusEvents]

theorem Link.statusWords_length (l : Link) : l.statusWords.length = 12 := by
  have hn : (noticeWords l.notices.head?).length = 2 := by unfold noticeWords; split <;> rfl
  simp [Link.statusWords, hn]

theorem guardEdit_reply_le {n : Nat} (p : Port) {act : State → State × Reply} (s : State) (ha : (act s).2.data.length ≤ n) :
    (s.guardEdit p act).2.data.length ≤ n := by
  unfold State.guardEdit
  split
  · exact Nat.zero_le n
  · exact ha

/-- A response has no more data words than its kind's largest (11.4). -/
theorem reply_le_maxData (h : s.BodiesKept) (p : Port) (k : CmdKind) (args : List Word) :
    (s.perform p k args).2.data.length ≤ k.maxData := by
  cases k
  case readStatus => exact (statusWords_length s).le
  case readRow => exact Nat.le_refl 8
  case readCopy =>
    have hb := bodyWordsOf_length h (namedBy args)
    show (_ ++ bodyWordsOf (s.copy (namedBy args)).body).length ≤ 15
    rw [List.length_append]
    exact Nat.add_le_add_left hb 5
  case readProfile =>
    have hp := pointsOf_length h (namedBy args)
    show (_ ++ (s.pointsOf (namedBy args)).map pointWord).length ≤ 21
    rw [List.length_append, List.length_map]
    exact Nat.add_le_add_left hp 4
  case listSpans =>
    have hl := spansFrom_length s (namedBy args)
    show (_ :: (s.spansFrom (namedBy args)).flatMap s.spanItemWords).length ≤ 33
    rw [List.length_cons, spanItems_length]
    omega
  case query =>
    show (s.queryReply _ _).data.length ≤ 17
    unfold State.queryReply
    split
    · exact Nat.le_of_ble_eq_true rfl
    · next r _ =>
      have ht := bodyOf_trims h (orZero (s.row r).live)
      dsimp only
      rw [List.length_append, List.length_map]
      exact Nat.add_le_add_left ht 9
  case linkStatus => exact (Link.statusWords_length _).le
  case openEdit =>
    show (s.takeOpenEdit p).2.data.length ≤ 0
    unfold State.takeOpenEdit
    split
    · exact Nat.le_refl 0
    · split
      · exact Nat.le_refl 0
      · split <;> exact Nat.le_refl 0
  case insert =>
    refine guardEdit_reply_le p s ?_
    unfold State.insertSpan
    split
    · exact Nat.zero_le _
    · split
      · exact Nat.zero_le _
      · split
        · exact Nat.zero_le _
        · exact Nat.le_refl 2
  case amend =>
    refine guardEdit_reply_le p s ?_
    unfold State.amendRow
    dsimp only
    split
    · exact Nat.zero_le _
    · split
      · exact Nat.le_refl 2
      · split
        · exact Nat.zero_le _
        · split
          · exact Nat.zero_le _
          · exact Nat.le_refl 2
  case retire =>
    refine guardEdit_reply_le p s ?_
    unfold State.retireRow
    split
    · exact Nat.zero_le _
    · split
      · exact Nat.zero_le _
      · exact Nat.le_refl 1
  case retireGroup =>
    refine guardEdit_reply_le p s ?_
    unfold State.retireGroup
    dsimp only
    split
    · exact Nat.zero_le _
    · exact Nat.le_refl 2
  case defineProfile =>
    refine guardEdit_reply_le p s ?_
    unfold State.defineProfile
    split
    · exact Nat.zero_le _
    · exact Nat.zero_le _
    · split
      · exact Nat.zero_le _
      · split
        · exact Nat.zero_le _
        · exact Nat.le_refl 1
    · split
      · exact Nat.zero_le _
      · exact Nat.le_refl 1
  case dropProfile =>
    refine guardEdit_reply_le p s ?_
    unfold State.dropProfile
    split
    · exact Nat.le_refl 0
    · split
      · exact Nat.le_refl 0
      · exact Nat.le_refl 0
      · split <;> exact Nat.le_refl 0
      · split <;> exact Nat.le_refl 0
  case sealSession =>
    refine guardEdit_reply_le p s ?_
    unfold State.sealWith
    split
    · exact Nat.zero_le _
    · split <;> exact Nat.le_refl 1
  case abandon => exact guardEdit_reply_le p s (Nat.le_refl 1)
  case touch => exact guardEdit_reply_le p s (Nat.le_refl 1)
  case switch =>
    show s.takeSwitch.2.data.length ≤ 4
    unfold State.takeSwitch
    split
    · exact Nat.zero_le _
    · split
      · exact Nat.zero_le _
      · split
        · exact Nat.zero_le _
        · dsimp only
          split
          · exact Nat.le_refl 4
          · exact Nat.zero_le _
  case withdraw =>
    show s.takeWithdraw.2.data.length ≤ 1
    unfold State.takeWithdraw
    split
    · exact Nat.zero_le _
    · split
      · exact Nat.zero_le _
      · split
        · exact Nat.zero_le _
        · exact Nat.le_refl 1
  case save =>
    show s.takeSave.2.data.length ≤ 2
    unfold State.takeSave
    split
    · exact Nat.zero_le _
    · split
      · exact Nat.zero_le _
      · exact Nat.le_refl 2
  case abortSave =>
    show s.takeAbortSave.2.data.length ≤ 1
    unfold State.takeAbortSave
    split <;> exact Nat.le_refl 1
  case restore =>
    show s.takeRestore.2.data.length ≤ 0
    unfold State.takeRestore
    split
    · exact Nat.le_refl 0
    · split
      · exact Nat.le_refl 0
      · split <;> exact Nat.le_refl 0
  case startEmpty =>
    show s.takeStartEmpty.2.data.length ≤ 1
    unfold State.takeStartEmpty
    split
    · exact Nat.le_refl 1
    · exact Nat.zero_le _
  case hold | resume =>
    show (s.takeGate _).2.data.length ≤ 1
    unfold State.takeGate
    split <;> exact Nat.le_refl 1
  case clearAll =>
    show s.takeClearAll.2.data.length ≤ 2
    unfold State.takeClearAll
    split
    · exact Nat.zero_le _
    · exact Nat.le_refl 2
  case resetLink => exact Nat.le_refl 1
  case setParam => exact Nat.le_refl 1

/-- The reply to a command taken, its header included, fits the room that was looked for (R181). -/
theorem carryOut_reply_le (h : s.BodiesKept) (p : Port) (q : QueuedCommand) :
    1 + (s.carryOut p q).2.data.length ≤ q.roomNeeded := by
  unfold State.carryOut QueuedCommand.roomNeeded
  cases hk : q.kind with
  | none =>
    have hf : q.formError = some .badCommand := by simp [QueuedCommand.formError, hk]
    rw [hf]
    exact Nat.le_refl 1
  | some k =>
    cases q.formError with
    | some c => exact Nat.add_le_add_left (Nat.zero_le _) 1
    | none => exact Nat.add_le_add_left (reply_le_maxData h p k _) 1

/-! ### A port between its takings -/

/-- What a port keeps while commands are still to be taken from it. -/
structure PortState.Sound (x : PortState) : Prop where
  commands : x.wordCount ≤ Config.fifoWords
  responses : x.responses.length ≤ Config.fifoWords
  released : ∀ q ∈ x.commands, q.released = true → q.cut = true
  headed : ∀ q ∈ x.commands, q.words ≠ []

theorem PortState.Kept.sound {x : PortState} (h : x.Kept) : x.Sound := ⟨h.commands, h.responses, h.released, h.headed⟩

theorem PortState.Sound.kept {x : PortState} (h : x.Sound) (hq : x.takeable = none) : x.Kept :=
  ⟨h.commands, h.responses, h.released, h.headed, hq⟩

/-- Port `p` is sound, the other port kept, and bodies and points bound the responses. -/
structure State.TakingAt (s : State) (p : Port) : Prop where
  port : (s.port p).Sound
  others : ∀ r, r ≠ p → (s.port r).Kept
  bodies : s.BodiesKept

theorem portsSafe_iff : s.PortsSafe ↔ (∀ p, (s.port p).Kept) ∧ s.BodiesKept :=
  ⟨fun h => ⟨fun p => by cases p; exacts [h.host, h.service], h.bodies⟩, fun h => ⟨h.1 .host, h.1 .service, h.2⟩⟩

theorem State.PortsSafe.port (h : s.PortsSafe) (p : Port) : (s.port p).Kept := (portsSafe_iff.1 h).1 p

theorem State.PortsSafe.of_ports (h : s.PortsSafe) (hp : ∀ p, t.port p = s.port p) (hb : t.BodiesKept) : t.PortsSafe :=
  portsSafe_iff.2 ⟨fun p => hp p ▸ h.port p, hb⟩

/-- A write of one sound port leaves the other as it was. -/
theorem State.PortsSafe.takingAt (h : s.PortsSafe) (p : Port) {x : PortState} (hx : x.Sound) : (s.putPort p x).TakingAt p := by
  refine ⟨?_, fun r hr => ?_, bodies_kept.putPort s p x h.bodies⟩
  · rwa [State.port_putPort, if_pos rfl]
  · rw [State.port_putPort, if_neg hr]
    exact h.port r

theorem State.TakingAt.safe {p : Port} (h : s.TakingAt p) (hq : (s.port p).takeable = none) : s.PortsSafe := by
  refine portsSafe_iff.2 ⟨fun r => ?_, h.bodies⟩
  by_cases hr : r = p
  · exact hr ▸ h.port.kept hq
  · exact h.others r hr

/-! ### Takings -/

/-- A command with room for its response leaves its port sound (R181, R183). -/
theorem State.TakingAt.takeCommand {p : Port} {q : QueuedCommand} {qs : List QueuedCommand} (h : s.TakingAt p)
    (hc : (s.port p).commands = q :: qs) (hr : (s.port p).responses.length + q.roomNeeded ≤ 64) :
    (s.takeCommand p q).TakingAt p := by
  have hbodies : (s.restartFor p q).BodiesKept := bodies_kept.restartFor p q h.bodies
  have hreply := carryOut_reply_le hbodies p q
  have hkept : PortsKept s ((s.restartFor p q).carryOut p q).1 := (PortsKept.restartFor p q s).trans (PortsKept.carryOut p q _)
  obtain ⟨hcmds, hresp, hrel, hhead⟩ := h.port
  rw [hc] at hrel hhead
  have hcount : (s.port p).wordCount = q.words.length + (qs.map (fun q => q.words.length)).sum := by
    simp [PortState.wordCount, hc]
  refine ⟨?_, fun r hrp => ?_, bodies_kept.takeCommand p q h.bodies⟩
  · rw [takeCommand_eq hc, State.respond, State.port_putPort, if_pos rfl, State.port_putPort, if_pos rfl]
    refine ⟨?_, ?_, fun q' hq' => hrel q' (List.mem_cons_of_mem _ hq'), fun q' hq' => hhead q' (List.mem_cons_of_mem _ hq')⟩
    · show (qs.map (fun q => q.words.length)).sum ≤ Config.fifoWords
      omega
    · simp only [List.length_append, List.length_cons, Config.fifoWords]
      omega
  · rw [takeCommand_eq hc, State.respond, State.port_putPort, if_neg hrp, State.port_putPort, if_neg hrp, hkept.port r]
    exact h.others r hrp

theorem State.TakingAt.takings {p : Port} (n : Nat) (h : s.TakingAt p) (hn : (s.port p).commands.length ≤ n) :
    (State.takings n p s).PortsSafe := by
  induction n generalizing s with
  | zero =>
    refine h.safe ?_
    rw [PortState.takeable, List.length_eq_zero_iff.mp (Nat.le_zero.mp hn)]
    rfl
  | succ n ih =>
    unfold State.takings
    cases ht : (s.port p).takeable with
    | none => exact h.safe ht
    | some q =>
      obtain ⟨qs, hc, -, hr, -⟩ := takeable_front ht
      refine ih (h.takeCommand hc hr) ?_
      rw [takeCommand_commands hc]
      rw [hc, List.length_cons] at hn
      exact Nat.le_of_succ_le_succ hn

theorem State.TakingAt.takeAll {p : Port} (h : s.TakingAt p) : (s.takeAll p).PortsSafe := h.takings _ (Nat.le_refl _)

/-! ### Words into a command FIFO -/

theorem wordCount_joinWord (w : Word) : ∀ qs : List QueuedCommand,
    ((joinWord w qs).map (fun q => q.words.length)).sum = (qs.map (fun q => q.words.length)).sum + 1
  | [] => rfl
  | [q] => by
    unfold joinWord
    split <;> simp
  | q :: r :: qs => by
    have ih := wordCount_joinWord w (r :: qs)
    simp only [joinWord, List.map_cons, List.sum_cons] at ih ⊢
    omega

/-- A word joins a command that was there, or is a command of its own, neither cut nor let go. -/
theorem mem_joinWord (w : Word) : ∀ (qs : List QueuedCommand) {q : QueuedCommand}, q ∈ joinWord w qs →
    q ∈ qs ∨ q.words ≠ [] ∧ (q.released = false ∨ ∃ q' ∈ qs, q.released = q'.released ∧ q.cut = q'.cut)
  | [], q, h => by
    rw [joinWord, List.mem_singleton] at h
    exact h ▸ .inr ⟨List.cons_ne_nil _ _, .inl rfl⟩
  | [q'], q, h => by
    unfold joinWord at h
    split at h
    · rw [List.mem_singleton] at h
      exact h ▸ .inr ⟨by simp, .inr ⟨q', by simp, rfl, rfl⟩⟩
    · obtain rfl | h := List.mem_cons.1 h
      · exact .inl (by simp)
      · rw [List.mem_singleton] at h
        exact h ▸ .inr ⟨List.cons_ne_nil _ _, .inl rfl⟩
  | a :: r :: qs, q, h => by
    obtain rfl | h := List.mem_cons.1 h
    · exact .inl (by simp)
    · obtain hm | ⟨hw, hr | ⟨q', hq', he⟩⟩ := mem_joinWord w (r :: qs) h
      · exact .inl (List.mem_cons_of_mem _ hm)
      · exact .inr ⟨hw, .inl hr⟩
      · exact .inr ⟨hw, .inr ⟨q', List.mem_cons_of_mem _ hq', he⟩⟩

theorem wordCount_cutTail : ∀ qs : List QueuedCommand,
    ((cutTail qs).map (fun q => q.words.length)).sum = (qs.map (fun q => q.words.length)).sum
  | [] => rfl
  | [q] => by
    unfold cutTail
    split <;> rfl
  | q :: r :: qs => by
    have ih := wordCount_cutTail (r :: qs)
    simp only [cutTail, List.map_cons, List.sum_cons] at ih ⊢
    omega

/-- A command after the tail has taken the cut mark was there, cut now if it was before. -/
theorem mem_cutTail : ∀ (qs : List QueuedCommand) {q : QueuedCommand}, q ∈ cutTail qs →
    ∃ q' ∈ qs, q.words = q'.words ∧ q.released = q'.released ∧ (q'.cut = true → q.cut = true)
  | [], q, h => by cases h
  | [q'], q, h => by
    unfold cutTail at h
    rw [List.mem_singleton] at h
    refine ⟨q', by simp, ?_⟩
    split at h <;> subst h
    · exact ⟨rfl, rfl, fun _ => rfl⟩
    · exact ⟨rfl, rfl, id⟩
  | a :: r :: qs, q, h => by
    obtain rfl | h := List.mem_cons.1 h
    · exact ⟨q, by simp, rfl, rfl, id⟩
    · obtain ⟨q', hq', he⟩ := mem_cutTail (r :: qs) h
      exact ⟨q', List.mem_cons_of_mem _ hq', he⟩

theorem PortState.Sound.joinWord {x : PortState} (h : x.Sound) (w : Word) (hw : x.wordCount < Config.fifoWords) :
    PortState.Sound { x with commands := Machine.joinWord w x.commands } := by
  refine ⟨?_, h.responses, fun q hq hr => ?_, fun q hq => ?_⟩
  · show ((Machine.joinWord w x.commands).map (fun q => q.words.length)).sum ≤ _
    rw [wordCount_joinWord]
    exact hw
  · obtain hm | ⟨-, hf | ⟨q', hq', hr', hc'⟩⟩ := mem_joinWord w x.commands hq
    · exact h.released q hm hr
    · rw [hf] at hr; cases hr
    · exact hc'.trans (h.released q' hq' (hr' ▸ hr))
  · obtain hm | ⟨hw, -⟩ := mem_joinWord w x.commands hq
    · exact h.headed q hm
    · exact hw

theorem PortState.Sound.cutTail {x : PortState} (h : x.Sound) (ov : Bool) :
    PortState.Sound { x with overflow := ov, commands := Machine.cutTail x.commands } := by
  refine ⟨?_, h.responses, fun q hq hr => ?_, fun q hq => ?_⟩
  · show ((Machine.cutTail x.commands).map (fun q => q.words.length)).sum ≤ _
    rw [wordCount_cutTail]
    exact h.commands
  · obtain ⟨q', hq', -, hrel, hcut⟩ := mem_cutTail _ hq
    exact hcut (h.released q' hq' (hrel ▸ hr))
  · obtain ⟨q', hq', hw, -⟩ := mem_cutTail _ hq
    exact hw ▸ h.headed q' hq'

theorem PortState.Sound.release {x : PortState} (h : x.Sound) :
    PortState.Sound { x with commands := x.commands.map QueuedCommand.release } := by
  have hwords : ∀ q : QueuedCommand, q.release.words = q.words := fun q => by unfold QueuedCommand.release; split <;> rfl
  refine ⟨?_, h.responses, fun q hq hr => ?_, fun q hq => ?_⟩
  · show ((x.commands.map QueuedCommand.release).map (fun q => q.words.length)).sum ≤ _
    rw [List.map_map, Function.comp_def]
    simp only [hwords]
    exact h.commands
  · obtain ⟨q', hq', rfl⟩ := List.mem_map.1 hq
    unfold QueuedCommand.release at hr ⊢
    split
    · next hc => exact hc
    · next hc =>
      rw [if_neg hc] at hr
      exact h.released q' hq' hr
  · obtain ⟨q', hq', rfl⟩ := List.mem_map.1 hq
    exact hwords q' ▸ h.headed q' hq'

namespace State.PortsSafe

theorem writeCommandIn (p : Port) (w : Word) (h : s.PortsSafe) : (s.writeCommandIn p w).PortsSafe := by
  have hs := (h.port p).sound
  refine State.TakingAt.takeAll ?_
  unfold State.offerWord
  dsimp only
  split
  · exact ⟨hs, fun r _ => h.port r, h.bodies⟩
  · split
    · next hw => exact h.takingAt p (hs.joinWord w hw)
    · obtain ⟨hport, hothers, hbodies⟩ := h.takingAt p (hs.cutTail true)
      exact ⟨by rwa [State.port_raise], fun r hr => by rw [State.port_raise]; exact hothers r hr, hbodies.raise _⟩

theorem deliver (p : Port) (kind : Byte) (seq : Half) (args : List Word) (h : s.PortsSafe) :
    (s.deliver p kind seq args).PortsSafe := by
  unfold State.deliver
  generalize headerWord kind (args.length + 1) seq :: args = ws
  induction ws generalizing s with
  | nil => exact h
  | cons w ws ih => exact ih (h.writeCommandIn p w)

theorem readResponse (p : Port) (h : s.PortsSafe) : (s.readResponse p).PortsSafe := by
  have hk := h.port p
  unfold State.readResponse
  split
  · refine (h.takingAt p (x := { s.port p with readData := 0#32 }) ⟨hk.commands, hk.responses, hk.released, hk.headed⟩).safe ?_
    rw [State.port_putPort, if_pos rfl]
    exact hk.quiet
  · next w ws hr =>
    have hlen := hk.responses
    rw [hr, List.length_cons] at hlen
    exact (h.takingAt p (x := { s.port p with responses := ws, readData := w })
      ⟨hk.commands, Nat.le_of_succ_le hlen, hk.released, hk.headed⟩).takeAll

theorem resynchronise (p : Port) (h : s.PortsSafe) : (s.resynchronise p).PortsSafe :=
  (h.takingAt p ((h.port p).sound.cutTail false).release).takeAll

theorem query (h : s.PortsSafe) (he : execQuery s = .next t) : t.PortsSafe := by
  obtain rfl := Host.Outcome.next.inj he
  split
  · exact h
  · next k _ =>
    split
    · exact h
    · split
      · exact h
      · next q hq =>
        unfold State.portOffers at hq
        split at hq
        · cases hq
        · next q' hfront =>
          split at hq
          · next hok =>
            obtain rfl := Option.some.inj hq
            obtain ⟨qs, hc⟩ := List.head?_eq_some_iff.1 hfront
            have hroom : (s.port (requesterPort k)).responses.length + q'.roomNeeded ≤ 64 := by
              simpa [PortState.hasRoom] using hok.2.2.1
            have htaken := State.TakingAt.takeCommand ⟨(h.port _).sound, fun r _ => h.port r, h.bodies⟩ hc hroom
            obtain ⟨hport, hothers, hbodies⟩ := htaken
            exact State.TakingAt.takeAll ⟨by rwa [State.passEngine, State.port_setEngine],
              fun r hr => by rw [State.passEngine, State.port_setEngine]; exact hothers r hr, bodies_kept.setEngine _ _ hbodies⟩
          · cases hq

/-- A link event, a timer, the marker or the flash leaves both ports as they are. -/
theorem of_kept (h : s.PortsSafe) (hk : PortsKept s t) (hb : t.BodiesKept) : t.PortsSafe := h.of_ports hk.port hb

theorem exec (i : Instr) (h : s.PortsSafe) (he : Machine.exec i s = .next t) : t.PortsSafe := by
  have hb : t.BodiesKept := bodies_kept.exec i h.bodies he
  cases i
  case hardReset strap powered =>
    have hreset : PortState.reset.Kept := ⟨Nat.zero_le _, Nat.zero_le _, (fun _ hq => by cases hq), (fun _ hq => by cases hq), rfl⟩
    refine portsSafe_iff.2 ⟨fun p => ?_, hb⟩
    obtain rfl := Host.Outcome.next.inj he
    cases strap <;> cases p <;> exact hreset
  case commandIn p w => exact Host.Outcome.next.inj he ▸ h.writeCommandIn p w
  case responseOut p => exact Host.Outcome.next.inj he ▸ h.readResponse p
  case portStatus p w => exact Host.Outcome.next.inj he ▸ h.resynchronise p
  case events p w => exact h.of_ports (fun r => by rw [← Host.Outcome.next.inj he]; cases r <;> rfl) hb
  case eventMask p w => exact h.of_ports (fun r => by rw [← Host.Outcome.next.inj he]; cases p <;> cases r <;> rfl) hb
  case registerWriteIgnored => exact Host.Outcome.next.inj he ▸ h
  case query => exact h.query he
  case idleTimerExpiry =>
    obtain ⟨-, rfl⟩ | ⟨x, -, rfl⟩ := idleTimer_cases he
    · exact h
    · exact h.of_kept ((PortsKept.abandonSession s).trans (.of (StoresOnly.raise _ _))) hb
  case markerArrival =>
    obtain ⟨m, rfl | ⟨st, -, -, rfl⟩⟩ := markerArrival_cases he
    · exact h.of_kept (PortsKept.setMarkerCount s m) hb
    · exact h.of_kept ((PortsKept.setMarkerCount s m).trans (PortsKept.switchSet _ _ _)) hb
  all_goals first
    | exact h.of_kept (.of (storesOnly_of_linkEvent rfl he)) hb
    | exact h.of_ports (fun r => by
        have hp := (State.SameBesideRestore.flashMove (flashMove_of_exec rfl he)).ports
        cases r
        exacts [hp.host, hp.service]) hb
    | exact Host.Outcome.next.inj he ▸ h.deliver _ _ _ _

end State.PortsSafe

/-- Settles O54: an event of a port leaves its FIFOs within 64 words and nothing takeable, and every other event leaves the ports
alone. -/
theorem portsStayWithinBounds : Obligations.PortsStayWithinBounds := by
  intro s t h he
  unfold step at he
  split at he
  · obtain rfl := Host.Outcome.next.inj he
    exact h.of_ports (fun _ => rfl) (bodies_kept.wordTime s h.bodies)
  · exact State.PortsSafe.exec _ (h.of_ports (fun p => by cases p <;> rfl) (bodies_kept.queue _ _ h.bodies)) he

end Sys2Proof.Machine
end

section
/-! PROOF. The queue, the clock and reset (O1, O2, O60). -/

namespace Sys2Proof.Machine

/-- Settles O1: `step` takes the front of the queue, and a word time advances every link's frame. -/
theorem stepTakesFront : Obligations.StepTakesFront := by
  refine ⟨fun c cs s hp => ?_, fun s hp => ⟨s.wordTime, ?_, rfl, State.link_wordTime s⟩⟩
  · unfold step
    rw [hp]
  · unfold step
    rw [hp]

/-- Settles O2: the state after a hard reset is the reset state with its flash, queue and counter, and with the strap high a restore
begun on it. -/
theorem hardResetReturnsToReset : Obligations.HardResetReturnsToReset := by
  intro strap powered s
  refine ⟨_, rfl, ?_⟩
  have hdevice : powered = true → (if powered then s.flash.device else none) = s.flash.device := fun h => if_pos h
  have hgone : powered = false → (if powered then s.flash.device else none) = none := fun h => if_neg (by rw [h]; decide)
  cases strap
  · exact ⟨fun _ => rfl, rfl, fun _ => rfl, rfl, rfl, rfl, fun _ => rfl, rfl, rfl, rfl, rfl, rfl, fun _ => rfl, rfl,
      fun p => (by cases p <;> rfl), rfl, fun p => (by cases p <;> rfl), rfl, rfl, rfl, fun _ => ⟨rfl, rfl, rfl⟩,
      fun h => (by cases h), hdevice, hgone⟩
  · exact ⟨fun _ => rfl, rfl, fun _ => rfl, rfl, rfl, rfl, fun _ => rfl, rfl, rfl, rfl, rfl, rfl, fun _ => rfl, rfl,
      fun p => (by cases p <;> rfl), rfl, fun p => (by cases p <;> rfl), rfl, rfl, rfl, fun h => (by cases h),
      fun _ => ⟨rfl, rfl, rfl⟩, hdevice, hgone⟩

/-! ### The reset state meets what the steps keep -/

theorem linksKept_reset : State.reset.LinksKept := fun _ => Link.Kept.reset

theorem modesKept_reset : State.reset.ModesKept := ⟨fun _ => ⟨rfl, rfl, rfl⟩, trivial⟩

theorem portsSafe_reset : State.reset.PortsSafe := by
  have hport : PortState.reset.Kept :=
    ⟨Nat.zero_le _, Nat.zero_le _, (fun _ hq => by cases hq), (fun _ hq => by cases hq), rfl⟩
  exact ⟨hport, hport, fun _ _ hb => (by cases hb), fun _ _ hp => (by cases hp)⟩

theorem itemsOnce_nil : ItemsOnce [] := ⟨Nat.zero_le _, List.nodup_nil, List.nodup_nil⟩

/-- Every condition of the stores holds where there is no row, no copy, no slot and no item. -/
theorem storesKept_of_empty {s : State} (hr : s.rows = []) (hx : s.spanIndex = []) (hc : s.copies = []) (hl : s.superseded = [])
    (hf : s.freeCount = Config.copies) (hk : s.slots = []) (hi : s.items = []) (hs : s.stagedItems = []) : s.StoresKept := by
  have hrow : ∀ r, s.row r = Row.free := fun r => by unfold State.row; rw [hr]; rfl
  have hcopy : ∀ c, s.copy c = Copy.free := fun c => by unfold State.copy; rw [hc]; rfl
  have hslot : ∀ k, s.slot k = Slot.free := fun k => by unfold State.slot; rw [hk]; rfl
  refine ⟨?_, ?_, ?_, fun r => ?_, fun c => ?_, fun k => ?_, fun r c => ?_, fun r c => ?_, fun r c => ?_, fun r c h => ?_,
    fun r h => ?_, ?_, ?_, ?_, ?_, fun r => ?_, fun r => ?_, fun r h => ?_, fun k => ?_, ?_, fun r => ?_, fun r => ?_, fun r => ?_,
    fun k => ?_⟩
  case refine_1 => rw [hr]; exact ⟨rfl, fun _ h => (by cases h)⟩
  case refine_2 => rw [hc]; exact ⟨rfl, fun _ h => (by cases h)⟩
  case refine_3 => rw [hk]; exact ⟨rfl, fun _ h => (by cases h)⟩
  case refine_12 => rw [hl]; exact ⟨List.nodup_nil, fun c => by simp [hcopy, Copy.free]⟩
  case refine_13 => rw [hf, State.copyCount, hc]; rfl
  case refine_14 => rw [hx]; exact ⟨List.Pairwise.nil, fun it => by simp [hrow, Row.free]⟩
  case refine_15 => rw [hi]; exact itemsOnce_nil
  case refine_20 => rw [hs]; exact itemsOnce_nil
  all_goals first
    | rw [hrow]; rfl
    | rw [hcopy]; rfl
    | rw [hslot]; rfl
    | simp_all [Row.free, Copy.free, Slot.free]

theorem storesKept_reset : State.reset.StoresKept := storesKept_of_empty rfl rfl rfl rfl rfl rfl rfl rfl

theorem requestCount_reset (p : Request → Bool) : State.reset.requestCount p = 0 := rfl

theorem holdsKept_reset : State.reset.HoldsKept where
  references _ := rfl
  named _ _ h := by cases h
  pins _ := rfl
  readers _ := rfl
  reading _ h := by cases h
  waiting _ _ _ h := by cases h
  watches _ _ := rfl
  watchSets _ := ⟨List.Pairwise.nil, fun _ h => by cases h⟩
  unheld _ := rfl
  unwatched _ _ := rfl
  unloaded _ := rfl
  untried h := by cases h

theorem spansKept_reset : State.reset.SpansKept where
  law _ _ _ _ h := by cases h
  staged _ _ _ h := by obtain h | h := h <;> cases h
  session _ _ _ h := by cases h

/-- Settles O60: the values are the reset state's own, and the conditions hold of stores, links and ports that are empty. -/
theorem resetIsHardResetAndSafe : Obligations.ResetIsHardResetAndSafe :=
  ⟨fun _ => rfl, rfl, fun _ => rfl, rfl, rfl, rfl, fun _ => rfl, rfl, rfl, rfl, rfl, rfl, fun _ => rfl, rfl, rfl,
    fun p => by cases p <;> rfl, rfl, rfl, fun p => by cases p <;> rfl, rfl, linksKept_reset, modesKept_reset, portsSafe_reset, rfl,
    storesKept_reset, holdsKept_reset, spansKept_reset⟩

end Sys2Proof.Machine
end

section
/-! PROOF. Commands that one definition of the command processor answers (O4, O6, O12, O22, O24). -/

namespace Sys2Proof.Machine

variable {s : State} {p : Port} {x : Session}

/-- A whole command of right form at a quiet port, none of the edit commands, does what its kind does and is answered. -/
theorem exec_plain {k : CmdKind} (seq : Half) {args : List Word} (h : s.Ready p k) (hk : k ≠ .query) (he : k.isEdit = false)
    (ha : args.length ≤ 63) (hl : lengthOk k args = true) (hg : rangeOk k args = true) :
    exec (commandOf p seq args k) s = .next ((s.perform p k args).1.respond p seq (s.perform p k args).2) := by
  rw [exec_commandOf p seq args hk, deliver_perform seq h ha hl hg hk]
  simp only [he, Bool.false_eq_true, if_false]

/-- An edit command of right form from the owner does what its kind does once the timer has restarted. -/
theorem exec_owner {k : CmdKind} (seq : Half) {args : List Word} (h : s.Ready p k) (ho : s.Owns p x) (he : k.isEdit = true)
    (ha : args.length ≤ 63) (hl : lengthOk k args = true) (hg : rangeOk k args = true) :
    exec (commandOf p seq args k) s =
      .next (((s.timerRestarted x).perform p k args).1.respond p seq ((s.timerRestarted x).perform p k args).2) := by
  rw [exec_commandOf p seq args (by rintro rfl; cases he), deliver_owner seq h ho he ha hl hg]

/-! ### START_EMPTY, HOLD, RESUME, RESTORE (10.4, R171) -/

theorem takeGate_working {o : OpState} (h : s.opState.working = true) :
    s.takeGate o = (s.setOpState o, { code := .done, data := [s.opWord] }) := by simp only [State.takeGate, h, if_true]

theorem takeGate_idle {o : OpState} (h : s.opState.working = false) :
    s.takeGate o = (s, { code := .notReady, data := [s.opWord] }) := by simp [State.takeGate, h]

theorem setOpState_same {o : OpState} (h : s.opState = o) : s.setOpState o = s := by subst h; rfl

theorem opWord_eq (o : OpState) (h : s.opState = o) : s.opWord = BitVec.ofNat 32 o.code := by
  subst h
  unfold State.opWord
  cases s.opState <;> rfl

/-- No slot is read just when the readers of all slots add up to none (R56). -/
theorem totalReaders_eq_zero : s.totalReaders = 0 ↔ ∀ k, (s.slot k).readerCount = 0 := by
  unfold State.totalReaders
  rw [List.sum_eq_zero_iff_forall_eq_nat]
  constructor
  · intro h k
    by_cases hk : s.slot k = Slot.free
    · rw [hk]; rfl
    · exact h _ (List.mem_map.2 ⟨k, mem_keys_of_ne hk, rfl⟩)
  · rintro h v hv
    obtain ⟨k, -, rfl⟩ := List.mem_map.1 hv
    exact h k

theorem allRowsFree_iff : s.allRowsFree = true ↔ ∀ r, (s.row r).phase = .free := by
  unfold State.allRowsFree
  rw [List.all_eq_true]
  constructor
  · intro h r
    by_cases hr : s.row r = Row.free
    · rw [hr]; rfl
    · exact of_decide_eq_true (h r (mem_keys_of_ne hr))
  · exact fun h r _ => decide_eq_true (h r)

theorem restoreOrigin_iff (o : Origin) : s.restoreOrigin = some o ↔ s.opState = .cold ∧ o = .cold ∨
    s.opState = .held ∧ o = .held ∧ (∀ r, (s.row r).phase = .free) ∧ s.session = none ∧ s.staged = none ∧
      (∀ k, (s.slot k).readerCount = 0) := by
  rw [← allRowsFree_iff, ← totalReaders_eq_zero]
  unfold State.restoreOrigin
  cases s.opState
  case cold => cases o <;> simp
  case held => cases o <;> simp
  all_goals simp

/-- Settles O22: each command by the operating state it finds, RESTORE by the origin a restore would have. -/
theorem operatingStateCommands : Obligations.OperatingStateCommands := by
  intro p seq s
  have hstart := fun h : s.Ready p .startEmpty => exec_plain (args := []) seq h (by decide) rfl (Nat.zero_le _) rfl rfl
  have hhold := fun h : s.Ready p .hold => exec_plain (args := []) seq h (by decide) rfl (Nat.zero_le _) rfl rfl
  have hresume := fun h : s.Ready p .resume => exec_plain (args := []) seq h (by decide) rfl (Nat.zero_le _) rfl rfl
  refine ⟨fun h ho => ?_, fun h ho => ?_, fun h ho => ?_, fun h ho => ?_, fun h ho => ?_, fun h ho => ?_, fun h ho => ?_,
    fun h ho => ?_, fun h ho => ?_, fun h ho => ?_, fun h => ?_⟩
  · refine (hstart h).trans ?_
    simp only [State.perform, State.takeStartEmpty, ho, if_true]
    rfl
  · refine (hstart h).trans ?_
    simp only [State.perform, State.takeStartEmpty, ho, if_false]
    rfl
  · refine (hhold h).trans ?_
    simp only [State.perform, State.takeHold, takeGate_working (s := s) (by rw [ho]; rfl), opWord_eq _ ho]
    rfl
  · refine (hhold h).trans ?_
    simp only [State.perform, State.takeHold, takeGate_working (s := s) (by rw [ho]; rfl), opWord_eq _ ho, setOpState_same ho]
    rfl
  · refine (hhold h).trans ?_
    simp only [State.perform, State.takeHold, takeGate_idle (s := s) (by rw [ho]; rfl), opWord_eq _ ho]
    rfl
  · refine (hhold h).trans ?_
    simp only [State.perform, State.takeHold, takeGate_idle (s := s) (by rw [ho]; rfl), opWord_eq _ ho]
    rfl
  · refine (hresume h).trans ?_
    simp only [State.perform, State.takeResume, takeGate_working (s := s) (by rw [ho]; rfl), opWord_eq _ ho]
    rfl
  · refine (hresume h).trans ?_
    simp only [State.perform, State.takeResume, takeGate_working (s := s) (by rw [ho]; rfl), opWord_eq _ ho, setOpState_same ho]
    rfl
  · refine (hresume h).trans ?_
    simp only [State.perform, State.takeResume, takeGate_idle (s := s) (by rw [ho]; rfl), opWord_eq _ ho]
    rfl
  · refine (hresume h).trans ?_
    simp only [State.perform, State.takeResume, takeGate_idle (s := s) (by rw [ho]; rfl), opWord_eq _ ho]
    rfl
  · have hrestore : exec (.restore p seq []) s = _ := exec_plain (args := []) seq h (by decide) rfl (Nat.zero_le _) rfl rfl
    rw [hrestore]
    refine ⟨fun hs => ?_, fun hs ho => ?_, fun o hs ho => ⟨fun he => ?_, fun he => ?_⟩⟩
    · simp only [State.perform, State.takeRestore, hs, if_true]
      rfl
    · have hnone : s.restoreOrigin = none := by
        rw [Option.eq_none_iff_forall_ne_some]
        intro o hso
        obtain ⟨hc, -⟩ | ⟨hh, -, hr, hx, ht, hk⟩ := (restoreOrigin_iff o).1 hso
        · simp [hc] at ho
        · obtain ho | ho | ⟨-, ⟨r, hr'⟩ | hx' | ht' | ⟨k, hk'⟩⟩ := ho
          · rw [hh] at ho; cases ho
          · rw [hh] at ho; cases ho
          · exact hr' (hr r)
          · exact hx' hx
          · exact ht' ht
          · rw [hk k] at hk'; cases hk'
      simp only [State.perform, State.takeRestore, hs, Bool.false_eq_true, if_false, hnone]
      rfl
    · simp only [State.perform, State.takeRestore, hs, Bool.false_eq_true, if_false, (restoreOrigin_iff o).2 ho,
        if_neg (Nat.not_le.2 he)]
      rfl
    · simp only [State.perform, State.takeRestore, hs, Bool.false_eq_true, if_false, (restoreOrigin_iff o).2 ho, if_pos he]
      rfl

/-! ### SET_PARAM (R193, R41) -/

theorem checkArm_eq (s : State) : s.checkArm = s.setLowArmed (if s.params.poolWatermark ≤ s.freeCount then true else s.lowArmed) := by
  unfold State.checkArm
  split <;> rfl

/-- SET_PARAM with a value in range replaces the parameter and is answered. -/
theorem exec_setParam (seq : Half) {w : Word} (h : s.Ready p .setParam) (hv : paramOk (bitsAt w 24 8) (bitsAt w 0 16) = true) :
    exec (.setParam p seq [w]) s = .next ((s.takeSetParam (bitsAt w 24 8) (bitsAt w 0 16)).1.respond p seq
      (s.takeSetParam (bitsAt w 24 8) (bitsAt w 0 16)).2) :=
  exec_plain (args := [w]) seq h (by decide) rfl (Nat.le_of_ble_eq_true rfl) rfl hv

/-- Settles O24: the four selectors, the watermark's with its check of the detector. -/
theorem setParamReplaces : Obligations.SetParamReplaces := by
  intro p seq w s v h hv
  subst hv
  refine ⟨fun hsel h1 h2 => ?_, fun hsel h1 h2 => ?_, fun hsel h1 => ?_, fun hsel h1 => ?_⟩
  · rw [exec_setParam seq h (by simp [hsel, paramOk, h1, h2]), hsel]
    rfl
  · rw [exec_setParam seq h (by simp [hsel, paramOk, h1, h2]), hsel]
    rfl
  · rw [exec_setParam seq h (by simp [hsel, paramOk, h1]), hsel]
    simp only [State.takeSetParam, if_true, checkArm_eq]
    rfl
  · rw [exec_setParam seq h (by simp [hsel, paramOk, h1]), hsel]
    have hold : flagBit s.params.markerEnable = if s.params.markerEnable then 1 else 0 := by cases s.params.markerEnable <;> rfl
    rw [← hold]
    generalize bitsAt w 0 16 = v at h1
    obtain rfl | rfl : v = 0 ∨ v = 1 := by omega
    · rfl
    · rfl

/-! ### OPEN_EDIT and TOUCH (R60, R80) -/

/-- An edit command of right form to a port that does not own the session finds the timer as it was. -/
theorem exec_edit {k : CmdKind} (seq : Half) {args : List Word} (h : s.Ready p k) (he : k.isEdit = true)
    (ha : args.length ≤ 63) (hl : lengthOk k args = true) (hg : rangeOk k args = true) :
    exec (commandOf p seq args k) s =
      .next (((s.restartTimer p).perform p k args).1.respond p seq ((s.restartTimer p).perform p k args).2) := by
  rw [exec_commandOf p seq args (by rintro rfl; cases he), deliver_perform seq h ha hl hg (by rintro rfl; cases he)]
  simp only [he, if_true]

end Sys2Proof.Machine
end

section
/-! PROOF. OPEN_EDIT, TOUCH, the profile commands and LINK_STATUS (O6, O12, O4). -/

namespace Sys2Proof.Machine

variable {s : State} {p : Port} {x : Session}

/-- An edit command other than OPEN_EDIT, of right form and from the owner, does its own part once the timer has restarted (R59). -/
theorem exec_guarded {k : CmdKind} (seq : Half) {args : List Word} {act : State → State × Reply} (h : s.Ready p k) (ho : s.Owns p x)
    (he : k.isEdit = true) (ha : args.length ≤ 63) (hl : lengthOk k args = true) (hg : rangeOk k args = true)
    (hact : ∀ u : State, u.perform p k args = u.guardEdit p act) :
    exec (commandOf p seq args k) s =
      .next ((act (s.timerRestarted x)).1.respond p seq (act (s.timerRestarted x)).2) := by
  rw [exec_owner seq h ho he ha hl hg, hact, guardEdit_owner (Owns_timerRestarted ho)]

theorem editRefusal_idle (h : s.opState.working = false) : s.editRefusal p = some .notReady := by
  unfold State.editRefusal
  refine if_pos ?_
  revert h
  cases s.opState <;> simp [OpState.working]

theorem not_idle_of_working (h : s.opState.working = true) : ¬(s.opState = .cold ∨ s.opState = .restoring) := by
  revert h
  cases s.opState <;> simp [OpState.working]

theorem idle_of_not_working (h : s.opState.working = false) : s.opState = .cold ∨ s.opState = .restoring := by
  revert h
  cases s.opState <;> simp [OpState.working]

theorem editRefusal_noSession (h : s.opState.working = true) (hn : s.session = none) : s.editRefusal p = some .noSession := by
  unfold State.editRefusal
  rw [if_neg (not_idle_of_working h), hn]

theorem editRefusal_notOwner (h : s.opState.working = true) (hx : s.session = some x) (ho : x.owner ≠ p) :
    s.editRefusal p = some .notOwner := by
  unfold State.editRefusal
  rw [if_neg (not_idle_of_working h), hx]
  exact if_neg ho

theorem guardEdit_refused {c : Code} (h : s.editRefusal p = some c) (act : State → State × Reply) :
    s.guardEdit p act = (s, .bare c) := by simp only [State.guardEdit, h]

/-- Settles O6: the lock decides OPEN_EDIT, and the checks of every edit command decide TOUCH. -/
theorem openEditAndTouch : Obligations.OpenEditAndTouch := by
  intro p seq s
  refine ⟨fun h => ?_, fun h hw => ?_⟩
  · have hexec : exec (.openEdit p seq []) s = _ := exec_edit (args := []) seq h rfl (Nat.zero_le _) rfl rfl
    refine ⟨fun hw hn => ?_, fun x hw hx ho => ?_, fun x ho => ?_, fun hw hn => ?_⟩
    · rw [hexec, restartTimer_of_none hn]
      simp only [State.perform, State.takeOpenEdit, if_neg (not_idle_of_working hw), hn]
      rfl
    · rw [hexec, restartTimer_other hx ho]
      simp only [State.perform, State.takeOpenEdit, if_neg (not_idle_of_working hw), hx, if_neg ho]
      rfl
    · rw [hexec, restartTimer_owner ho]
      have hown := Owns_timerRestarted ho
      simp only [State.perform, State.takeOpenEdit, if_neg (not_idle_of_working hown.working), hown.session, if_pos hown.owner]
      rfl
    · rw [hexec, restartTimer_of_none hn]
      simp only [State.perform, State.takeOpenEdit, if_pos (idle_of_not_working hw)]
      rfl
  · have hexec : exec (.touch p seq []) s = _ := exec_edit (args := []) seq h rfl (Nat.zero_le _) rfl rfl
    refine ⟨fun x hx ho => ?_, fun x hx ho => ?_, fun hn => ?_⟩
    · have hown : s.Owns p x := ⟨hw, hx, ho⟩
      rw [hexec, restartTimer_owner hown]
      simp only [State.perform, State.takeTouch, guardEdit_owner (Owns_timerRestarted hown), itemCountWord_timerRestarted]
      rfl
    · rw [hexec, restartTimer_other hx ho]
      simp only [State.perform, State.takeTouch, guardEdit_refused (editRefusal_notOwner hw hx ho)]
      rfl
    · rw [hexec, restartTimer_of_none hn]
      simp only [State.perform, State.takeTouch, guardEdit_refused (editRefusal_noSession hw hn)]
      rfl

/-! ### Profiles (R49, R50) -/

theorem defineProfile_setFull {k : Nat} {pts : List Point} (hst : (s.slot k).state = .free) (hv : pointsValid pts = true)
    (hfull : 96 ≤ s.items.length) : s.defineProfile k pts = (s, .bare .setFull) := by
  simp only [State.defineProfile, hst, hv, Bool.true_eq_false, if_false]
  exact if_pos hfull

theorem exec_dropProfile_owner (seq : Half) {w : Word} (h : s.Ready p .dropProfile) (ho : s.Owns p x) (hk : bitsAt w 0 16 < 32) :
    exec (.dropProfile p seq [w]) s = .next (((s.timerRestarted x).dropProfile (bitsAt w 0 16)).1.respond p seq
      ((s.timerRestarted x).dropProfile (bitsAt w 0 16)).2) :=
  exec_guarded (args := [w]) seq h ho rfl (Nat.le_of_ble_eq_true rfl) rfl (decide_eq_true hk) (fun _ => rfl)

/-- Settles O12: DEFINE_PROFILE and DROP_PROFILE of the owner by the slot's state and what holds it. -/
theorem profileEditsTaken : Obligations.ProfileEditsTaken := by
  refine ⟨fun p seq args s x k h ho hk hk32 hlen ha => ?_, fun p seq w s x k h ho hk hk32 => ?_⟩
  · subst hk
    have hexec := exec_defineProfile_owner seq h ho hk32 hlen ha
    generalize bitsAt (argAt args 0) 0 16 = k at *
    generalize (args.drop 1).map pointOfWord = pts at *
    rw [hexec]
    obtain rfl := ho.owner
    refine ⟨fun hst => ?_, fun hv => ⟨fun hst hroom => ?_, fun hst hfull => ?_, fun hst => ?_⟩⟩
    · obtain hst | hst := hst <;>
        simp only [State.defineProfile, timerRestarted_slot, hst] <;> rfl
    · simp only [State.defineProfile, timerRestarted_slot, hst, hv, Bool.true_eq_false, if_false, items_timerRestarted,
        if_neg (Nat.not_le.2 hroom), items_putSlot, putItems_putSlot_timerRestarted, itemCountWord_putSlot, itemCountWord_withItems,
        List.length_append, List.length_singleton]
      rfl
    · dsimp only
      rw [defineProfile_setFull (s := s.timerRestarted x) hst hv (by rwa [items_timerRestarted])]
      rfl
    · simp only [State.defineProfile, timerRestarted_slot, hst, hv, Bool.true_eq_false, if_false, itemCountWord_putSlot,
        itemCountWord_timerRestarted]
      rfl
  · subst hk
    have hexec := exec_dropProfile_owner seq h ho hk32
    generalize bitsAt w 0 16 = k at *
    rw [hexec]
    obtain rfl := ho.owner
    refine ⟨fun hs => ?_, fun hs hst hr hu => ?_, fun hs hst hr => ?_, fun hs hst hu => ?_, fun hs hst hr => ?_, fun hs hst => ?_⟩
    · simp only [State.dropProfile, timerRestarted_saving, hs, if_true]
      rfl
    · simp only [State.dropProfile, timerRestarted_saving, hs, Bool.false_eq_true, if_false, timerRestarted_slot, hst, hr, hu,
        Nat.lt_irrefl, or_self]
      rfl
    · simp only [State.dropProfile, timerRestarted_saving, hs, Bool.false_eq_true, if_false, timerRestarted_slot, hst, hr,
        Nat.lt_irrefl, items_putSlot, items_timerRestarted, putItems_putSlot_timerRestarted]
      rfl
    · simp only [State.dropProfile, timerRestarted_saving, hs, Bool.false_eq_true, if_false, timerRestarted_slot, hst, hu, if_true]
      rfl
    · simp only [State.dropProfile, timerRestarted_saving, hs, Bool.false_eq_true, if_false, timerRestarted_slot, hst, hr, if_true]
      rfl
    · obtain hst | hst := hst <;>
        simp only [State.dropProfile, timerRestarted_saving, hs, Bool.false_eq_true, if_false, timerRestarted_slot, hst] <;> rfl

/-! ### LINK_STATUS (R122, 11.8) -/

/-- Settles O4: the report is built of the link as it stands, and the counters are cleared after it. -/
theorem linkStatusReports : Obligations.LinkStatusReports := by
  intro p seq w s l ws h hn hl hws
  have hreport : ws = l.statusWords := by
    rw [hws]
    cases hno : l.notices <;> cases htx : l.tx <;> simp only [Link.statusWords, Link.sendingCode, hno, htx] <;> rfl
  subst hreport hl
  have hexec : exec (.linkStatus p seq [w]) s = _ :=
    exec_plain (args := [w]) seq h (by decide) rfl (Nat.le_of_ble_eq_true rfl) rfl (decide_eq_true hn)
  have hperform : s.perform p .linkStatus [w] = s.linkStatus (bitsAt w 0 16) (w.getLsbD 16) := rfl
  rw [hexec, hperform]
  refine ⟨fun hc => ?_, fun hc => ?_, Link.statusWords_length _⟩
  · rw [hc]
    rfl
  · rw [hc]
    rfl

end Sys2Proof.Machine
end

section
/-! PROOF. What INSERT, AMEND, RETIRE and SEAL are refused with (O14). -/

namespace Sys2Proof.Machine

variable {s : State} {p : Port} {x : Session}

/-! ### The edit commands of the owner as their words carry them -/

/-- What a command of the owner answers when its own part refuses it: nothing but the timer changes (R59). -/
theorem refused_answer (seq : Half) {act : State → State × Reply} {c : Code} {o : Host.Outcome State Fault Refusal}
    (he : o = .next ((act (s.timerRestarted x)).1.respond p seq (act (s.timerRestarted x)).2))
    (hact : act (s.timerRestarted x) = (s.timerRestarted x, .bare c)) :
    o = .next ((s.timerRestarted x).answered p seq c []) := by
  rw [he, hact]
  rfl

theorem exec_amend_owner (seq : Half) {args : List Word} (h : s.Ready p .amend) (ho : s.Owns p x)
    (hr : bitsAt (argAt args 0) 0 16 < 1024)
    (hl : args.length = 3 + (if (argAt args 0).getLsbD 22 then bitsAt (argAt args 2) 24 4 else 0)) :
    exec (.amend p seq args) s =
      let u := (s.timerRestarted x).amendRow (bitsAt (argAt args 0) 0 16) (selectsSome (argAt args 0))
        (amendBody (argAt args 0) (argAt args 1) (argAt args 2) (args.drop 3))
      .next (u.1.respond p seq u.2) := by
  have hfits : args.length ≤ 63 := by
    have := bitsAt_lt_two_pow (argAt args 2) 24 4
    split at hl <;> omega
  exact exec_guarded seq h ho rfl hfits (decide_eq_true hl) (decide_eq_true hr) (fun _ => rfl)

theorem exec_retire_owner (seq : Half) {w : Word} (h : s.Ready p .retire) (ho : s.Owns p x) (hr : bitsAt w 0 16 < 1024) :
    exec (.retire p seq [w]) s =
      let u := (s.timerRestarted x).retireRow (bitsAt w 0 16)
      .next (u.1.respond p seq u.2) :=
  exec_guarded (args := [w]) seq h ho rfl (Nat.le_of_ble_eq_true rfl) rfl (decide_eq_true hr) (fun _ => rfl)

theorem sealSession_rangeOk {w : Word} (hw : w = 0#32 ∨ w = 1#32) : rangeOk .sealSession [w] = true := by
  obtain rfl | rfl := hw <;> rfl

theorem exec_seal_owner (seq : Half) {w : Word} (h : s.Ready p .sealSession) (ho : s.Owns p x) (hw : w = 0#32 ∨ w = 1#32) :
    exec (.sealSession p seq [w]) s =
      let u := (s.timerRestarted x).sealWith (policyOfWord w)
      .next (u.1.respond p seq u.2) :=
  exec_guarded (args := [w]) seq h ho rfl (Nat.le_of_ble_eq_true rfl) rfl (sealSession_rangeOk hw) (fun _ => rfl)

/-! ### The overlap check (R6) -/

theorem hasRetire_iff {items : List ChangeItem} {r : Nat} : hasRetire items r = true ↔ .retire r ∈ items := by
  simp [hasRetire]

theorem considered_iff {items : List ChangeItem} {r : Nat} : s.considered items r = true ↔
    ((s.row r).phase = .live ∨ (s.row r).phase = .newStaged) ∧ .retire r ∉ items ∨ (s.row r).phase = .newDraft := by
  unfold State.considered
  rw [← hasRetire_iff]
  cases (s.row r).phase <;> simp

/-- A row whose span is absent overlaps nothing, so every row that the check finds is in the table. -/
theorem overlapFound_iff {items : List ChangeItem} {sp : Span} : s.overlapFound items sp = true ↔
    ∃ r sp', (s.row r).span = some sp' ∧ sp.overlaps sp' = true ∧ s.considered items r = true := by
  unfold State.overlapFound
  rw [List.any_eq_true]
  constructor
  · rintro ⟨r, -, hr⟩
    rw [Bool.and_eq_true] at hr
    unfold State.overlapsRow at hr
    cases hsp : (s.row r).span with
    | none => rw [hsp] at hr; cases hr.2
    | some sp' => rw [hsp] at hr; exact ⟨r, sp', hsp, hr.2, hr.1⟩
  · rintro ⟨r, sp', hsp, hover, hcons⟩
    refine ⟨r, mem_keys_of_ne (d := Row.free) fun hfree => ?_, ?_⟩
    · have hrow : s.row r = Row.free := hfree
      rw [hrow] at hsp
      cases hsp
    · simp only [State.overlapsRow, hsp, hcons, hover, Bool.and_self]

/-! ### INSERT (R64) -/

theorem insertRefusal_badField {sp : Span} {b : Body} (hv : sp.valid = true) (hb : s.bodyValid sp.count b = false) :
    s.insertRefusal sp b = some .badField := by simp [State.insertRefusal, hv, hb]

theorem insertRefusal_spanOverlap {sp : Span} {b : Body} (hv : sp.valid = true) (hb : s.bodyValid sp.count b = true)
    (ho : s.overlapFound s.items sp = true) : s.insertRefusal sp b = some .spanOverlap := by
  simp [State.insertRefusal, hv, hb, ho]

theorem insertRefusal_setFull {sp : Span} {b : Body} (hv : sp.valid = true) (hb : s.bodyValid sp.count b = true)
    (ho : s.overlapFound s.items sp = false) (hf : 96 ≤ s.items.length) : s.insertRefusal sp b = some .setFull := by
  simp [State.insertRefusal, hv, hb, ho, hf]

theorem insertRefusal_none {sp : Span} {b : Body} (hv : sp.valid = true) (hb : s.bodyValid sp.count b = true)
    (ho : s.overlapFound s.items sp = false) (hf : s.items.length < 96) : s.insertRefusal sp b = none := by
  simp [State.insertRefusal, hv, hb, ho, hf]

/-- The search for the lowest number of a kind finds none just when there is none. -/
theorem lowestFrom_eq_none {q : Nat → Bool} : ∀ {n i : Nat}, (∀ k, i ≤ k → k < i + n → q k = false) → lowestFrom q n i = none
  | 0, _, _ => rfl
  | n + 1, i, h => by
    rw [lowestFrom, h i (Nat.le_refl i) (by omega)]
    exact lowestFrom_eq_none fun k hk hkn => h k (by omega) (by omega)

theorem lowestFreeRow_eq_none (h : ∀ r < 1024, (s.row r).phase ≠ .free) : s.lowestFreeRow = none :=
  lowestFrom_eq_none fun k _ hk => decide_eq_false (h k (by simpa using hk))

theorem lowestFreeCopy_eq_none (h : ∀ c < 2560, (s.copy c).state ≠ .free) : s.lowestFreeCopy = none :=
  lowestFrom_eq_none fun k _ hk => decide_eq_false (h k (by simpa using hk))

/-- The lowest number of a kind is found when there is one. -/
theorem lowestFrom_isSome {q : Nat → Bool} {n i k : Nat} (hi : i ≤ k) (hk : k < i + n) (hq : q k = true) :
    ∃ j, lowestFrom q n i = some j := by
  induction n generalizing i with
  | zero => omega
  | succ n ih =>
    unfold lowestFrom
    by_cases h0 : q i = true
    · exact ⟨i, by rw [if_pos h0]⟩
    · rw [if_neg h0]
      refine ih ?_ (by omega)
      obtain rfl | h := Nat.eq_or_lt_of_le hi
      · exact absurd hq h0
      · exact h

theorem insertSpan_rowsFull {sp : Span} {b : Body} (h : s.insertRefusal sp b = none) (hr : s.lowestFreeRow = none) :
    s.insertSpan sp b = (s, .bare .rowsFull) := by simp only [State.insertSpan, h, hr]

theorem insertSpan_poolFull {sp : Span} {b : Body} {r : Nat} (h : s.insertRefusal sp b = none) (hr : s.lowestFreeRow = some r)
    (hc : s.lowestFreeCopy = none) : s.insertSpan sp b = (s, .bare .poolFull) := by simp only [State.insertSpan, h, hr, hc]

/-! ### AMEND (R67) -/

theorem amendRow_refused {r : Nat} {sel : Bool} {f : Body → Body} {c : Code}
    (h : s.amendRefusal r sel (f (s.bodyOf (orZero (s.row r).amendSource))) = some c) : s.amendRow r sel f = (s, .bare c) := by
  simp only [State.amendRow, h]

theorem amendRefusal_noRow {r : Nat} {sel : Bool} {b : Body} (h : (s.row r).phase = .free ∨ (s.row r).phase = .dead) :
    s.amendRefusal r sel b = some .noRow := if_pos h

theorem amendRefusal_rowState {r : Nat} {sel : Bool} {b : Body} (hf : (s.row r).phase ≠ .free) (hd : (s.row r).phase ≠ .dead)
    (h : (s.row r).phase = .dying ∨ .retire r ∈ s.items) : s.amendRefusal r sel b = some .rowState := by
  rw [← hasRetire_iff] at h
  simp only [State.amendRefusal, hf, hd, or_self, if_false, h, if_true]

theorem amendRefusal_badField {r : Nat} {sel : Bool} {b : Body}
    (hp : (s.row r).phase = .newDraft ∨ (s.row r).phase = .newStaged ∨ (s.row r).phase = .live) (hx : .retire r ∉ s.items)
    (h : sel = false ∨ s.bodyValid (s.spanOf r).count b = false) : s.amendRefusal r sel b = some .badField := by
  rw [← hasRetire_iff] at hx
  unfold State.amendRefusal
  rw [if_neg (by obtain hp | hp | hp := hp <;> simp [hp]), if_neg (by obtain hp | hp | hp := hp <;> simp [hp, hx]), if_pos h]

theorem amendRefusal_none {r : Nat} {sel : Bool} {b : Body}
    (hp : (s.row r).phase = .newDraft ∨ (s.row r).phase = .newStaged ∨ (s.row r).phase = .live) (hx : .retire r ∉ s.items)
    (hs : sel = true) (hb : s.bodyValid (s.spanOf r).count b = true) : s.amendRefusal r sel b = none := by
  rw [← hasRetire_iff] at hx
  unfold State.amendRefusal
  rw [if_neg (by obtain hp | hp | hp := hp <;> simp [hp]), if_neg (by obtain hp | hp | hp := hp <;> simp [hp, hx]),
    if_neg (by simp [hs, hb])]

theorem hasDraftItem_iff {items : List ChangeItem} {r : Nat} :
    hasDraftItem items r = true ↔ .insert r ∈ items ∨ .amend r ∈ items := by simp [hasDraftItem]

theorem amendRow_setFull {r : Nat} {sel : Bool} {f : Body → Body}
    (h : s.amendRefusal r sel (f (s.bodyOf (orZero (s.row r).amendSource))) = none) (hd : hasDraftItem s.items r = false)
    (hf : 96 ≤ s.items.length) : s.amendRow r sel f = (s, .bare .setFull) := by
  simp only [State.amendRow, h, hd, Bool.false_eq_true, if_false]
  exact if_pos hf

theorem amendRow_poolFull {r : Nat} {sel : Bool} {f : Body → Body}
    (h : s.amendRefusal r sel (f (s.bodyOf (orZero (s.row r).amendSource))) = none) (hd : hasDraftItem s.items r = false)
    (hf : s.items.length < 96) (hc : s.lowestFreeCopy = none) : s.amendRow r sel f = (s, .bare .poolFull) := by
  simp only [State.amendRow, h, hd, Bool.false_eq_true, if_false, hc]
  exact if_neg (Nat.not_le.2 hf)

/-- The copy that AMEND writes over, as an `or` of the row's copies (R67 step 3). -/
theorem amendSource_eq (x : Row) : x.amendSource = (x.draft.or x.staged).or x.live := by
  unfold Row.amendSource Row.base
  cases x.draft <;> cases x.staged <;> rfl

theorem orZero_eq_getD (o : Option Nat) : orZero o = o.getD 0 := by cases o <;> rfl

/-- The selection of AMEND is empty just when none of its seven bits is set (11.5). -/
theorem selectsSome_iff (w : Word) : selectsSome w = true ↔ bitsAt w 16 7 ≠ 0 := by simp [selectsSome]

/-! ### RETIRE (R70) -/

theorem retireRow_refused {r : Nat} {c : Code} (h : s.retireRefusal r = some c) : s.retireRow r = (s, .bare c) := by
  simp only [State.retireRow, h]

theorem retireRefusal_noRow {r : Nat} (h : (s.row r).phase = .free ∨ (s.row r).phase = .dead) :
    s.retireRefusal r = some .noRow := by
  obtain h | h := h <;> simp only [State.retireRefusal, h]

theorem retireRefusal_rowState {r : Nat} (hf : (s.row r).phase ≠ .free) (hd : (s.row r).phase ≠ .dead)
    (h : (s.row r).phase = .dying ∨ .retire r ∈ s.items) : s.retireRefusal r = some .rowState := by
  rw [← hasRetire_iff] at h
  unfold State.retireRefusal
  cases hp : (s.row r).phase <;> simp_all

theorem retireRefusal_none {r : Nat}
    (hp : (s.row r).phase = .newDraft ∨ (s.row r).phase = .newStaged ∨ (s.row r).phase = .live) (hx : .retire r ∉ s.items) :
    s.retireRefusal r = none := by
  rw [← hasRetire_iff] at hx
  obtain hp | hp | hp := hp <;> simp [State.retireRefusal, hp, hx]

theorem retireOutcome_added {r : Nat} (hp : (s.row r).phase ≠ .newDraft) (hx : .amend r ∉ s.items) :
    s.retireOutcome r = .added := by simp [State.retireOutcome, hp, hx]

theorem retireRow_setFull {r : Nat} (h : s.retireRefusal r = none) (ho : s.retireOutcome r = .added) (hf : 96 ≤ s.items.length) :
    s.retireRow r = (s, .bare .setFull) := by
  simp only [State.retireRow, h]
  exact if_pos ⟨ho, hf⟩

/-- Settles O14: each refusal is the first check that fails, on the state with its timer restarted, whose stores and change set are
those before. -/
theorem editCommandsRefused : Obligations.EditCommandsRefused := by
  refine ⟨fun p seq args s x sp b h ho hl hsp hb hv => ?_, fun p seq args s x b r h ho hr hr32 hl hb => ?_,
    fun p seq w s x r h ho hr hr32 => ?_, fun p seq w s x st h ho hw hst => ?_⟩
  · subst hsp hb
    have hexec := exec_insert_owner seq h ho hl
    have hitems : (s.timerRestarted x).items = x.items := items_timerRestarted s x
    generalize spanOfWord (argAt args 0) = sp at *
    generalize bodyOfWords (argAt args 1) (argAt args 2) (args.drop 3) = b at *
    have hnone : (∀ r sp', (s.row r).span = some sp' → sp.overlaps sp' = true →
        ¬(((s.row r).phase = .live ∨ (s.row r).phase = .newStaged) ∧ .retire r ∉ x.items ∨ (s.row r).phase = .newDraft)) →
        (s.timerRestarted x).overlapFound (s.timerRestarted x).items sp = false := fun hno => by
      rw [Bool.eq_false_iff, Ne, overlapFound_iff]
      rintro ⟨r, sp', hspan, hover, hcons⟩
      rw [hitems] at hcons
      exact hno r sp' hspan hover (considered_iff.1 hcons)
    refine ⟨fun hbad => ?_, fun r sp' hbok hspan hover hcons => ?_, fun hbok hno => ⟨fun hf => ?_, fun hf hrows => ?_,
      fun hf hrow hcopies => ?_⟩⟩
    · exact refused_answer seq hexec (insertSpan_of_refusal (insertRefusal_badField hv hbad))
    · refine refused_answer seq hexec (insertSpan_of_refusal (insertRefusal_spanOverlap hv hbok ?_))
      rw [hitems]
      exact overlapFound_iff.2 ⟨r, sp', hspan, hover, considered_iff.2 hcons⟩
    · exact refused_answer seq hexec (insertSpan_of_refusal (insertRefusal_setFull hv hbok (hnone hno) (by rwa [hitems])))
    · exact refused_answer seq hexec (insertSpan_rowsFull (insertRefusal_none hv hbok (hnone hno) (by rwa [hitems]))
        (lowestFreeRow_eq_none hrows))
    · obtain ⟨r, hr, hfree⟩ := hrow
      obtain ⟨r', hr'⟩ : ∃ r', (s.timerRestarted x).lowestFreeRow = some r' :=
        lowestFrom_isSome (Nat.zero_le r) (by simpa using hr) (decide_eq_true hfree)
      exact refused_answer seq hexec (insertSpan_poolFull (insertRefusal_none hv hbok (hnone hno) (by rwa [hitems])) hr'
        (lowestFreeCopy_eq_none hcopies))
  · rw [← amendSource_eq, ← orZero_eq_getD] at hb
    subst hr hb
    have hexec := exec_amend_owner seq h ho hr32 hl
    have hitems : (s.timerRestarted x).items = x.items := items_timerRestarted s x
    have hsel := selectsSome_iff (argAt args 0)
    generalize bitsAt (argAt args 0) 0 16 = r at *
    generalize amendBody (argAt args 0) (argAt args 1) (argAt args 2) (args.drop 3) = f at *
    refine ⟨fun hp => ?_, fun hf hd hp => ?_, fun hp hx => ⟨fun hbad => ?_, fun hs hbok hi ha => ?_⟩⟩
    · exact refused_answer seq hexec (amendRow_refused (amendRefusal_noRow hp))
    · exact refused_answer seq hexec (amendRow_refused (amendRefusal_rowState hf hd (by rwa [hitems])))
    · refine refused_answer seq hexec (amendRow_refused (amendRefusal_badField hp (by rwa [hitems]) ?_))
      refine hbad.imp_left fun h0 => ?_
      rw [Bool.eq_false_iff, Ne, hsel]
      exact fun hne => hne h0
    · have hok : (s.timerRestarted x).amendRefusal r (selectsSome (argAt args 0))
          (f ((s.timerRestarted x).bodyOf (orZero ((s.timerRestarted x).row r).amendSource))) = none :=
        amendRefusal_none hp (by rwa [hitems]) (hsel.2 hs) hbok
      have hdraft : hasDraftItem (s.timerRestarted x).items r = false := by
        rw [Bool.eq_false_iff, Ne, hasDraftItem_iff, hitems, not_or]
        exact ⟨hi, ha⟩
      refine ⟨fun hf => ?_, fun hf hc => ?_⟩
      · exact refused_answer seq hexec (amendRow_setFull hok hdraft (by rwa [hitems]))
      · exact refused_answer seq hexec (amendRow_poolFull hok hdraft (by rwa [hitems]) (lowestFreeCopy_eq_none hc))
  · subst hr
    have hexec := exec_retire_owner seq h ho hr32
    have hitems : (s.timerRestarted x).items = x.items := items_timerRestarted s x
    generalize bitsAt w 0 16 = r at *
    refine ⟨fun hp => ?_, fun hf hd hp => ?_, fun hp hx ha hf => ?_⟩
    · exact refused_answer seq hexec (retireRow_refused (retireRefusal_noRow hp))
    · exact refused_answer seq hexec (retireRow_refused (retireRefusal_rowState hf hd (by rwa [hitems])))
    · have hnd : (s.row r).phase ≠ .newDraft := by obtain hp | hp := hp <;> simp [hp]
      exact refused_answer seq hexec (retireRow_setFull (retireRefusal_none (.inr hp) (by rwa [hitems]))
        (retireOutcome_added hnd (by rwa [hitems])) (by rwa [hitems]))
  · refine refused_answer seq (exec_seal_owner seq h ho hw) ?_
    simp [State.sealWith, hst]

end Sys2Proof.Machine
end

section
/-! PROOF. Frames that a link controller receives and sends: a good frame on a link, the ends of transmission, the choice by rank. -/

namespace Sys2Proof.Machine

/-! ### A link written twice -/

theorem Table.put_put {α : Type} (i : Nat) (a b : α) : ∀ t : Table α, Table.put i b (Table.put i a t) = Table.put i b t
  | [] => by simp [Table.put]
  | (j, c) :: t => by
    have ih := Table.put_put i a b t
    by_cases h : i < j
    · simp [Table.put, h]
    · by_cases h' : i = j
      · simp [Table.put, h']
      · simp [Table.put, h, h', ih]

theorem Table.drop_put {α : Type} (i : Nat) (a : α) : ∀ t : Table α, Table.drop i (Table.put i a t) = Table.drop i t
  | [] => by simp [Table.put, Table.drop]
  | (j, c) :: t => by
    have ih := Table.drop_put i a t
    by_cases h : i < j
    · simp [Table.put, Table.drop, h]
    · by_cases h' : i = j
      · simp [Table.put, Table.drop, h']
      · simp [Table.put, Table.drop, h, h', ih]

/-- Writing over an entry that is listed; one that was taken away stands wherever the next write puts it. -/
theorem Table.write_write {α : Type} [DecidableEq α] {d a : α} (h : a ≠ d) (i : Nat) (b : α) (t : Table α) :
    Table.write d i b (Table.write d i a t) = Table.write d i b t := by
  by_cases hb : b = d <;> simp [Table.write, h, hb, Table.put_put, Table.drop_put]

theorem State.putLink_putLink {x : Link} (h : x ≠ Link.reset) (s : State) (n : Nat) (y : Link) :
    (s.putLink n x).putLink n y = s.putLink n y := by
  simp only [State.putLink, State.setLinks, Table.write_write h]

theorem ne_reset_of_locked {l : Link} (h : l.locked = true) : l ≠ Link.reset := fun e => by simp [e, Link.reset] at h

theorem ne_reset_of_sending {l : Link} {f : TxFrame} (h : l.tx = some f) : l ≠ Link.reset :=
  fun e => by simp [e, Link.reset] at h

/-! ### Postings (R146, R147) -/

/-- A posting finds no notice for its row. -/
theorem takePosting_fresh {l : Link} {x : Notice} (hd : l.state ≠ .down) (hf : ∀ y ∈ l.notices, y.row ≠ x.row) :
    l.takePosting x = if l.notices.length < 32 then ({ l with notices := l.notices ++ [x] }, false) else (l.setResync, true) := by
  have hn : l.notices.any (fun y => decide (y.row = x.row)) = false := by simpa using hf
  rw [Link.takePosting, if_neg hd, if_neg (by simp [hn])]

theorem mergeNotice_of_fresh {x : Notice} {q : List Notice} (h : ∀ z ∈ q, z.row ≠ x.row) : mergeNotice x q = q := by
  refine (List.map_congr_left (fun z hz => ?_)).trans (List.map_id q)
  exact if_neg (h z hz)

theorem mergeNotice_at {x y : Notice} {pre post : List Notice} (hy : y.row = x.row) (h : ∀ z ∈ pre ++ post, z.row ≠ x.row) :
    mergeNotice x (pre ++ y :: post) =
      pre ++ { row := y.row, kind := if y.kind = .retired ∨ x.kind = .retired then .retired else .changed,
               epoch := x.epoch } :: post := by
  have hpre := mergeNotice_of_fresh (x := x) (q := pre) (fun z hz => h z (List.mem_append_left _ hz))
  have hpost := mergeNotice_of_fresh (x := x) (q := post) (fun z hz => h z (List.mem_append_right _ hz))
  have e : mergeNotice x (pre ++ y :: post) =
      mergeNotice x pre ++ { y with epoch := x.epoch, kind := y.kind.merge x.kind } :: mergeNotice x post := by
    simp [mergeNotice, hy]
  rw [e, hpre, hpost]
  rfl

theorem headIsFor_at {x y : Notice} {pre post : List Notice} (hy : y.row = x.row) (h : ∀ z ∈ pre ++ post, z.row ≠ x.row) :
    headIsFor (pre ++ y :: post) x.row = decide (pre = []) := by
  cases pre with
  | nil => simp [headIsFor, hy]
  | cons z zs => simp [headIsFor, h z (by simp)]

/-- Settles O18: a posting is dropped, joins, merges or overflows, and a switch's postings reach each link in their order. -/
theorem postingsJoinMergeOrOverflow : Obligations.PostingsJoinMergeOrOverflow := by
  refine ⟨fun l x h => by rw [Link.takePosting, if_pos h], fun l x hd hf => ?_, fun l x y pre post hd hl hy hf => ?_,
    fun ps s n => takePostings_link ps [] s n⟩
  · rw [takePosting_fresh hd hf]
    exact ⟨fun h => if_pos h, fun h => if_neg (by omega)⟩
  · have ha : l.notices.any (fun z => decide (z.row = x.row)) = true := by
      simp [hl, hy]
    rw [Link.takePosting, if_neg hd, if_pos ha, hl, mergeNotice_at hy hf, headIsFor_at hy hf]
    by_cases hp : pre = [] ∧ l.resyncFlag = false
    · by_cases hs : 0 < l.sendCount
      · simp [hp, hs]
      · have h0 : l.sendCount = 0 := by omega
        simp [hp, h0]
    · have hc : ¬(l.resyncFlag = false ∧ decide (pre = []) = true ∧ 0 < l.sendCount) :=
        fun h => hp ⟨of_decide_eq_true h.2.1, h.1⟩
      have hc' : ¬(pre = [] ∧ l.resyncFlag = false ∧ 0 < l.sendCount) := fun h => hp ⟨h.1, h.2.1⟩
      rw [if_neg hc, if_neg hp, if_neg hc']

/-! ### Good frames (R109) -/

/-- The row of the table that a board's frame is. -/
def BoardFrame.isHello : BoardFrame → Bool
  | .hello _ => true
  | .ask _ => false
  | .ackNotice _ _ => false
  | .ackResync _ => false

theorem goodFrame_handOn {s : State} {n : Nat} (hk : (s.link n).locked = true) (tag : Tag) {f : BoardFrame}
    (hf : f.isHello = false) :
    s.goodFrame n tag f = State.kick n (s.putLink n ((s.link n).frameClosed.handOn tag f)) := by
  have hw (y : Link) := State.putLink_putLink (x := { s.link n with rx := .outside, badCount := 0 })
    (ne_reset_of_locked hk) s n y
  cases f with
  | hello => simp [BoardFrame.isHello] at hf
  | ask | ackNotice | ackResync =>
    simp only [State.goodFrame, State.link_putLink, if_true, hw]
    rfl

theorem receiveFrame_handOn {s : State} {n : Nat} (hk : (s.link n).locked = true) (tag : Tag) {f : BoardFrame}
    (hf : f.isHello = false) :
    s.receiveFrame n tag f = State.kick n (s.putLink n ((s.link n).frameClosed.handOn tag f)) := by
  rw [State.receiveFrame, if_pos hk, goodFrame_handOn hk tag hf]

theorem handOn_down {l : Link} (h : l.state = .down) (tag : Tag) (f : BoardFrame) : l.handOn tag f = l := by
  cases f <;> simp [Link.handOn, h]

theorem handOn_quiet_ack {l : Link} (h : l.state = .quiet) (tag : Tag) (r e : Nat) :
    l.handOn tag (.ackNotice r e) = l.returnUp.countStray := by
  simp [Link.handOn, h, Link.ackNotice, Link.returnUp, Link.setResync]

theorem returnUp_quiet {l : Link} (h : l.state = .quiet) : l.returnUp = { l.setResync with state := .up } := if_pos h

theorem returnUp_up {l : Link} (h : l.state = .up) : l.returnUp = l := if_neg (by simp [h])

/-- Settles O30: the frame that a TAIL closes is handed on as the frame's own row does. -/
theorem goodTailIsItsFrame : Obligations.GoodTailIsItsFrame := by
  intro n w s f k hlock hrx hpar hmark hrec hkept hcrc hkind hres hperm
  have hc : f.checked (wireData w) = .inr (frameOf k f.kept) := by
    simp [RxFrame.checked, hrec, hcrc, hkind, hres, hperm]
  have hg : exec (.linkWord n w) s = .next (s.goodFrame n (headTag f.head) (frameOf k f.kept)) := by
    simp only [exec, execLinkWord, hlock, if_true, State.receiveWord, hpar, hmark, Bool.true_eq_false, if_false, State.tailWord,
      hrx, hc]
  have hr (tag : Tag) (g : BoardFrame) : s.receiveFrame n tag g = s.goodFrame n tag g := if_pos hlock
  have hh (tag tag' : Tag) (g : BoardFrame) (ht : ∀ l, Link.handOn l tag g = Link.handOn l tag' g) (hi : g.isHello = false) :
      s.goodFrame n tag g = s.goodFrame n tag' g := by
    rw [goodFrame_handOn hlock tag hi, goodFrame_handOn hlock tag' hi, ht]
  rw [hg]
  cases k with
  | hello => simp only [exec, execHello, hr, frameOf]
  | fetch => simp only [exec, execFetch, hr, frameOf]
  | fetchProfile => simp only [exec, execFetchProfile, hr, frameOf]
  | watch => simp only [exec, execWatch, hr, frameOf]
  | unwatch => simp only [exec, execUnwatch, hr, frameOf]
  | ackNotice =>
    have hn : (halfAt f.kept 1 ++ halfAt f.kept 2).toNat = (halfAt f.kept 1).toNat * 65536 + (halfAt f.kept 2).toNat := by
      rw [BitVec.toNat_append, ← Nat.shiftLeft_add_eq_or_of_lt (halfAt f.kept 2).isLt, Nat.shiftLeft_eq]
    simp only [exec, execAckNotice, hr, frameOf, hn]
    exact congrArg Host.Outcome.next (hh _ _ _ (fun _ => rfl) rfl)
  | ackResync =>
    simp only [exec, execAckResync, hr, frameOf]
    exact congrArg Host.Outcome.next (hh _ _ _ (fun _ => rfl) rfl)

/-- A request frame is the arrival of its request. -/
theorem exec_ask {n : LinkId} {tag : Tag} {a : Ask} {i : Instr} {s : State} (hk : (s.link n).locked = true)
    (hi : match a with
      | .fetch ch pr => i = .fetch n tag ch pr
      | .fetchProfile k j => i = .fetchProfile n tag k j
      | .watch ch => i = .watch n tag ch
      | .unwatch r => i = .unwatch n tag r) :
    exec i s = .next (State.kick n (s.putLink n ((s.link n).frameClosed.handOn tag (.ask a)))) := by
  rw [← receiveFrame_handOn hk tag (f := .ask a) rfl]
  cases a <;> cases hi <;> rfl

/-- Settles O33: a request frame by the state of its link and the room in its queue. -/
theorem requestFramesJoinQueue : Obligations.RequestFramesJoinQueue := by
  intro n tag a i s hk hi
  rw [exec_ask hk hi]
  refine ⟨fun hs hl => ?_, fun hs hl => ?_, fun hs => ?_, fun hs hl => ?_⟩
  · have e : (s.link n).frameClosed.handOn tag (.ask a) = (s.link n).frameClosed.arrive tag a := by
      simp [Link.handOn, Link.frameClosed, Link.returnUp, hs]
    rw [e, Link.arrive, if_pos (show (s.link n).frameClosed.requests.length < Config.requestsMax from hl)]
    rfl
  · have e : (s.link n).frameClosed.handOn tag (.ask a) = (s.link n).frameClosed.addPrompt tag .queueFull := by
      have hn : ¬(s.link n).requests.length < Config.requestsMax := Nat.not_lt.mpr hl
      simp [Link.handOn, Link.frameClosed, Link.returnUp, hs, Link.arrive, hn]
    rw [e, Link.addPrompt]
    by_cases hp : (s.link n).prompts.length < 4
    · rw [if_pos (show (s.link n).frameClosed.prompts.length < Config.promptsMax from hp), if_pos hp]
      rfl
    · rw [if_neg (show ¬(s.link n).frameClosed.prompts.length < Config.promptsMax from hp), if_neg hp]
      rfl
  · rw [handOn_down (show (s.link n).frameClosed.state = .down from hs)]
  · have e : (s.link n).frameClosed.handOn tag (.ask a) =
        ({ (s.link n).frameClosed.setResync with state := .up } : Link).arrive tag a := by
      simp [Link.handOn, Link.frameClosed, Link.returnUp, hs]
    rw [e, Link.arrive, if_pos (show ((s.link n).frameClosed.setResync).requests.length < Config.requestsMax from hl)]
    rfl

/-- Settles O34: an acknowledgement matches what is owed, is counted stray, or is discarded. -/
theorem acknowledgementsMatchOrStray : Obligations.AcknowledgementsMatchOrStray := by
  intro n row epoch number s strays hk hst
  have hn : exec (.ackNotice n row epoch) s = .next (State.kick n (s.putLink n
      ((s.link n).frameClosed.handOn 0#2 (.ackNotice row.toNat epoch.toNat)))) := by
    rw [← receiveFrame_handOn hk 0#2 rfl]
    rfl
  have hr : exec (.ackResync n number) s = .next (State.kick n (s.putLink n
      ((s.link n).frameClosed.handOn 0#2 (.ackResync number.toNat)))) := by
    rw [← receiveFrame_handOn hk 0#2 rfl]
    rfl
  have hstray : (s.link n).frameClosed.countStray = { (s.link n).frameClosed with errors := strays } := by
    subst hst
    rfl
  have hup : (s.link n).state = .up → (s.link n).frameClosed.handOn 0#2 (.ackNotice row.toNat epoch.toNat) =
      (s.link n).frameClosed.ackNotice row.toNat epoch.toNat := fun h => by
    simp [Link.handOn, Link.frameClosed, Link.returnUp, h]
  have hupr : (s.link n).state = .up → (s.link n).frameClosed.handOn 0#2 (.ackResync number.toNat) =
      (s.link n).frameClosed.ackResync number.toNat := fun h => by
    simp [Link.handOn, Link.frameClosed, h]
  have hquiet (h : (s.link n).state = .quiet) : (s.link n).frameClosed.returnUp.countStray =
      { (s.link n).frameClosed with
        state := .up, resyncFlag := true, resyncNumber := ((s.link n).resyncNumber + 1) % 65536, notices := [],
        sendCount := 0, timer := .stopped, errors := strays } := by
    rw [returnUp_quiet (show (s.link n).frameClosed.state = .quiet from h), hst]
    rfl
  refine ⟨fun y ys hs hl hf hy he => ?_, fun hs hc => ?_, fun hs hf hm => ?_, fun hs hc => ?_, fun i hi => ⟨fun hs => ?_, fun hs => ?_⟩⟩
  · rw [hn, hup hs, Link.ackNotice, show (s.link n).frameClosed.notices = y :: ys from hl]
    simp only [show (s.link n).frameClosed.resyncFlag = false from hf, hy, he, and_self, if_true]
  · rw [hn, hup hs, Link.ackNotice, ← hstray]
    cases hl : (s.link n).notices with
    | nil => rw [show (s.link n).frameClosed.notices = [] from hl]
    | cons y ys =>
      rw [show (s.link n).frameClosed.notices = y :: ys from hl]
      have hno : ¬((s.link n).frameClosed.resyncFlag = false ∧ y.row = row.toNat ∧ y.epoch = epoch.toNat) := by
        rintro ⟨hf, hy, he⟩
        rcases hc with h | h | ⟨z, zs, h, hz⟩
        · simp [show (s.link n).resyncFlag = false from hf] at h
        · simp [hl] at h
        · obtain ⟨rfl, rfl⟩ := List.cons.inj (hl.symm.trans h)
          exact hz.elim (fun k => k hy) (fun k => k he)
      exact congrArg (fun l => Host.Outcome.next (State.kick n (s.putLink n l))) (if_neg hno)
  · rw [hr, hupr hs, Link.ackResync, if_pos ⟨hf, hm⟩]
  · rw [hr, hupr hs, Link.ackResync, if_neg (fun h => by rcases hc with k | k; exact absurd h.1 (by simp [k, Link.frameClosed]); exact k h.2), hstray]
  · rcases hi with rfl | rfl
    · rw [hn, handOn_quiet_ack (show (s.link n).frameClosed.state = .quiet from hs), hquiet hs]
    · rw [hr, ← hquiet hs]
      simp [Link.handOn, Link.frameClosed, hs]
  · rcases hi with rfl | rfl
    · rw [hn, handOn_down (show (s.link n).frameClosed.state = .down from hs)]
    · rw [hr, handOn_down (show (s.link n).frameClosed.state = .down from hs)]

/-! ### The ends of transmission (R112, R121, R149, R150) -/

/-- The link rewritten and its transmitter idle again, while a frame was in progress. -/
theorem frameEnds_putLink {s : State} {n : Nat} {l : Link} {f : TxFrame} (h : l.tx = some f) :
    (s.putLink n l).frameEnds n = State.kick n (s.putLink n { l with tx := none }) := by
  have hw := State.putLink_putLink (ne_reset_of_sending h) s n { l with tx := none }
  simp only [State.frameEnds, State.link_putLink, if_true, hw]

/-- Settles O41: the ends of the frames that answer no request, and the resend timer's expiry. -/
theorem frameEndsAndResendTimer : Obligations.FrameEndsAndResendTimer := by
  refine ⟨fun n f s hf => ?_, fun n s => ⟨fun j hj hc => ?_, fun j hj hc hs => ?_, fun h => ?_⟩⟩
  · have hc : s.sendingOn n = some f.content := by simp [State.sendingOn, hf]
    refine ⟨fun m e op h => ?_, fun reason e h => ?_, fun y h hr hy => ?_, fun y h hc' => ?_, fun k e c h hr hk => ?_,
      fun k e c h hc' => ?_⟩
    · simp only [exec, execWelcomeEnd, hc, h]
      exact congrArg Host.Outcome.next (frameEnds_putLink (f := f) (by exact hf))
    · simp only [exec, execPromptRefusalEnd, hc, h]
      exact congrArg Host.Outcome.next (frameEnds_putLink (f := f) (by exact hf))
    · simp only [exec, execNoticeEnd, hc, h, Link.noticeEnded, hr, hy, and_self, if_true]
      exact congrArg Host.Outcome.next (frameEnds_putLink (f := f) (by exact hf))
    · have hn : ¬((s.link n).resyncFlag = false ∧ (s.link n).notices.head? = some y) := by
        rintro ⟨a, b⟩
        exact hc'.elim (fun k => by simp [a] at k) (fun k => k b)
      simp only [exec, execNoticeEnd, hc, h, Link.noticeEnded, hn, if_false]
      exact congrArg Host.Outcome.next (frameEnds_putLink (f := f) (by exact hf))
    · simp only [exec, execResyncEnd, hc, h, Link.resyncEnded, hr, hk, and_self, if_true]
      exact congrArg Host.Outcome.next (frameEnds_putLink (f := f) (by exact hf))
    · have hn : ¬((s.link n).resyncFlag = true ∧ (s.link n).resyncNumber = k) := by
        rintro ⟨a, b⟩
        exact hc'.elim (fun k => by simp [a] at k) (fun k => k b)
      simp only [exec, execResyncEnd, hc, h, Link.resyncEnded, hn, if_false]
      exact congrArg Host.Outcome.next (frameEnds_putLink (f := f) (by exact hf))
  · simp only [exec, execResendTimerExpiry, hj, State.timerRunsOut]
    rw [if_pos (show (s.link n).sendCount < Config.sendLimit from hc)]
  · simp only [exec, execResendTimerExpiry, hj, State.timerRunsOut]
    rw [if_neg (show ¬(s.link n).sendCount < Config.sendLimit by rw [hc]; decide), if_pos hs]
    rfl
  · rcases h with h | h <;> simp only [exec, execResendTimerExpiry, h]

end Sys2Proof.Machine
end

section
/-! SUPPORT. One rule for each field after each operation on the stores: what it changes and what it leaves. -/

namespace Sys2Proof.Machine

variable (s : State)

/-! ### References (R48) -/

theorem addRef_slot (k : Option Nat) (j : Nat) :
    (s.addRef k).slot j = if k = some j then { s.slot j with refCount := (s.slot j).refCount + 1 } else s.slot j := by
  cases k with
  | none => rfl
  | some k =>
    by_cases h : j = k
    · subst h; simp [State.addRef]
    · simp [State.addRef, h, Ne.symm h]

theorem dropRef_slot (k : Option Nat) (j : Nat) :
    (s.dropRef k).slot j = if k = some j then { s.slot j with refCount := (s.slot j).refCount - 1 } else s.slot j := by
  cases k with
  | none => rfl
  | some k =>
    by_cases h : j = k
    · subst h; simp [State.dropRef]
    · simp [State.dropRef, h, Ne.symm h]

@[simp] theorem addRef_rows (k : Option Nat) : (s.addRef k).rows = s.rows := by cases k <;> rfl
@[simp] theorem addRef_row (k : Option Nat) (r : Nat) : (s.addRef k).row r = s.row r := by cases k <;> rfl
@[simp] theorem addRef_copies (k : Option Nat) : (s.addRef k).copies = s.copies := by cases k <;> rfl
@[simp] theorem addRef_copy (k : Option Nat) (c : Nat) : (s.addRef k).copy c = s.copy c := by cases k <;> rfl
@[simp] theorem addRef_links (k : Option Nat) : (s.addRef k).links = s.links := by cases k <;> rfl
@[simp] theorem addRef_link (k : Option Nat) (n : Nat) : (s.addRef k).link n = s.link n := by cases k <;> rfl
@[simp] theorem addRef_superseded (k : Option Nat) : (s.addRef k).superseded = s.superseded := by cases k <;> rfl
@[simp] theorem addRef_eventSet (k : Option Nat) : (s.addRef k).eventSet = s.eventSet := by cases k <;> rfl
@[simp] theorem addRef_freeCount (k : Option Nat) : (s.addRef k).freeCount = s.freeCount := by cases k <;> rfl
@[simp] theorem addRef_spanIndex (k : Option Nat) : (s.addRef k).spanIndex = s.spanIndex := by cases k <;> rfl
@[simp] theorem addRef_lowArmed (k : Option Nat) : (s.addRef k).lowArmed = s.lowArmed := by cases k <;> rfl
@[simp] theorem addRef_engine (k : Option Nat) : (s.addRef k).engine = s.engine := by cases k <;> rfl
@[simp] theorem addRef_params (k : Option Nat) : (s.addRef k).params = s.params := by cases k <;> rfl
@[simp] theorem dropRef_copies (k : Option Nat) : (s.dropRef k).copies = s.copies := by cases k <;> rfl
@[simp] theorem dropRef_spanIndex (k : Option Nat) : (s.dropRef k).spanIndex = s.spanIndex := by cases k <;> rfl
@[simp] theorem dropRef_lowArmed (k : Option Nat) : (s.dropRef k).lowArmed = s.lowArmed := by cases k <;> rfl
@[simp] theorem dropRef_engine (k : Option Nat) : (s.dropRef k).engine = s.engine := by cases k <;> rfl
@[simp] theorem dropRef_params (k : Option Nat) : (s.dropRef k).params = s.params := by cases k <;> rfl

/-! ### The low-watermark detector (R41) -/

@[simp] theorem checkArm_rows : s.checkArm.rows = s.rows := by unfold State.checkArm; split <;> rfl
@[simp] theorem checkArm_copies : s.checkArm.copies = s.copies := by unfold State.checkArm; split <;> rfl
@[simp] theorem checkArm_slots : s.checkArm.slots = s.slots := by unfold State.checkArm; split <;> rfl
@[simp] theorem checkArm_links : s.checkArm.links = s.links := by unfold State.checkArm; split <;> rfl
@[simp] theorem checkArm_spanIndex : s.checkArm.spanIndex = s.spanIndex := by unfold State.checkArm; split <;> rfl
@[simp] theorem checkArm_engine : s.checkArm.engine = s.engine := by unfold State.checkArm; split <;> rfl
@[simp] theorem checkArm_params : s.checkArm.params = s.params := by unfold State.checkArm; split <;> rfl

theorem checkArm_lowArmed : s.checkArm.lowArmed = if s.params.poolWatermark ≤ s.freeCount then true else s.lowArmed := by
  unfold State.checkArm; split <;> rfl

@[simp] theorem checkLow_rows : s.checkLow.rows = s.rows := by unfold State.checkLow; split <;> rfl
@[simp] theorem checkLow_row (r : Nat) : s.checkLow.row r = s.row r := by unfold State.checkLow; split <;> rfl
@[simp] theorem checkLow_copies : s.checkLow.copies = s.copies := by unfold State.checkLow; split <;> rfl
@[simp] theorem checkLow_copy (c : Nat) : s.checkLow.copy c = s.copy c := by unfold State.checkLow; split <;> rfl
@[simp] theorem checkLow_slots : s.checkLow.slots = s.slots := by unfold State.checkLow; split <;> rfl
@[simp] theorem checkLow_slot (k : Nat) : s.checkLow.slot k = s.slot k := by unfold State.checkLow; split <;> rfl
@[simp] theorem checkLow_links : s.checkLow.links = s.links := by unfold State.checkLow; split <;> rfl
@[simp] theorem checkLow_link (n : Nat) : s.checkLow.link n = s.link n := by unfold State.checkLow; split <;> rfl
@[simp] theorem checkLow_freeCount : s.checkLow.freeCount = s.freeCount := by unfold State.checkLow; split <;> rfl
@[simp] theorem checkLow_superseded : s.checkLow.superseded = s.superseded := by unfold State.checkLow; split <;> rfl
@[simp] theorem checkLow_spanIndex : s.checkLow.spanIndex = s.spanIndex := by unfold State.checkLow; split <;> rfl
@[simp] theorem checkLow_engine : s.checkLow.engine = s.engine := by unfold State.checkLow; split <;> rfl

theorem checkLow_low (h : s.freeCount < s.params.poolWatermark) (ha : s.lowArmed = true) :
    s.checkLow = (s.setLowArmed false).raise .poolLow := if_pos ⟨h, ha⟩

theorem checkLow_quiet (h : s.params.poolWatermark ≤ s.freeCount ∨ s.lowArmed = false) : s.checkLow = s :=
  if_neg (by
    rintro ⟨hf, ha⟩
    rcases h with h | h
    · omega
    · simp [h] at ha)

/-! ### Copies allocated and freed (R29) -/

section
variable (c : Nat) (x : Copy)

@[simp] theorem allocCopy_rows : (s.allocCopy c x).rows = s.rows := by simp [State.allocCopy]
@[simp] theorem allocCopy_row (r : Nat) : (s.allocCopy c x).row r = s.row r := by simp [State.allocCopy]
@[simp] theorem allocCopy_links : (s.allocCopy c x).links = s.links := by simp [State.allocCopy]
@[simp] theorem allocCopy_link (n : Nat) : (s.allocCopy c x).link n = s.link n := by simp [State.allocCopy]
@[simp] theorem allocCopy_freeCount : (s.allocCopy c x).freeCount = s.freeCount - 1 := by simp [State.allocCopy]
@[simp] theorem allocCopy_superseded : (s.allocCopy c x).superseded = s.superseded := by simp [State.allocCopy]
@[simp] theorem allocCopy_spanIndex : (s.allocCopy c x).spanIndex = s.spanIndex := by simp [State.allocCopy]
@[simp] theorem allocCopy_engine : (s.allocCopy c x).engine = s.engine := by simp [State.allocCopy]
@[simp] theorem allocCopy_copies : (s.allocCopy c x).copies = Table.write Copy.free c x s.copies := by
  simp [State.allocCopy, State.putCopy]

theorem allocCopy_copy (k : Nat) : (s.allocCopy c x).copy k = if k = c then x else s.copy k := by simp [State.allocCopy]

theorem allocCopy_slot (k : Nat) : (s.allocCopy c x).slot k =
    if x.profile = some k then { s.slot k with refCount := (s.slot k).refCount + 1 } else s.slot k := by
  simp [State.allocCopy, addRef_slot]

/-- The allocation brings the free count below the watermark while the detector is armed. -/
theorem allocCopy_low (h : s.freeCount - 1 < s.params.poolWatermark) (ha : s.lowArmed = true) :
    (s.allocCopy c x).lowArmed = false ∧ (s.allocCopy c x).eventSet = { s.eventSet with set := s.eventSet.set ||| 0x400#12 } := by
  rw [State.allocCopy, checkLow_low _ (by simpa using h) (by simpa using ha)]
  simp [State.raise, EventSet.withDetail, Occurrence.bit]

theorem allocCopy_quiet (h : s.params.poolWatermark ≤ s.freeCount - 1 ∨ s.lowArmed = false) :
    (s.allocCopy c x).lowArmed = s.lowArmed ∧ (s.allocCopy c x).eventSet = s.eventSet := by
  rw [State.allocCopy, checkLow_quiet _ (by simpa using h)]
  simp

@[simp] theorem freeCopy_rows : (s.freeCopy c).rows = s.rows := by simp [State.freeCopy]
@[simp] theorem freeCopy_links : (s.freeCopy c).links = s.links := by simp [State.freeCopy]
@[simp] theorem freeCopy_copies : (s.freeCopy c).copies = Table.write Copy.free c Copy.free s.copies := by
  simp [State.freeCopy, State.putCopy]
@[simp] theorem freeCopy_freeCount : (s.freeCopy c).freeCount = s.freeCount + 1 := by simp [State.freeCopy]
@[simp] theorem freeCopy_spanIndex : (s.freeCopy c).spanIndex = s.spanIndex := by simp [State.freeCopy]
@[simp] theorem freeCopy_engine : (s.freeCopy c).engine = s.engine := by simp [State.freeCopy]
@[simp] theorem freeCopy_params : (s.freeCopy c).params = s.params := (StoresOnly.freeCopy c s).params

theorem freeCopy_slots (k : Nat) : (s.freeCopy c).slot k =
    if (s.copy c).profile = some k then { s.slot k with refCount := (s.slot k).refCount - 1 } else s.slot k := by
  simp [State.freeCopy, dropRef_slot]

theorem freeCopy_lowArmed : (s.freeCopy c).lowArmed =
    if s.params.poolWatermark ≤ s.freeCount + 1 then true else s.lowArmed := by
  simp [State.freeCopy, checkArm_lowArmed]
end

/-! ### Rows claimed and freed (R8, R20) -/

section
variable (r : Nat)

@[simp] theorem forEach_watchFalls_spanIndex (l : List Nat) : (State.forEach State.watchFalls l s).spanIndex = s.spanIndex :=
  forEach_keep (f := State.watchFalls) State.spanIndex (fun _ _ => rfl) l s
@[simp] theorem forEach_watchFalls_rows (l : List Nat) : (State.forEach State.watchFalls l s).rows = s.rows :=
  forEach_keep (f := State.watchFalls) State.rows (fun _ _ => rfl) l s
@[simp] theorem forEach_watchFalls_freeCount (l : List Nat) : (State.forEach State.watchFalls l s).freeCount = s.freeCount :=
  forEach_keep (f := State.watchFalls) State.freeCount (fun _ _ => rfl) l s
@[simp] theorem forEach_watchFalls_lowArmed (l : List Nat) : (State.forEach State.watchFalls l s).lowArmed = s.lowArmed :=
  forEach_keep (f := State.watchFalls) State.lowArmed (fun _ _ => rfl) l s
@[simp] theorem forEach_watchFalls_engine (l : List Nat) : (State.forEach State.watchFalls l s).engine = s.engine :=
  forEach_keep (f := State.watchFalls) State.engine (fun _ _ => rfl) l s

@[simp] theorem emptyWatchSet_spanIndex : (s.emptyWatchSet r).spanIndex = s.spanIndex := by simp [State.emptyWatchSet]
@[simp] theorem emptyWatchSet_freeCount : (s.emptyWatchSet r).freeCount = s.freeCount := by simp [State.emptyWatchSet]
@[simp] theorem emptyWatchSet_lowArmed : (s.emptyWatchSet r).lowArmed = s.lowArmed := by simp [State.emptyWatchSet]
@[simp] theorem emptyWatchSet_engine : (s.emptyWatchSet r).engine = s.engine := by simp [State.emptyWatchSet]
@[simp] theorem emptyWatchSet_slot (k : Nat) : (s.emptyWatchSet r).slot k = s.slot k := by simp [State.slot]

theorem emptyWatchSet_rows :
    (s.emptyWatchSet r).rows = Table.write Row.free r { s.row r with watch := [] } s.rows := by
  simp [State.emptyWatchSet, State.putRow]

@[simp] theorem freeRow_freeCount : (s.freeRow r).freeCount = s.freeCount := by simp [State.freeRow]
@[simp] theorem freeRow_lowArmed : (s.freeRow r).lowArmed = s.lowArmed := by simp [State.freeRow]
@[simp] theorem freeRow_engine : (s.freeRow r).engine = s.engine := by simp [State.freeRow]
@[simp] theorem freeRow_copy (c : Nat) : (s.freeRow r).copy c = s.copy c := by simp [State.copy]
@[simp] theorem freeRow_slot (k : Nat) : (s.freeRow r).slot k = s.slot k := by simp [State.slot]
@[simp] theorem freeRow_params : (s.freeRow r).params = s.params := (StoresOnly.freeRow r s).params
@[simp] theorem freeRow_spanIndex : (s.freeRow r).spanIndex = s.spanIndex.filter (fun it => decide (it.row ≠ r)) := by
  simp [State.freeRow]

/-- A row that no link watches leaves FREE without a word to any link. -/
theorem freeRow_link_unwatched (h : (s.row r).watch = []) (n : Nat) : (s.freeRow r).link n = s.link n := by
  simp [State.freeRow, State.emptyWatchSet, h, State.forEach]

theorem freeRow_links_unwatched (h : (s.row r).watch = []) : (s.freeRow r).links = s.links := by
  simp [State.freeRow, State.emptyWatchSet, h, State.forEach]

variable (sp : Span) (x : Row)

@[simp] theorem claimRow_row (k : Nat) : (s.claimRow r sp x).row k = if k = r then x else s.row k := by
  simp [State.claimRow]
@[simp] theorem claimRow_copy (c : Nat) : (s.claimRow r sp x).copy c = s.copy c := by simp [State.claimRow]
@[simp] theorem claimRow_slot (k : Nat) : (s.claimRow r sp x).slot k = s.slot k := by simp [State.claimRow]
@[simp] theorem claimRow_link (n : Nat) : (s.claimRow r sp x).link n = s.link n := by simp [State.claimRow]
@[simp] theorem claimRow_links : (s.claimRow r sp x).links = s.links := by simp [State.claimRow]
@[simp] theorem claimRow_copies : (s.claimRow r sp x).copies = s.copies := by simp [State.claimRow]
@[simp] theorem claimRow_slots : (s.claimRow r sp x).slots = s.slots := by simp [State.claimRow]
@[simp] theorem claimRow_rows : (s.claimRow r sp x).rows = Table.write Row.free r x s.rows := by simp [State.claimRow, State.putRow]
@[simp] theorem claimRow_spanIndex :
    (s.claimRow r sp x).spanIndex = indexInsert { first := sp.first, row := r } s.spanIndex := by simp [State.claimRow]
@[simp] theorem claimRow_freeCount : (s.claimRow r sp x).freeCount = s.freeCount := by simp [State.claimRow]
@[simp] theorem claimRow_lowArmed : (s.claimRow r sp x).lowArmed = s.lowArmed := by simp [State.claimRow]
@[simp] theorem claimRow_superseded : (s.claimRow r sp x).superseded = s.superseded := by simp [State.claimRow]
@[simp] theorem claimRow_eventSet : (s.claimRow r sp x).eventSet = s.eventSet := by simp [State.claimRow]
@[simp] theorem claimRow_engine : (s.claimRow r sp x).engine = s.engine := by simp [State.claimRow]
@[simp] theorem claimRow_params : (s.claimRow r sp x).params = s.params := by simp [State.claimRow]
end

/-! ### The drafts of rows (R31) -/

section
variable (r : Nat)

theorem freeDraft_row (k : Nat) :
    (s.freeDraft r).row k = if k = r then { s.row r with draft := none } else s.row k := by
  unfold State.freeDraft
  split
  next h =>
    by_cases hk : k = r
    · subst hk; rw [if_pos rfl, ← h]
    · rw [if_neg hk]
  next c h => simp

theorem freeDraft_copy (k : Nat) : (s.freeDraft r).copy k = if (s.row r).draft = some k then Copy.free else s.copy k := by
  unfold State.freeDraft
  split
  next h => simp [h]
  next c h => simp [h, eq_comm]

theorem freeDraft_slot (k : Nat) : (s.freeDraft r).slot k =
    if (s.row r).draft.bind (fun c => (s.copy c).profile) = some k then
      { s.slot k with refCount := (s.slot k).refCount - 1 } else s.slot k := by
  unfold State.freeDraft
  split
  next h => simp [h]
  next c h => by_cases hk : (s.copy c).profile = some k <;> simp [h, freeCopy_slots, hk]

theorem freeDraft_freeCount : (s.freeDraft r).freeCount = s.freeCount + if (s.row r).draft.isSome then 1 else 0 := by
  unfold State.freeDraft
  split
  next h => simp [h]
  next c h => simp [h]

@[simp] theorem freeDraft_links : (s.freeDraft r).links = s.links := by unfold State.freeDraft; split <;> simp
@[simp] theorem freeDraft_link (n : Nat) : (s.freeDraft r).link n = s.link n := by unfold State.freeDraft; split <;> simp
@[simp] theorem freeDraft_spanIndex : (s.freeDraft r).spanIndex = s.spanIndex := by unfold State.freeDraft; split <;> simp
@[simp] theorem freeDraft_engine : (s.freeDraft r).engine = s.engine := by unfold State.freeDraft; split <;> simp
@[simp] theorem freeDraft_eventSet : (s.freeDraft r).eventSet = s.eventSet := by unfold State.freeDraft; split <;> simp
@[simp] theorem freeDraft_params : (s.freeDraft r).params = s.params := (StoresOnly.freeDraft r s).params
@[simp] theorem freeDraft_session : (s.freeDraft r).session = s.session := (StoresOnly.freeDraft r s).session
end

/-! ### What stays around the stores -/

section
variable {s} {t u : State}

theorem StoresOnly.samePorts (h : StoresOnly s t) : s.SamePorts t := ⟨h.host, h.service, h.hostMask, h.serviceMask⟩

theorem StoresOnly.sameControl (h : StoresOnly s t) (he : t.engine = s.engine) : s.SameControl t :=
  ⟨h.pending, h.epoch, h.markerCount, h.switchRecord, he, h.snap, h.flash, h.opState, h.hostMask, h.serviceMask, h.params,
    h.freeTick⟩

theorem StoresOnly.sameOutside (h : StoresOnly s t) : s.SameOutside t :=
  ⟨h.pending, h.session, h.epoch, h.staged, h.markerCount, h.switchRecord, h.snap, h.flash, h.opState, h.params, h.freeTick,
    h.samePorts⟩

theorem State.SamePorts.trans (h : s.SamePorts t) (k : t.SamePorts u) : s.SamePorts u :=
  ⟨k.host.trans h.host, k.service.trans h.service, k.hostMask.trans h.hostMask, k.serviceMask.trans h.serviceMask⟩

theorem State.SameControl.trans (h : s.SameControl t) (k : t.SameControl u) : s.SameControl u :=
  ⟨k.pending.trans h.pending, k.epoch.trans h.epoch, k.markerCount.trans h.markerCount, k.switchRecord.trans h.switchRecord,
    k.engine.trans h.engine, k.snap.trans h.snap, k.flash.trans h.flash, k.opState.trans h.opState,
    k.hostMask.trans h.hostMask, k.serviceMask.trans h.serviceMask, k.params.trans h.params, k.freeTick.trans h.freeTick⟩

theorem sameControl_setSession (x : Option Session) : s.SameControl (s.setSession x) :=
  ⟨rfl, rfl, rfl, rfl, rfl, rfl, rfl, rfl, rfl, rfl, rfl, rfl⟩

theorem samePorts_setSession (x : Option Session) : s.SamePorts (s.setSession x) := ⟨rfl, rfl, rfl, rfl⟩

theorem sameControl_setStaged (x : Option StagedSet) : s.SameControl (s.setStaged x) :=
  ⟨rfl, rfl, rfl, rfl, rfl, rfl, rfl, rfl, rfl, rfl, rfl, rfl⟩

theorem samePorts_setStaged (x : Option StagedSet) : s.SamePorts (s.setStaged x) := ⟨rfl, rfl, rfl, rfl⟩

theorem samePorts_of_storesOnly_setSession (h : StoresOnly s t) (x : Option Session) : s.SamePorts (t.setSession x) :=
  h.samePorts.trans (samePorts_setSession x)

theorem sameControl_of_storesOnly_setSession (h : StoresOnly s t) (he : t.engine = s.engine) (x : Option Session) :
    s.SameControl (t.setSession x) := (h.sameControl he).trans (sameControl_setSession x)

/-- The change set replaced while a session is open. -/
theorem putItems_eq {x : Session} (h : s.session = some x) (l : List ChangeItem) :
    s.putItems l = s.setSession (some { x with items := l }) := by simp only [State.putItems, h]

theorem items_eq {x : Session} (h : s.session = some x) : s.items = x.items := by simp only [State.items, h]

/-- A fold keeps what each of its steps keeps. -/
theorem foldl_keep {α β : Type} {f : State → β → State} (g : State → α) (h : ∀ s b, g (f s b) = g s) :
    ∀ (l : List β) (s : State), g (l.foldl f s) = g s
  | [], _ => rfl
  | b :: bs, s => (foldl_keep g h bs (f s b)).trans (h s b)
end

end Sys2Proof.Machine
end

section
/-! PROOF. INSERT, AMEND, RETIRE and SEAL taken: what each leaves in the directory, the pool, the profile table and the change set. -/

namespace Sys2Proof.Machine

/-! ### Frames of an edit command of the owner -/

theorem sameControl_edit {s t : State} {x : Session} (h : StoresOnly (s.timerRestarted x) t) (he : t.engine = s.engine)
    (y : Option Session) : s.SameControl (t.setSession y) :=
  (sameControl_setSession _).trans (sameControl_of_storesOnly_setSession h he y)

theorem samePorts_edit {s t : State} {x : Session} (h : StoresOnly (s.timerRestarted x) t)
    (y : Option Session) : s.SamePorts (t.setSession y) :=
  (samePorts_setSession _).trans (samePorts_of_storesOnly_setSession h y)

@[simp] theorem timerRestarted_freeCount (s : State) (x : Session) : (s.timerRestarted x).freeCount = s.freeCount := rfl
@[simp] theorem timerRestarted_spanIndex (s : State) (x : Session) : (s.timerRestarted x).spanIndex = s.spanIndex := rfl
@[simp] theorem timerRestarted_superseded (s : State) (x : Session) : (s.timerRestarted x).superseded = s.superseded := rfl
@[simp] theorem timerRestarted_lowArmed (s : State) (x : Session) : (s.timerRestarted x).lowArmed = s.lowArmed := rfl
@[simp] theorem timerRestarted_eventSet (s : State) (x : Session) : (s.timerRestarted x).eventSet = s.eventSet := rfl
@[simp] theorem timerRestarted_engine (s : State) (x : Session) : (s.timerRestarted x).engine = s.engine := rfl
@[simp] theorem timerRestarted_epoch (s : State) (x : Session) : (s.timerRestarted x).epoch = s.epoch := rfl

@[simp] theorem newDraft_profile (r : Nat) (base : Option Nat) (b : Body) : (Copy.newDraft r base b).profile = b.profile := rfl

/-! ### INSERT (R65) -/

section
variable {s : State} {x : Session} {sp : Span} {b : Body} {r c : Nat}

/-- The stores' part of an INSERT that passed its checks. -/
def State.insertStores (s : State) (r c : Nat) (sp : Span) (b : Body) : State :=
  (s.claimRow r sp (Row.newDraft sp c)).allocCopy c (Copy.newDraft r none b)

theorem insertStores_only : StoresOnly s (s.insertStores r c sp b) := (StoresOnly.claimRow _ _ _ _).trans (StoresOnly.allocCopy _ _ _)

theorem insertRow_eq (h : s.session = some x) : s.insertRow r c sp b =
    (s.insertStores r c sp b).setSession (some { x with items := x.items ++ [.insert r] }) := by
  have hx : (s.insertStores r c sp b).session = some x := insertStores_only.session.trans h
  rw [State.insertRow]
  exact (putItems_eq hx _).trans (by rw [← items_eq hx]; rfl)

theorem insertSpan_claims (h : s.insertRefusal sp b = none) (hr : s.lowestFreeRow = some r) (hc : s.lowestFreeCopy = some c) :
    s.insertSpan sp b = (s.insertRow r c sp b,
      { code := .done, data := [packWord [(r, 0), (c, 16)], (s.insertRow r c sp b).itemCountWord] }) := by
  simp only [State.insertSpan, h, hr, hc]

end

/-- Settles O7: the row, the copy and the reference that an INSERT takes, and what it leaves. -/
theorem insertClaimsRowAndCopy : Obligations.InsertClaimsRowAndCopy := by
  intro p seq args s x sp b r c hready ho hlen hsp hb hv hbv hover hroom hr hc
  subst hsp hb
  have hexec := exec_insert_owner seq hready ho hlen
  generalize spanOfWord (argAt args 0) = sp at *
  generalize bodyOfWords (argAt args 1) (argAt args 2) (args.drop 3) = b at *
  obtain rfl := ho.owner
  have hi : (s.timerRestarted x).items = x.items := items_timerRestarted s x
  have hnone : (s.timerRestarted x).insertRefusal sp b = none :=
    insertRefusal_none hv hbv (by rw [hi]; exact hover) (by rw [hi]; exact hroom)
  have hins := insertSpan_claims hnone (lowestFreeRow_eq (r := r) ⟨hr.inRange, hr.isFree, hr.lower⟩)
    (lowestFreeCopy_eq (c := c) ⟨hc.inRange, hc.isFree, hc.lower⟩)
  have hrow := insertRow_eq (r := r) (c := c) (sp := sp) (b := b) (timerRestarted_session s x)
  have hso : StoresOnly (s.timerRestarted x) ((s.timerRestarted x).insertStores r c sp b) := insertStores_only
  have hlow := allocCopy_low ((s.timerRestarted x).claimRow r sp (Row.newDraft sp c)) c (Copy.newDraft r none b)
  have hquiet := allocCopy_quiet ((s.timerRestarted x).claimRow r sp (Row.newDraft sp c)) c (Copy.newDraft r none b)
  refine ⟨(s.timerRestarted x).insertRow r c sp b, ?_, ?_⟩
  · rw [hexec, hins, hrow]
    simp [State.answered, State.itemCountWord, State.items]
  · rw [hrow]
    refine ⟨rfl, fun k => ?_, fun k => ?_, fun k => ?_, ?_, ?_, fun n => ?_, ?_, hso.staged, samePorts_edit hso _,
      sameControl_edit hso (by simp [State.insertStores]) _, fun hf ha => ?_, fun hf => ?_⟩
    · simp [State.insertStores, Row.newDraft]
    · simp [State.insertStores, allocCopy_copy, Copy.newDraft, Copy.free]
    · simp [State.insertStores, allocCopy_slot]
    · simp [State.insertStores]
    · simp [State.insertStores]
    · simp [State.insertStores]
    · simp [State.insertStores]
    · exact hlow (by simpa [State.insertStores] using hf) ha
    · exact hquiet (by simpa [State.insertStores] using hf)

/-! ### AMEND (R68) -/

section
variable {s : State} {x : Session} {b : Body} {r c : Nat}

/-- The stores' part of a first AMEND. -/
def State.amendStores (s : State) (r c : Nat) (b : Body) : State :=
  (s.putRow r { s.row r with draft := some c }).allocCopy c (Copy.newDraft r (s.row r).base b)

theorem amendStores_only : StoresOnly s (s.amendStores r c b) := (StoresOnly.row _ _ _).trans (StoresOnly.allocCopy _ _ _)

theorem startAmend_eq (h : s.session = some x) : s.startAmend r c b =
    (s.amendStores r c b).setSession (some { x with items := x.items ++ [.amend r] }) := by
  have hx : (s.amendStores r c b).session = some x := amendStores_only.session.trans h
  rw [State.startAmend]
  exact (putItems_eq hx _).trans (by rw [← items_eq hx]; rfl)

theorem amendRow_starts {sel : Bool} {f : Body → Body} (hb : b = f (s.bodyOf (orZero (s.row r).amendSource)))
    (h : s.amendRefusal r sel b = none) (hd : hasDraftItem s.items r = false)
    (hf : s.items.length < 96) (hc : s.lowestFreeCopy = some c) :
    s.amendRow r sel f = (s.startAmend r c b, (s.startAmend r c b).amendReply c) := by
  subst hb
  have hn : ¬Config.changeMax ≤ s.items.length := Nat.not_le.mpr hf
  simp only [State.amendRow, h, hd, Bool.false_eq_true, if_false, hn, hc]

theorem amendRow_rewrites {sel : Bool} {f : Body → Body} (hb : b = f (s.bodyOf (orZero (s.row r).amendSource)))
    (h : s.amendRefusal r sel b = none) (hd : hasDraftItem s.items r = true) (hc : (s.row r).draft = some c) :
    s.amendRow r sel f = (s.rewriteBody c b, (s.rewriteBody c b).amendReply c) := by
  subst hb
  simp only [State.amendRow, h, hd, if_true, hc]
  rfl

theorem base_eq (y : Row) : y.base = y.staged.or y.live := by
  unfold Row.base
  cases y.staged <;> rfl

variable (s c b)

/-- The draft's reference moves when its profile changes (R48). -/
theorem rewriteBody_slot (k : Nat) : (s.rewriteBody c b).slot k =
    if (s.copy c).profile = b.profile then s.slot k
    else if (s.copy c).profile = some k then { s.slot k with refCount := (s.slot k).refCount - 1 }
    else if b.profile = some k then { s.slot k with refCount := (s.slot k).refCount + 1 } else s.slot k := by
  unfold State.rewriteBody
  by_cases hp : (s.copy c).profile = b.profile
  · simp [hp]
  · by_cases ha : (s.copy c).profile = some k
    · have hb : b.profile ≠ some k := fun h => hp (ha.trans h.symm)
      simp [ha, addRef_slot, dropRef_slot, hb, Ne.symm hb]
    · by_cases hb : b.profile = some k <;> simp [hp, ha, addRef_slot, dropRef_slot, hb]

theorem rewriteBody_copy (k : Nat) : (s.rewriteBody c b).copy k = if k = c then { s.copy c with body := some b } else s.copy k := by
  unfold State.rewriteBody
  split <;> simp

theorem rewriteBody_keep {α : Type} (g : State → α) (hc : ∀ u y, g (State.putCopy u c y) = g u)
    (ha : ∀ u k, g (State.addRef k u) = g u) (hd : ∀ u k, g (State.dropRef k u) = g u) : g (s.rewriteBody c b) = g s := by
  unfold State.rewriteBody
  split
  · exact hc s _
  · exact (ha _ _).trans ((hd _ _).trans (hc s _))

end

/-- Settles O9: a first AMEND allocates a draft, a later one rewrites it. -/
theorem amendDrafts : Obligations.AmendDrafts := by
  refine ⟨fun p seq args s x b r c hready ho hr hr32 hlen hsel hphase hret hdi hdr hb hbv hroom hc => ?_,
    fun p seq args s x b r c hready ho hr hr32 hlen hsel hphase hret hdi hdr hb hbv => ?_⟩
  · subst hr
    have hexec := exec_amend_owner seq hready ho hr32 hlen
    have hs := (selectsSome_iff (argAt args 0)).2 hsel
    generalize bitsAt (argAt args 0) 0 16 = r at *
    generalize amendBody (argAt args 0) (argAt args 1) (argAt args 2) (args.drop 3) = f at *
    obtain rfl := ho.owner
    have hi : (s.timerRestarted x).items = x.items := items_timerRestarted s x
    have hb' : b = f ((s.timerRestarted x).bodyOf (orZero ((s.timerRestarted x).row r).amendSource)) := by
      rw [orZero_eq_getD, amendSource_eq, timerRestarted_row, hdr]
      exact hb
    have hok : (s.timerRestarted x).amendRefusal r (selectsSome (argAt args 0)) b = none :=
      amendRefusal_none (.inr hphase.symm)
        (by rw [hi]; exact fun h => by rw [hasRetire_iff.2 h] at hret; cases hret) hs hbv
    have ham := amendRow_starts hb' hok (by rw [hi]; exact hdi) (by rw [hi]; exact hroom)
      (lowestFreeCopy_eq (c := c) ⟨hc.inRange, hc.isFree, hc.lower⟩)
    have hst := startAmend_eq (r := r) (c := c) (b := b) (timerRestarted_session s x)
    have hso : StoresOnly (s.timerRestarted x) ((s.timerRestarted x).amendStores r c b) := amendStores_only
    refine ⟨(s.timerRestarted x).startAmend r c b, ?_, ?_⟩
    · rw [hexec, ham, hst]
      simp [State.answered, State.amendReply, State.itemCountWord, State.items]
    · rw [hst]
      refine ⟨rfl, fun k => ?_, fun k => ?_, fun k => ?_, ?_, ?_, fun n => ?_, ?_, hso.staged, samePorts_edit hso _,
        sameControl_edit hso (by simp [State.amendStores]) _⟩
      · simp [State.amendStores]
      · simp [State.amendStores, allocCopy_copy, Copy.newDraft, base_eq]
      · by_cases hk : b.profile = some k <;> simp [State.amendStores, allocCopy_slot, hk]
      · simp [State.amendStores]
      · simp [State.amendStores]
      · simp [State.amendStores]
      · simp [State.amendStores]
  · subst hr
    have hexec := exec_amend_owner seq hready ho hr32 hlen
    have hs := (selectsSome_iff (argAt args 0)).2 hsel
    generalize bitsAt (argAt args 0) 0 16 = r at *
    generalize amendBody (argAt args 0) (argAt args 1) (argAt args 2) (args.drop 3) = f at *
    obtain rfl := ho.owner
    have hi : (s.timerRestarted x).items = x.items := items_timerRestarted s x
    have hb' : b = f ((s.timerRestarted x).bodyOf (orZero ((s.timerRestarted x).row r).amendSource)) := by
      rw [orZero_eq_getD, amendSource_eq, timerRestarted_row, hdr]
      exact hb
    have hok : (s.timerRestarted x).amendRefusal r (selectsSome (argAt args 0)) b = none :=
      amendRefusal_none (by rcases hphase with h | h | h <;> simp [h])
        (by rw [hi]; exact fun h => by rw [hasRetire_iff.2 h] at hret; cases hret) hs hbv
    have ham := amendRow_rewrites (c := c) hb' hok (by rw [hi]; exact hdi) hdr
    have hso : StoresOnly (s.timerRestarted x) ((s.timerRestarted x).rewriteBody c b) := StoresOnly.rewriteBody c b _
    have hsess : ((s.timerRestarted x).rewriteBody c b).session = some { x with timer := s.params.editTimeout } := hso.session
    have hkeep {α : Type} (g : State → α) := rewriteBody_keep (s.timerRestarted x) b c g
    refine ⟨(s.timerRestarted x).rewriteBody c b, ?_, hsess, fun k => ?_, fun k => ?_, fun k => ?_,
      hkeep State.freeCount (fun _ _ => rfl) (by simp) (by simp), hkeep State.lowArmed (fun _ _ => rfl) (by simp) (by simp),
      hkeep State.eventSet (fun _ _ => rfl) (by simp) (by simp), hkeep State.spanIndex (fun _ _ => rfl) (by simp) (by simp),
      fun n => hkeep (fun u => u.link n) (fun _ _ => rfl) (by simp) (by simp),
      hkeep State.superseded (fun _ _ => rfl) (by simp) (by simp), hso.staged, (samePorts_setSession _).trans hso.samePorts,
      (sameControl_setSession _).trans (hso.sameControl (hkeep State.engine (fun _ _ => rfl) (by simp) (by simp)))⟩
    · rw [hexec, ham]
      simp [State.answered, State.amendReply, State.itemCountWord, items_eq hsess]
    · rw [rewriteBody_copy, timerRestarted_copy, timerRestarted_copy]
    · rw [rewriteBody_slot, timerRestarted_copy, timerRestarted_slot]
    · exact hkeep (fun u => u.row k) (fun _ _ => rfl) (by simp) (by simp)

/-! ### RETIRE (R70) -/

section
variable {s : State} {x : Session} {r c : Nat}

theorem retireRow_acts (h : s.retireRefusal r = none) (hroom : s.retireOutcome r = .added → s.items.length < 96) :
    s.retireRow r = (s.retireEffect r,
      { code := .done, data := [packWord [((s.retireEffect r).items.length, 0), ((s.retireOutcome r).code, 16)]] }) := by
  have hn : ¬(s.retireOutcome r = .added ∧ Config.changeMax ≤ s.items.length) := fun ⟨ha, hl⟩ =>
    absurd (hroom ha) (Nat.not_lt.mpr hl)
  simp only [State.retireRow, h, hn, if_false]

theorem retireOutcome_converted (hp : (s.row r).phase ≠ .newDraft) (hx : .amend r ∈ s.items) :
    s.retireOutcome r = .converted := by simp [State.retireOutcome, hp, hx]

theorem retireOutcome_removed (hp : (s.row r).phase = .newDraft) : s.retireOutcome r = .removed := by
  simp [State.retireOutcome, hp]

theorem retireEffect_added (h : s.session = some x) (ho : s.retireOutcome r = .added) :
    s.retireEffect r = s.setSession (some { x with items := x.items ++ [.retire r] }) := by
  simp only [State.retireEffect, ho, items_eq h]
  exact putItems_eq h _

theorem retireEffect_converted (h : s.session = some x) (ho : s.retireOutcome r = .converted) :
    s.retireEffect r =
      (s.freeDraft r).setSession (some { x with items := x.items.map (fun i => if i = .amend r then .retire r else i) }) := by
  have hx : (s.freeDraft r).session = some x := (StoresOnly.freeDraft r s).session.trans h
  simp only [State.retireEffect, ho, items_eq hx]
  exact putItems_eq hx _

theorem retireEffect_removed (h : s.session = some x) (ho : s.retireOutcome r = .removed) :
    s.retireEffect r = ((s.freeDraft r).freeRow r).setSession
      (some { x with items := x.items.filter (fun i => decide (i ≠ .insert r)) }) := by
  have hx : ((s.freeDraft r).freeRow r).session = some x :=
    ((StoresOnly.freeDraft r s).trans (StoresOnly.freeRow r _)).session.trans h
  simp only [State.retireEffect, ho, items_eq hx]
  exact putItems_eq hx _

end

/-- Settles O10: the three outcomes of a RETIRE. -/
theorem retireByItem : Obligations.RetireByItem := by
  intro p seq w s x r hready ho hr hr32 hret
  subst hr
  have hexec := exec_retire_owner seq hready ho hr32
  have hi : (s.timerRestarted x).items = x.items := items_timerRestarted s x
  have hx := timerRestarted_session s x
  generalize bitsAt w 0 16 = r at *
  obtain rfl := ho.owner
  have hnr : .retire r ∉ (s.timerRestarted x).items := by
    rw [hi]
    exact fun h => by rw [hasRetire_iff.2 h] at hret; cases hret
  refine ⟨fun hp ha hroom => ?_, fun c hp ha hd => ?_, fun c hp hd hw => ?_⟩
  · have hnd : ((s.timerRestarted x).row r).phase ≠ .newDraft := by rcases hp with h | h <;> simp [h]
    have hna : .amend r ∉ (s.timerRestarted x).items := by simpa [hi] using ha
    have hout := retireOutcome_added hnd hna
    rw [hexec, retireRow_acts (retireRefusal_none (s := s.timerRestarted x) (.inr hp.symm) hnr) (fun _ => by rw [hi]; exact hroom),
      retireEffect_added hx hout, hout]
    simp [State.answered, State.withItems, State.items, RetireOutcome.code, State.timerRestarted, State.setSession]
  · have hnd : ((s.timerRestarted x).row r).phase ≠ .newDraft := by rcases hp with h | h <;> simp [h]
    have hna : .amend r ∈ (s.timerRestarted x).items := by simpa [hi] using ha
    have hout := retireOutcome_converted hnd hna
    have hso : StoresOnly (s.timerRestarted x) ((s.timerRestarted x).freeDraft r) := StoresOnly.freeDraft r _
    have he := retireEffect_converted hx hout
    refine ⟨(s.timerRestarted x).retireEffect r, ?_, ?_⟩
    · rw [hexec, retireRow_acts (retireRefusal_none (s := s.timerRestarted x) (.inr hp.symm) hnr) (fun h => by rw [hout] at h; cases h),
        he, hout]
      simp only [State.answered, State.items, State.setSession_session, List.length_map]
      rfl
    · rw [he]
      refine ⟨rfl, fun k => ?_, fun k => ?_, ?_, fun k => ?_, ?_, fun n => ?_, hso.staged, ?_, samePorts_edit hso _,
        sameControl_edit hso (by simp) _⟩
      · simp [freeDraft_row]
      · simp [freeDraft_copy, hd, eq_comm]
      · simp [freeDraft_freeCount, hd]
      · by_cases hk : (s.copy c).profile = some k <;> simp [freeDraft_slot, hd, hk]
      · simp
      · simp
      · simp
  · have hout := retireOutcome_removed (s := s.timerRestarted x) (r := r) hp
    have hso : StoresOnly (s.timerRestarted x) (((s.timerRestarted x).freeDraft r).freeRow r) :=
      (StoresOnly.freeDraft r _).trans (StoresOnly.freeRow r _)
    have hw' : (((s.timerRestarted x).freeDraft r).row r).watch = [] := by simpa [freeDraft_row] using hw
    have he := retireEffect_removed hx hout
    refine ⟨(s.timerRestarted x).retireEffect r, ?_, ?_⟩
    · rw [hexec, retireRow_acts (retireRefusal_none (s := s.timerRestarted x) (.inl hp) hnr) (fun h => by rw [hout] at h; cases h),
        he, hout]
      simp only [State.answered, State.items, State.setSession_session]
      rfl
    · rw [he]
      refine ⟨rfl, fun k => ?_, fun k => ?_, ?_, fun k => ?_, ?_, fun n => ?_, hso.staged, ?_, samePorts_edit hso _,
        sameControl_edit hso (by simp) _⟩
      · by_cases hk : k = r <;> simp [freeRow_row, freeDraft_row, hk]
      · simp [freeDraft_copy, hd, eq_comm]
      · simp [freeDraft_freeCount, hd]
      · by_cases hk : (s.copy c).profile = some k <;> simp [freeDraft_slot, hd, hk]
      · simp
      · simp [freeRow_link_unwatched _ _ hw']
      · simp

end Sys2Proof.Machine
end

section
/-! PROOF. SEAL: the change set handed over. -/

namespace Sys2Proof.Machine

/-! ### Rows at the seal (R15) -/

/-- A row as the seal leaves it for one item that names it. -/
def Row.sealedBy (x : Row) : ChangeItem → Row
  | .insert _ => { x with phase := .newStaged, staged := x.draft, draft := none }
  | .amend _ => { x with staged := x.draft, draft := none }
  | .retire _ => { x with phase := .dying }
  | .defineProfile _ => x

theorem sealRow_row (s : State) (i : ChangeItem) (r : Nat) :
    (s.sealRow i).row r = if i.row? = some r then (s.row r).sealedBy i else s.row r := by
  cases i with
  | insert q | amend q | retire q =>
    by_cases h : r = q
    · subst h; simp [State.sealRow, ChangeItem.row?, Row.sealedBy]
    · simp [State.sealRow, ChangeItem.row?, h, Ne.symm h]
  | defineProfile k => simp [State.sealRow, ChangeItem.row?]

theorem row_foldl_sealRow_of_unnamed {r : Nat} : ∀ {l : List ChangeItem} {s : State}, (∀ i ∈ l, i.row? ≠ some r) →
    (l.foldl State.sealRow s).row r = s.row r
  | [], _, _ => rfl
  | i :: l, s, h => by
    rw [List.foldl_cons, row_foldl_sealRow_of_unnamed (fun j hj => h j (List.mem_cons_of_mem _ hj)), sealRow_row,
      if_neg (h i List.mem_cons_self)]

/-- One item alone names the row. -/
theorem row_foldl_sealRow_of_named {s : State} {l : List ChangeItem} {i : ChangeItem} {r : Nat} (hn : l.Nodup) (hi : i ∈ l)
    (hr : i.row? = some r) (hu : ∀ j ∈ l, j.row? = some r → j = i) :
    (l.foldl State.sealRow s).row r = (s.row r).sealedBy i := by
  obtain ⟨pre, post, rfl⟩ := List.append_of_mem hi
  have hd := List.nodup_middle.1 hn
  have hnot : ∀ j ∈ pre ++ post, j.row? ≠ some r := fun j hj hjr =>
    (List.nodup_cons.1 hd).1 (hu j (by simp only [List.mem_append, List.mem_cons] at hj ⊢; tauto) hjr ▸ hj)
  rw [List.foldl_append, List.foldl_cons,
    row_foldl_sealRow_of_unnamed (fun j hj => hnot j (List.mem_append_right _ hj)), sealRow_row, if_pos hr,
    row_foldl_sealRow_of_unnamed (fun j hj => hnot j (List.mem_append_left _ hj))]

theorem row?_eq_some {i : ChangeItem} {r : Nat} : i.row? = some r ↔ i = .insert r ∨ i = .amend r ∨ i = .retire r := by
  cases i <;> simp [ChangeItem.row?]

theorem copy_mapValues (s : State) (c : Nat) :
    (s.setCopies (Table.mapValues Copy.sealed s.copies)).copy c = (s.copy c).sealed := Table.read_mapValues _ _ rfl _ _

theorem slot_mapValues (s : State) (k : Nat) :
    (s.setSlots (Table.mapValues Slot.sealed s.slots)).slot k = (s.slot k).sealed := Table.read_mapValues _ _ rfl _ _

/-- The stores' part of the seal. -/
def State.sealStores (s : State) (items : List ChangeItem) : State :=
  let t := items.foldl State.sealRow s
  (t.setCopies (Table.mapValues Copy.sealed t.copies)).setSlots (Table.mapValues Slot.sealed t.slots)

section
variable (s : State) (items : List ChangeItem)

theorem sealSession_eq (pol : Policy) :
    s.sealSession pol = ((s.sealStores s.items).setStaged (some { items := s.items, policy := pol })).setSession none := rfl

theorem sealStores_only : StoresOnly s (s.sealStores items) :=
  (StoresOnly.foldl StoresOnly.sealRow items s).trans ((StoresOnly.setCopies _ _).trans (StoresOnly.setSlots _ _))

theorem foldl_sealRow_keep {α : Type} (g : State → α) (h : ∀ u r y, g (State.putRow u r y) = g u) :
    g (items.foldl State.sealRow s) = g s :=
  foldl_keep g (fun _ i => match i with
    | .insert _ => h _ _ _
    | .amend _ => h _ _ _
    | .retire _ => h _ _ _
    | .defineProfile _ => rfl) items s

theorem sealStores_keep {α : Type} (g : State → α) (h : ∀ u r y, g (State.putRow u r y) = g u)
    (hc : ∀ u y, g (State.setCopies u y) = g u) (hk : ∀ u y, g (State.setSlots u y) = g u) : g (s.sealStores items) = g s :=
  (hk _ _).trans ((hc _ _).trans (foldl_sealRow_keep s items g h))

theorem sealStores_row (r : Nat) : (s.sealStores items).row r = (items.foldl State.sealRow s).row r := rfl

theorem sealStores_copy (c : Nat) : (s.sealStores items).copy c = (s.copy c).sealed := by
  have h : (items.foldl State.sealRow s).copy c = s.copy c := foldl_sealRow_keep s items (fun u => u.copy c) (fun _ _ _ => rfl)
  rw [← h]
  exact copy_mapValues _ c

theorem sealStores_slot (k : Nat) : (s.sealStores items).slot k = (s.slot k).sealed := by
  have h : (items.foldl State.sealRow s).slot k = s.slot k := foldl_sealRow_keep s items (fun u => u.slot k) (fun _ _ _ => rfl)
  rw [← h]
  exact slot_mapValues _ k

end

/-- Settles O15: the rows by their items, the drafts and the pending slots by their states, and the empty set. -/
theorem sealHandsOver : Obligations.SealHandsOver := by
  intro p seq w s x hready ho hw hst
  have hexec := exec_seal_owner seq hready ho hw
  obtain rfl := ho.owner
  have hi : (s.timerRestarted x).items = x.items := items_timerRestarted s x
  have hns : (s.timerRestarted x).staged.isSome = false := by simp [hst]
  have hpol : (policyOfWord w).code = w.toNat := by obtain rfl | rfl := hw <;> rfl
  refine ⟨fun hne => ?_, fun he => ?_⟩
  · have hseal : (s.timerRestarted x).sealWith (policyOfWord w) =
        ((s.timerRestarted x).sealSession (policyOfWord w), sealReply x.items.length (policyOfWord w)) := by
      simp only [State.sealWith, hns, Bool.false_eq_true, if_false, hi, hne]
    have hso := sealStores_only (s.timerRestarted x) x.items
    have hkeep {α : Type} (g : State → α) := sealStores_keep (s.timerRestarted x) x.items g
    have hun (r : Nat) (hin : .insert r ∉ x.items) (ham : .amend r ∉ x.items) (hre : .retire r ∉ x.items) :
        ∀ j ∈ x.items, j.row? ≠ some r := by
      rintro j hj hr
      obtain rfl | rfl | rfl := row?_eq_some.1 hr
      · exact hin hj
      · exact ham hj
      · exact hre hj
    refine ⟨(s.timerRestarted x).sealSession (policyOfWord w), ?_, ?_⟩
    · rw [hexec, hseal, ← hpol]
      rfl
    · rw [sealSession_eq, hi]
      refine ⟨rfl, rfl, sealStores_copy _ _, sealStores_slot _ _, fun hn r => ⟨fun hin ham hre => ?_, fun ham hin hre => ?_,
        fun hre hin ham => ?_⟩, fun r hin ham hre => ?_, hkeep State.spanIndex (fun _ _ _ => rfl) (fun _ _ => rfl) (fun _ _ => rfl),
        hkeep State.freeCount (fun _ _ _ => rfl) (fun _ _ => rfl) (fun _ _ => rfl),
        hkeep State.superseded (fun _ _ _ => rfl) (fun _ _ => rfl) (fun _ _ => rfl),
        hkeep State.lowArmed (fun _ _ _ => rfl) (fun _ _ => rfl) (fun _ _ => rfl),
        fun n => hkeep (fun u => u.link n) (fun _ _ _ => rfl) (fun _ _ => rfl) (fun _ _ => rfl),
        hkeep State.eventSet (fun _ _ _ => rfl) (fun _ _ => rfl) (fun _ _ => rfl), ?_, ?_⟩
      · refine row_foldl_sealRow_of_named (s := s.timerRestarted x) hn hin rfl (fun j hj hr => ?_)
        obtain h | rfl | rfl := row?_eq_some.1 hr
        · exact h
        · exact absurd hj ham
        · exact absurd hj hre
      · refine row_foldl_sealRow_of_named (s := s.timerRestarted x) hn ham rfl (fun j hj hr => ?_)
        obtain rfl | h | rfl := row?_eq_some.1 hr
        · exact absurd hj hin
        · exact h
        · exact absurd hj hre
      · refine row_foldl_sealRow_of_named (s := s.timerRestarted x) hn hre rfl (fun j hj hr => ?_)
        obtain rfl | rfl | h := row?_eq_some.1 hr
        · exact absurd hj hin
        · exact absurd hj ham
        · exact h
      · exact row_foldl_sealRow_of_unnamed (s := s.timerRestarted x) (hun r hin ham hre)
      · exact (samePorts_setSession _).trans (hso.samePorts.trans ((samePorts_setStaged _).trans (samePorts_setSession _)))
      · exact (sameControl_setSession _).trans ((hso.sameControl (hkeep State.engine (fun _ _ _ => rfl) (fun _ _ => rfl)
          (fun _ _ => rfl))).trans ((sameControl_setStaged _).trans (sameControl_setSession _)))
  · have hseal : (s.timerRestarted x).sealWith (policyOfWord w) =
        ((s.timerRestarted x).closeSession, sealReply 0 (policyOfWord w)) := by
      simp only [State.sealWith, hns, Bool.false_eq_true, if_false, hi, he, if_true]
    rw [hexec, hseal, ← hpol]
    rfl

end Sys2Proof.Machine
end

section
/-! PROOF. The effective pedestal and the curve (R26, R54). -/

namespace Sys2Proof.Machine

/-! ### The effective pedestal -/

theorem saturate_eq (x : Int) : saturate x = max (-2048) (min 2047 x) := by
  unfold saturate
  split
  · omega
  · split <;> omega

theorem effective_range (b : Body) (first c : Nat) : -2048 ≤ b.effective first c ∧ b.effective first c ≤ 2047 := by
  unfold Body.effective
  split <;> rw [saturate_eq] <;> omega

theorem effective_of_no_trim {b : Body} {first c : Nat} (h : ∀ y ∈ b.trims, y.offset ≠ c - first) :
    b.effective first c = saturate b.pedestal := by
  have hf : b.trims.find? (fun t => decide (t.offset = c - first)) = none := by
    rw [List.find?_eq_none]
    exact fun y hy => by simpa using h y hy
  simp only [Body.effective, hf]

theorem effective_of_trim {b : Body} {first c : Nat} {pre : List Trim} {y : Trim} {post : List Trim}
    (hb : b.trims = pre ++ y :: post) (hp : ∀ z ∈ pre, z.offset ≠ c - first) (hy : y.offset = c - first) :
    b.effective first c = saturate (b.pedestal + y.delta) := by
  have hn : pre.find? (fun t => decide (t.offset = c - first)) = none := by
    rw [List.find?_eq_none]
    exact fun z hz => by simpa using hp z hz
  have hf : b.trims.find? (fun t => decide (t.offset = c - first)) = some y := by
    rw [hb, List.find?_append, hn, List.find?_cons_of_pos (by simpa using hy)]
    rfl
  simp only [Body.effective, hf]

/-! ### The curve -/

/-- Points that lie at or below the input are passed over. -/
theorem curveFrom_at {p : Point} {post : List Point} {x : Int} (hp : (p.input : Int) ≤ x) :
    ∀ (pre : List Point) (q : Point), (∀ y ∈ pre, (y.input : Int) ≤ x) → curveFrom q (pre ++ p :: post) x = curveFrom p post x
  | [], q, _ => by simp only [List.nil_append, curveFrom, if_neg (Int.not_lt.mpr hp)]
  | y :: pre, q, h => by
    rw [List.cons_append, curveFrom, if_neg (Int.not_lt.mpr (h y List.mem_cons_self)),
      curveFrom_at hp pre y (fun z hz => h z (List.mem_cons_of_mem _ hz))]

theorem curve_at {p : Point} {pre post : List Point} {x : Int} (hp : (p.input : Int) ≤ x)
    (h : ∀ y ∈ pre, (y.input : Int) ≤ x) : curve (pre ++ p :: post) x = curveFrom p post x := by
  cases pre with
  | nil => simp only [List.nil_append, curve, if_neg (Int.not_lt.mpr hp)]
  | cons y pre =>
    rw [List.cons_append, curve, if_neg (Int.not_lt.mpr (h y List.mem_cons_self)),
      curveFrom_at hp pre y (fun z hz => h z (List.mem_cons_of_mem _ hz))]

/-- In a valid list the points before one lie below it. -/
theorem input_le_of_before {pre post : List Point} {p : Point} {x : Int} (hv : pointsValid (pre ++ p :: post) = true)
    (hp : (p.input : Int) ≤ x) : ∀ y ∈ pre, (y.input : Int) ≤ x := fun y hy => by
  obtain ⟨-, -, -, -, hasc⟩ := (pointsValid_iff _).1 hv
  have : y.input < p.input := (List.pairwise_append.1 hasc).2.2 y hy p List.mem_cons_self
  omega

/-- The part of a rise that lies before a point of a segment is a part of it. -/
theorem segment_between {rise d t : Int} (h0 : 0 ≤ t) (ht : t < d) : min 0 rise ≤ (rise * t).tdiv d ∧ (rise * t).tdiv d ≤ max 0 rise := by
  have hd : 0 < d := by omega
  rcases Int.le_total 0 rise with hr | hr
  · have hn : 0 ≤ (rise * t).tdiv d := Int.tdiv_nonneg (Int.mul_nonneg hr h0) hd.le
    have hm : (rise * t).tdiv d ≤ rise := by
      have h := Int.tdiv_le_tdiv hd (Int.mul_le_mul_of_nonneg_left ht.le hr)
      rwa [Int.mul_tdiv_cancel _ hd.ne'] at h
    omega
  · have hn : 0 ≤ (-rise * t).tdiv d := Int.tdiv_nonneg (Int.mul_nonneg (by omega) h0) hd.le
    have hm : (-rise * t).tdiv d ≤ -rise := by
      have h := Int.tdiv_le_tdiv hd (Int.mul_le_mul_of_nonneg_left ht.le (show 0 ≤ -rise by omega))
      rwa [Int.mul_tdiv_cancel _ hd.ne'] at h
    rw [Int.neg_mul, Int.neg_tdiv] at hn hm
    omega

theorem curveFrom_range {x : Int} : ∀ (ps : List Point) (p : Point), (p.input : Int) ≤ x →
    (∀ y ∈ p :: ps, -32768 ≤ y.output ∧ y.output ≤ 32767) → -32768 ≤ curveFrom p ps x ∧ curveFrom p ps x ≤ 32767
  | [], p, _, h => h p List.mem_cons_self
  | q :: ps, p, hp, h => by
    have hpo := h p List.mem_cons_self
    have hqo := h q (List.mem_cons_of_mem _ List.mem_cons_self)
    rw [curveFrom]
    split
    next hx =>
      have hs := segment_between (rise := q.output - p.output) (d := (q.input : Int) - p.input) (t := x - p.input)
        (by omega) (by omega)
      omega
    next hx => exact curveFrom_range ps q (by omega) (fun y hy => h y (List.mem_cons_of_mem _ hy))

theorem curve_range {ps : List Point} (h : ∀ y ∈ ps, -32768 ≤ y.output ∧ y.output ≤ 32767) (x : Int) :
    -32768 ≤ curve ps x ∧ curve ps x ≤ 32767 := by
  cases ps with
  | nil => simp [curve]
  | cons p ps =>
    rw [curve]
    split
    · exact h p List.mem_cons_self
    next hx => exact curveFrom_range ps p (by omega) h

/-- Settles O48: saturation of the sum with the trim, and the four steps of a curve. -/
theorem probeArithmetic : Obligations.ProbeArithmetic := by
  refine ⟨fun b first c => ⟨(effective_range b first c).1, (effective_range b first c).2, fun h hl hu => ?_,
    fun pre y post hb hp hy => ?_⟩, fun ps x hv => ?_, fun p ps x h => if_pos h, fun ps p x hv hp => ?_,
    fun pre p q post x hv hp hq => ?_⟩
  · rw [effective_of_no_trim h, saturate_eq]
    omega
  · rw [effective_of_trim hb hp hy, saturate_eq]
  · obtain ⟨-, -, -, hout, -⟩ := (pointsValid_iff ps).1 hv
    exact curve_range hout x
  · rw [curve_at hp (input_le_of_before hv hp)]
    rfl
  · rw [curve_at hp (input_le_of_before hv hp), curveFrom, if_pos hq]

end Sys2Proof.Machine
end

section
/-! PROOF. The lookup engine's turn and the lookup (7.2, R9). -/

namespace Sys2Proof.Machine

/-! ### What offers (R127) -/

theorem kind_eq_some {q : QueuedCommand} {k : CmdKind} : q.kind = some k ↔ CmdKind.ofCode (headerKind q.header) = some k := Iff.rfl

theorem formError_query {q : QueuedCommand} (hk : q.kind = some .query) : q.formError = none ↔
    q.cut = false ∧ q.words.length = headerCount q.header ∧ lengthOk .query q.args = true ∧ rangeOk .query q.args = true := by
  simp only [QueuedCommand.formError, hk]
  by_cases hc : q.cut = true ∨ q.words.length ≠ headerCount q.header ∨ lengthOk .query q.args = false
  · rw [if_pos hc]
    refine iff_of_false (by simp) ?_
    rintro ⟨h1, h2, h3, -⟩
    rcases hc with h | h | h
    · simp [h1] at h
    · exact h h2
    · simp [h3] at h
  · rw [if_neg hc]
    simp only [not_or, Bool.not_eq_true, Bool.not_eq_false, ne_eq, not_not] at hc
    by_cases hr : rangeOk .query q.args = false
    · simp [hr]
    · simp [hc.1, hc.2.1, hc.2.2, Bool.eq_true_of_not_eq_false hr]

/-- A port offers the QUERY at its front just when it stands there whole, of right form, with room for its response. -/
theorem portOffers_iff {s : State} {p : Port} {q : QueuedCommand} : s.portOffers p = some q ↔ s.QueryOffered p q := by
  have hlen : lengthOk .query q.args = true ↔ q.args.length = 1 ∨ q.args.length = 2 := by simp [lengthOk]
  have hrange : rangeOk .query q.args = true ↔ bitsAt (argAt q.args 0) 0 16 < 16384 ∧
      (q.args.length = 1 ∨ bitsAt (argAt q.args 1) 0 16 ≤ 4095) := by
    simp only [rangeOk, namedBy, Bool.and_eq_true, Bool.or_eq_true, decide_eq_true_eq]
    exact and_congr ⟨fun h => of_decide_eq_true h, fun h => decide_eq_true h⟩ Iff.rfl
  have hroom (h : q.kind = some .query) : (s.port p).hasRoom q = true ↔ (s.port p).responses.length + 18 ≤ 64 := by
    simp [PortState.hasRoom, QueuedCommand.roomNeeded, h, CmdKind.maxData, Config.fifoWords]
  unfold State.portOffers
  cases hh : (s.port p).commands.head? with
  | none => exact iff_of_false (by simp) (fun h => by simpa [hh] using h.front)
  | some q' =>
    constructor
    · intro h
      dsimp only at h
      split at h
      next hc =>
        cases h
        obtain ⟨hk, hr, hm, hf⟩ := hc
        obtain ⟨hcut, hw, hl, hg⟩ := (formError_query hk).1 hf
        obtain ⟨hch, hpr⟩ := hrange.1 hg
        exact ⟨hh, hk, hcut, hw, hlen.1 hl, hch, fun h2 => hpr.resolve_left (by omega), (hroom hk).1 hm⟩
      next => cases h
    · intro h
      have he : q' = q := Option.some.inj (hh.symm.trans h.front)
      subst he
      have hl := hlen.2 h.count
      have hg := hrange.2 ⟨h.channel, h.count.imp_right h.probe⟩
      refine if_pos ⟨h.kind, ?_, (hroom h.kind).2 h.room, (formError_query h.kind).2 ⟨h.uncut, h.whole, hl, hg⟩⟩
      rw [ready_iff, h.uncut]
      simp [h.whole]

theorem portOffers_isSome {s : State} {p : Port} : (s.portOffers p).isSome = true ↔ ∃ q, s.QueryOffered p q := by
  simp only [Option.isSome_iff_exists, portOffers_iff]

theorem linkOffer_isSome {s : State} {n : Nat} :
    (s.linkOffer n).isSome = true ↔ ∃ q ∈ (s.link n).requests, q.stage = .waiting := by
  simp [State.linkOffer]

theorem offers_iff {s : State} {k : Nat} (hk : k < 14) : s.offers k = true ↔ s.Offering k := by
  unfold State.offers State.Offering
  by_cases h : k < 12
  · rw [if_pos (show k < Config.links from h), linkOffer_isSome]
    constructor
    · exact fun ho => .inl ⟨h, ho⟩
    · rintro (⟨-, ho⟩ | ⟨rfl, -⟩ | ⟨rfl, -⟩)
      · exact ho
      · omega
      · omega
  · rw [if_neg (show ¬k < Config.links from h), portOffers_isSome]
    have : k = 12 ∨ k = 13 := by omega
    obtain rfl | rfl := this <;> simp [requesterPort]

/-! ### The turn (R128) -/

theorem lowestFrom_eq_some_iff {q : Nat → Bool} : ∀ {n i j : Nat}, lowestFrom q n i = some j ↔
    i ≤ j ∧ j < i + n ∧ q j = true ∧ ∀ k, i ≤ k → k < j → q k = false
  | 0, i, j => by simp only [lowestFrom]; exact iff_of_false (by simp) (by omega)
  | n + 1, i, j => by
    have ih := lowestFrom_eq_some_iff (q := q) (n := n) (i := i + 1) (j := j)
    rw [lowestFrom]
    by_cases h : q i = true
    · rw [if_pos h, Option.some.injEq]
      refine ⟨fun e => ?_, fun ⟨h1, h2, h3, h4⟩ => ?_⟩
      · subst e
        exact ⟨le_refl _, by omega, h, fun k h1 h2 => by omega⟩
      · by_contra hne
        have := h4 i (le_refl _) (by omega)
        simp [h] at this
    · rw [if_neg h, ih]
      have hf : q i = false := by simpa using h
      refine ⟨fun ⟨h1, h2, h3, h4⟩ => ⟨by omega, by omega, h3, fun k h5 h6 => ?_⟩, fun ⟨h1, h2, h3, h4⟩ => ?_⟩
      · by_cases he : k = i
        · rw [he]; exact hf
        · exact h4 k (by omega) h6
      · have hne : j ≠ i := fun e => h (e ▸ h3)
        exact ⟨by omega, by omega, h3, fun k h5 h6 => h4 k (by omega) h6⟩

theorem selected_iff {s : State} {k : Nat} : s.selected = some k ↔ ∃ j < 14, k = (s.engine + j) % 14 ∧ s.Offering k ∧
    ∀ i < j, ¬ s.Offering ((s.engine + i) % 14) := by
  have hm (i : Nat) : (s.engine + i) % 14 < 14 := Nat.mod_lt _ (by omega)
  simp only [State.selected, Option.map_eq_some_iff, lowestFrom_eq_some_iff, Config.requesters]
  constructor
  · rintro ⟨j, ⟨-, hj, ho, hlow⟩, rfl⟩
    refine ⟨j, by omega, rfl, (offers_iff (hm j)).1 ho, fun i hi hoff => ?_⟩
    have := hlow i (Nat.zero_le i) hi
    rw [(offers_iff (hm i)).2 hoff] at this
    cases this
  · rintro ⟨j, hj, rfl, ho, hlow⟩
    refine ⟨j, ⟨Nat.zero_le j, by omega, (offers_iff (hm j)).2 ho, fun i _ hi => ?_⟩, rfl⟩
    rw [Bool.eq_false_iff, Ne, offers_iff (hm i)]
    exact hlow i hi

theorem selected_eq_none {s : State} : s.selected = none ↔ ∀ k < 14, ¬ s.Offering k := by
  constructor
  · intro h k hk hoff
    have hex : ∃ j, j < 14 ∧ s.Offering ((s.engine + j) % 14) := by
      refine ⟨(k + 14 - s.engine % 14) % 14, Nat.mod_lt _ (by omega), ?_⟩
      have : (s.engine + (k + 14 - s.engine % 14) % 14) % 14 = k := by omega
      rwa [this]
    classical
    let j := Nat.find hex
    have hj : j < 14 ∧ s.Offering ((s.engine + j) % 14) := Nat.find_spec hex
    have hsel : s.selected = some ((s.engine + j) % 14) := selected_iff.2
      ⟨j, hj.1, rfl, hj.2, fun i hi ho => Nat.find_min hex hi ⟨by omega, ho⟩⟩
    rw [h] at hsel
    cases hsel
  · intro h
    cases hs : s.selected with
    | none => rfl
    | some k =>
      obtain ⟨j, hj, rfl, ho, -⟩ := selected_iff.1 hs
      exact absurd ho (h _ (Nat.mod_lt _ (by omega)))

/-! ### The lookup (R3, R5, R9) -/

theorem visibleAt_iff {x : Row} {e : Nat} :
    x.visibleAt e = true ↔ (∃ b, x.born = some b ∧ b ≤ e) ∧ ∀ d, x.dies = some d → e < d := by
  unfold Row.visibleAt
  cases hb : x.born with
  | none => simp
  | some b => cases hd : x.dies <;> simp

theorem covers_iff {x : Row} {c : Nat} :
    x.covers c = true ↔ ∃ sp, x.span = some sp ∧ sp.first ≤ c ∧ c ≤ sp.first + sp.count - 1 := by
  unfold Row.covers
  cases hs : x.span with
  | none => simp
  | some sp =>
    simp only [Span.contains, Bool.and_eq_true, decide_eq_true_eq, Option.some.injEq, exists_eq_left']
    exact Iff.rfl

/-- The row that the lookup gives covers the channel and is visible, and stands in the index. -/
theorem lookup_some {s : State} {c e r : Nat} (h : s.lookup c e = some r) :
    (s.row r).covers c = true ∧ (s.row r).visibleAt e = true ∧ ∃ it ∈ s.spanIndex, it.row = r := by
  obtain ⟨it, hf, rfl⟩ := Option.map_eq_some_iff.1 h
  have hp := List.find?_some hf
  simp only [Bool.and_eq_true] at hp
  exact ⟨hp.1.2, hp.2, it, List.mem_of_find?_eq_some hf, rfl⟩

/-- Settles O39: the turn goes to the first that offers, and the lookup finds just the visible rows that cover the channel. -/
theorem engineTurnsAndLookupFinds : Obligations.EngineTurnsAndLookupFinds := by
  refine ⟨fun s => ⟨fun k => selected_iff, selected_eq_none, fun h i hi => ?_⟩, fun s c e => ⟨fun r hr => ?_,
    fun r sp b hsp h1 h256 hle hlast hb hbe hd hin => ?_⟩⟩
  · have hs : s.selected = none := selected_eq_none.2 h
    have hl : s.selectedLink = none := by simp only [State.selectedLink, hs]
    rcases hi with rfl | rfl | rfl | rfl | rfl
    · simp only [exec, execFetchTaken, hl]
    · simp only [exec, execFetchProfileTaken, hl]
    · simp only [exec, execWatchTaken, hl]
    · simp only [exec, execUnwatchTaken, hl]
    · simp only [exec, execQuery, hs]
  · obtain ⟨hc, hv, -⟩ := lookup_some hr
    exact ⟨covers_iff.1 hc, visibleAt_iff.1 hv⟩
  · have hcov : (s.row r).covers c = true := covers_iff.2 ⟨sp, hsp, hle, hlast⟩
    have hvis : (s.row r).visibleAt e = true := visibleAt_iff.2 ⟨⟨b, hb, hbe⟩, hd⟩
    have hf : (s.spanIndex.find? (fun it => decide (c ≤ it.first + 255) && decide (it.first ≤ c) && (s.row it.row).covers c
        && (s.row it.row).visibleAt e)).isSome = true := by
      rw [List.find?_isSome]
      refine ⟨_, hin, ?_⟩
      simp only [hcov, hvis, Bool.and_true, Bool.and_eq_true, decide_eq_true_eq]
      omega
    obtain ⟨it, hit⟩ := Option.isSome_iff_exists.1 hf
    exact ⟨it.row, by simp only [State.lookup, hit, Option.map_some]⟩

end Sys2Proof.Machine
end

section
/-! PROOF. The transmitter's choice at a frame boundary (R118, R119). -/

namespace Sys2Proof.Machine

section
variable {s : State} {n : Nat}

theorem kick_begins {f : TxFrame} {l : Link} (ht : (s.link n).tx = none) (h : s.nextFrame n = some (f, l)) :
    s.kick n = s.putLink n { l with tx := some f } := by
  simp only [State.kick, ht, if_true, h]

theorem kick_idle (h : s.nextFrame n = none) : s.kick n = s := by
  simp only [State.kick, h, ite_self]

theorem kick_busy (ht : (s.link n).tx ≠ none) : s.kick n = s := if_neg ht

theorem due_iff {l : Link} : l.due = true ↔ l.sendCount = 0 ∨ l.timer = .runOut ∧ l.sendCount < 4 := by
  simp only [Link.due, Bool.or_eq_true, Bool.and_eq_true, decide_eq_true_eq]

theorem nextFrame_welcome {tag : Tag} (h : (s.link n).welcome = some tag) :
    s.nextFrame n = some ({ tag := tag, content := .welcome n s.epoch s.opState, position := 0 }, s.link n) := by
  simp only [State.nextFrame, h]

theorem nextFrame_resync (hw : (s.link n).welcome = none) (hu : (s.link n).state = .up) (hf : (s.link n).resyncFlag = true)
    (hd : (s.link n).due = true) : s.nextFrame n =
      some ({ tag := 0#2, content := .resync (s.link n).resyncNumber s.epoch (s.link n).watchCount, position := 0 }, s.link n) := by
  simp only [State.nextFrame, hw, hu, hf, hd, and_self, if_true]

theorem nextFrame_notice {y : Notice} {ys : List Notice} (hw : (s.link n).welcome = none) (hu : (s.link n).state = .up)
    (hf : (s.link n).resyncFlag = false) (hn : (s.link n).notices = y :: ys) (hd : (s.link n).due = true) :
    s.nextFrame n = some ({ tag := 0#2, content := .notice y, position := 0 }, s.link n) := by
  simp [State.nextFrame, hw, hu, hf, hd, hn]

/-- No RESYNC and no notice of the link is owed and due. -/
def Link.OwesNothingDue (l : Link) : Prop :=
  l.state ≠ .up ∨ (0 < l.sendCount ∧ l.timer ≠ .runOut) ∨ (l.resyncFlag = false ∧ l.notices = [])

theorem nextFrame_rest (hw : (s.link n).welcome = none) (ho : (s.link n).OwesNothingDue) :
    s.nextFrame n = match (s.link n).requests.find? (fun q => decide (q.stage = .taken)) with
      | some q => some ({ tag := q.tag, content := s.answerContent q, position := 0 },
          { s.link n with requests := markSending (s.link n).requests })
      | none => match (s.link n).prompts.head? with
        | some p => some ({ tag := p.tag, content := .refusal p.reason s.epoch true, position := 0 }, s.link n)
        | none => none := by
  have hdue : (0 < (s.link n).sendCount ∧ (s.link n).timer ≠ .runOut) → (s.link n).due = false := fun h => by
    rw [Bool.eq_false_iff, Ne, due_iff]
    rintro (h0 | ⟨h1, -⟩)
    · omega
    · exact h.2 h1
  have hr : ¬((s.link n).state = .up ∧ (s.link n).resyncFlag = true ∧ (s.link n).due = true) := by
    rintro ⟨hu, hf, hd⟩
    rcases ho with h | h | h
    · exact h hu
    · simp [hdue h] at hd
    · simp [h.1] at hf
  have hnone : (if (s.link n).state = .up ∧ (s.link n).resyncFlag = false ∧ (s.link n).due = true
      then (s.link n).notices.head? else none) = none := by
    split
    next hc =>
      rcases ho with h | h | h
      · exact absurd hc.1 h
      · exact absurd hc.2.2 (by simp [hdue h])
      · simp [h.2]
    next => rfl
  simp only [State.nextFrame, hw, hr, if_false, hnone] <;> rfl

theorem find?_taken {pre post : List Request} {q : Request} (hp : ∀ y ∈ pre, y.stage ≠ .taken) (hq : q.stage = .taken) :
    (pre ++ q :: post).find? (fun q => decide (q.stage = .taken)) = some q := by
  have hn : pre.find? (fun q => decide (q.stage = .taken)) = none := by
    rw [List.find?_eq_none]
    exact fun y hy => by simpa using hp y hy
  rw [List.find?_append, hn, List.find?_cons_of_pos (by simpa using hq)]
  rfl

theorem find?_taken_none {rs : List Request} (h : ∀ q ∈ rs, q.stage ≠ .taken) :
    rs.find? (fun q => decide (q.stage = .taken)) = none := by
  rw [List.find?_eq_none]
  exact fun y hy => by simpa using h y hy

theorem markSending_at {q : Request} {post : List Request} (hq : q.stage = .taken) : ∀ {pre : List Request},
    (∀ y ∈ pre, y.stage ≠ .taken) → markSending (pre ++ q :: post) = pre ++ { q with stage := .sending } :: post
  | [], _ => by simp [markSending, hq]
  | y :: pre, h => by
    rw [List.cons_append, markSending, if_neg (h y List.mem_cons_self),
      markSending_at hq (fun z hz => h z (List.mem_cons_of_mem _ hz))]
    rfl

/-- The frame contents of a decided answer are what its request is owed. -/
theorem answerContent_carries (s : State) (q : Request) : s.Carries q (s.answerContent q) where
  record := by
    rintro ch pr c e x r sp b out ha hq hc he rfl rfl rfl rfl rfl
    have hp : s.probeOutcome ((s.copy c).body.getD Body.none)
        ((s.row ((s.copy c).owner.getD 0)).span.getD Span.none).first ch.toNat (pr.map BitVec.toNat) = _ := rfl
    simp only [State.answerContent, ha, hq, hc, he, Ask.fetchArgs, State.recordOf, orZero, Option.getD_some, State.bodyOf,
      State.spanOf]
    rw [hp]
    cases pr <;> rfl
  profile := by
    rintro k₀ i k e ps ha hq hk he rfl
    simp only [State.answerContent, ha, hq, hk, he, Ask.firstIndex, State.profilePartOf, orZero, Option.getD_some, State.pointsOf]
  watching := by
    intro a e ha he
    simp only [State.answerContent, ha, he, orZero, Option.getD_some]
  unwatched := by
    intro a ha
    simp only [State.answerContent, ha]
  refusal := by
    intro reason e ha he
    simp only [State.answerContent, ha, he, orZero, Option.getD_some]

end

/-- Settles O35: the ranks in their order, and what the answer carries. -/
theorem transmitterChoosesByRank : Obligations.TransmitterChoosesByRank := by
  intro n s
  refine ⟨kick_busy, fun ht => ⟨fun tag h => ?_, fun hw hu hf hd => ?_, fun y ys hw hu hf hn hd => ?_,
    fun pre q post hw hr hp hq ho => ?_, fun y ys hw hr hp ho => ?_, fun hw hf hn hr hp => ?_⟩⟩
  · exact kick_begins ht (nextFrame_welcome h)
  · exact kick_begins ht (nextFrame_resync hw hu hf (due_iff.2 hd))
  · exact kick_begins ht (nextFrame_notice hw hu hf hn (due_iff.2 hd))
  · refine ⟨s.answerContent q, answerContent_carries s q, ?_⟩
    have hnf := nextFrame_rest (s := s) hw ho
    rw [hr, find?_taken hp hq, markSending_at hq hp] at hnf
    exact kick_begins ht hnf
  · have hnf := nextFrame_rest (s := s) hw ho
    rw [find?_taken_none hr, hp] at hnf
    exact kick_begins ht hnf
  · have hnf := nextFrame_rest (s := s) hw (.inr (.inr ⟨hf, hn⟩))
    rw [find?_taken_none hr, hp] at hnf
    exact kick_idle hnf

end Sys2Proof.Machine
end

section
/-! PROOF. FETCH, FETCH_PROFILE, WATCH and UNWATCH at their taking (7.3, 7.4, 7.5, 8.1). -/

namespace Sys2Proof.Machine

section
variable {s : State} {n : LinkId} {pre post : List Request} {q : Request}

/-- The queue `pre ++ q :: post` of the link whose turn it is, `q` being the request it offers. -/
structure State.TurnOf (s : State) (n : LinkId) (pre : List Request) (q : Request) (post : List Request) : Prop where
  turn : s.selected = some (n : Nat)
  queue : (s.link n).requests = pre ++ q :: post
  before : ∀ y ∈ pre, y.stage ≠ .waiting
  waiting : q.stage = .waiting

theorem selectedLink_of_turn (h : s.TurnOf n pre q post) : s.selectedLink = some ((n : Nat), q) := by
  have hn : pre.find? (fun q => decide (q.stage = .waiting)) = none := by
    rw [List.find?_eq_none]
    exact fun y hy => by simpa using h.before y hy
  have ho : s.linkOffer n = some q := by
    rw [State.linkOffer, h.queue, List.find?_append, hn, List.find?_cons_of_pos (by simpa using h.waiting)]
    rfl
  simp only [State.selectedLink, h.turn, ho]
  rw [if_pos (show (n : Nat) < Config.links from n.isLt)]
  rfl

theorem takeWhile_of_turn (h : s.TurnOf n pre q post) :
    (s.link n).requests.takeWhile (fun q => decide (q.stage ≠ .waiting)) = pre := by
  have hw := h.waiting
  rw [h.queue, List.takeWhile_append_of_pos (fun y hy => by simpa using h.before y hy)]
  simp [hw]

theorem tagInUse_iff (h : s.TurnOf n pre q post) : s.tagInUse n q.tag = true ↔ ∃ y ∈ pre, y.tag = q.tag := by
  rw [State.tagInUse, takeWhile_of_turn h]
  simp

/-- The request as its taking leaves it. -/
def Request.taken (q : Request) (d : Decision) (e : Nat) : Request :=
  { q with stage := .taken, boundEpoch := some e, answer := some d.answer, boundCopy := d.copy, boundSlot := d.slot }

theorem markTaken_at {d : Decision} {e : Nat} (hq : q.stage = .waiting) : ∀ {pre : List Request},
    (∀ y ∈ pre, y.stage ≠ .waiting) → markTaken d e (pre ++ q :: post) = pre ++ q.taken d e :: post
  | [], _ => by simp [markTaken, hq, Request.taken]
  | y :: pre, h => by
    rw [List.cons_append, markTaken, if_neg (h y List.mem_cons_self),
      markTaken_at hq (fun z hz => h z (List.mem_cons_of_mem _ hz))]
    rfl

theorem passEngine_link (u : State) : u.passEngine n = u.setEngine (n + 1) := by
  have := n.isLt
  have hm : ((n : Nat) + 1) % Config.requesters = n + 1 := Nat.mod_eq_of_lt (by simp only [Config.requesters]; omega)
  rw [State.passEngine, hm]

/-- The taking on a state `u` whose queue of link `n` is as before. -/
theorem takeRequest_at {u : State} {d : Decision} (hq : q.stage = .waiting) (hb : ∀ y ∈ pre, y.stage ≠ .waiting)
    (hu : ((u.placeHolds d).link n).requests = pre ++ q :: post) :
    u.takeRequest n d = State.kick n (((u.placeHolds d).putLink n
      { (u.placeHolds d).link n with requests := pre ++ q.taken d u.epoch :: post }).setEngine (n + 1)) := by
  simp only [State.takeRequest, hu, markTaken_at hq hb, passEngine_link]

theorem takeRequest_plain (h : s.TurnOf n pre q post) {d : Decision} (hc : d.copy = none) (hs : d.slot = none) :
    s.takeRequest n d = State.kick n ((s.putLink n
      { s.link n with requests := pre ++ q.taken d s.epoch :: post }).setEngine (n + 1)) := by
  have hp : s.placeHolds d = s := by simp only [State.placeHolds, hc, hs]
  have ht := takeRequest_at (u := s) (d := d) h.waiting h.before (by rw [hp]; exact h.queue)
  rwa [hp] at ht

/-- The gate of the operating state refuses with `reason` (R130). -/
def State.GateShut (s : State) (reason : Reason) : Prop :=
  (s.opState = .cold ∨ s.opState = .restoring) ∧ reason = .notReady ∨ s.opState = .held ∧ reason = .held

theorem gate_eq {reason : Reason} (h : s.GateShut reason) : s.opState.gate = some reason := by
  rcases h with ⟨h | h, rfl⟩ | ⟨h, rfl⟩ <;> simp [h, OpState.gate]

theorem probeInRange_iff (p : Option Half) : probeInRange p = true ↔ ∀ v, p = some v → v.toNat ≤ 4095 := by
  cases p <;> simp [probeInRange]

theorem decideFetch_bad (h : s.TurnOf n pre q post) {ch : Half} {pr : Option Half} (ho : s.opState = .serving)
    (hb : 16384 ≤ ch.toNat ∨ (∃ v, pr = some v ∧ 4095 < v.toNat) ∨ ∃ y ∈ pre, y.tag = q.tag) :
    s.decideFetch n q.tag ch pr = .refuse .badRequest := by
  have hc : Config.channels ≤ ch.toNat ∨ probeInRange pr = false ∨ s.tagInUse n q.tag = true := by
    refine hb.imp_right (Or.imp ?_ (tagInUse_iff h).2)
    rintro ⟨v, rfl, hv⟩
    rw [Bool.eq_false_iff, Ne, probeInRange_iff]
    exact fun hall => absurd (hall v rfl) (by omega)
  simp only [State.decideFetch, ho, OpState.gate, hc, if_true]

theorem decideFetch_good (h : s.TurnOf n pre q post) {ch : Half} {pr : Option Half} (ho : s.opState = .serving)
    (hch : ch.toNat < 16384) (ht : ∀ y ∈ pre, y.tag ≠ q.tag) (hp : ∀ v, pr = some v → v.toNat ≤ 4095) :
    s.decideFetch n q.tag ch pr = match s.lookup ch.toNat s.epoch with
      | none => .refuse .notFound
      | some r => { answer := .record, copy := (s.row r).live, slot := none } := by
  have hc : ¬(Config.channels ≤ ch.toNat ∨ probeInRange pr = false ∨ s.tagInUse n q.tag = true) := by
    rintro (hk | hk | hk)
    · exact absurd hk (Nat.not_le.mpr hch)
    · simp [(probeInRange_iff pr).2 hp] at hk
    · obtain ⟨y, hy, he⟩ := (tagInUse_iff h).1 hk
      exact ht y hy he
  simp only [State.decideFetch, ho, OpState.gate, hc, if_false] <;> rfl

theorem decideFetchProfile_bad (h : s.TurnOf n pre q post) {k i : Half} (ho : s.opState = .serving)
    (hb : 32 ≤ k.toNat ∨ 16 < i.toNat ∨ ∃ y ∈ pre, y.tag = q.tag) :
    s.decideFetchProfile n q.tag k i = .refuse .badRequest := by
  have hc : Config.slots ≤ k.toNat ∨ 16 < i.toNat ∨ s.tagInUse n q.tag = true :=
    hb.imp_right (Or.imp_right (tagInUse_iff h).2)
  simp only [State.decideFetchProfile, ho, OpState.gate, hc, if_true]

theorem decideFetchProfile_good (h : s.TurnOf n pre q post) {k i : Half} (ho : s.opState = .serving)
    (hk : k.toNat < 32) (hi : i.toNat ≤ 16) (ht : ∀ y ∈ pre, y.tag ≠ q.tag) :
    s.decideFetchProfile n q.tag k i = if (s.slot k.toNat).state ≠ .active then .refuse .unknownProfile
      else { answer := .profile, copy := none, slot := some k.toNat } := by
  have hc : ¬(Config.slots ≤ k.toNat ∨ 16 < i.toNat ∨ s.tagInUse n q.tag = true) := by
    rintro (hk' | hk' | hk')
    · exact absurd hk' (Nat.not_le.mpr hk)
    · omega
    · obtain ⟨y, hy, he⟩ := (tagInUse_iff h).1 hk'
      exact ht y hy he
  simp only [State.decideFetchProfile, ho, OpState.gate, hc, if_false]

theorem exec_fetchTaken (h : s.TurnOf n pre q post) {ch : Half} {pr : Option Half} (hq : q.ask = .fetch ch pr) :
    exec .fetchTaken s = .next (s.takeRequest n (s.decideFetch n q.tag ch pr)) := by
  simp only [exec, execFetchTaken, selectedLink_of_turn h, hq]

theorem exec_fetchProfileTaken (h : s.TurnOf n pre q post) {k i : Half} (hq : q.ask = .fetchProfile k i) :
    exec .fetchProfileTaken s = .next (s.takeRequest n (s.decideFetchProfile n q.tag k i)) := by
  simp only [exec, execFetchProfileTaken, selectedLink_of_turn h, hq]

theorem exec_watchTaken (h : s.TurnOf n pre q post) {ch : Half} (hq : q.ask = .watch ch) :
    exec .watchTaken s = .next (s.takeWatch n q.tag ch) := by
  simp only [exec, execWatchTaken, selectedLink_of_turn h, hq]

theorem exec_unwatchTaken (h : s.TurnOf n pre q post) {r : Half} (hq : q.ask = .unwatch r) :
    exec .unwatchTaken s = .next (s.takeUnwatch n q.tag r) := by
  simp only [exec, execUnwatchTaken, selectedLink_of_turn h, hq]

/-- A refusal is decided with nothing held. -/
theorem takeRequest_refuse (h : s.TurnOf n pre q post) (reason : Reason) :
    s.takeRequest n (.refuse reason) = State.kick n ((s.putLink n { s.link n with requests := pre ++
      { q with stage := .taken, boundEpoch := some s.epoch, answer := some (.refusal reason), boundCopy := none,
               boundSlot := none } :: post }).setEngine (n + 1)) :=
  takeRequest_plain h rfl rfl

end

/-- Settles O37: a good FETCH binds and pins, a good FETCH_PROFILE reads, and each refusal is the first check that fails. -/
theorem fetchesTaken : Obligations.FetchesTaken := by
  intro n pre post q s hsel hqueue hbefore hwait
  have h : s.TurnOf n pre q post := ⟨hsel, hqueue, hbefore, hwait⟩
  refine ⟨fun ch pr r c hq ho hch ht hp hl hc => ?_, fun ch pr reason hq hr => ?_, fun k i hq ho hk hi ht ha => ?_,
    fun k i reason hq hr => ?_⟩
  · have hd : s.decideFetch n q.tag ch pr = { answer := .record, copy := some c, slot := none } := by
      rw [decideFetch_good h ho hch ht hp, hl]
      simp only [hc]
    rw [exec_fetchTaken h hq, hd]
    exact congrArg Host.Outcome.next (takeRequest_at (u := s)
      (d := { answer := .record, copy := some c, slot := none }) hwait hbefore (by simpa [State.placeHolds, State.addFetchPin] using hqueue))
  · have hd : s.decideFetch n q.tag ch pr = .refuse reason := by
      rcases hr with hg | hg | ⟨ho, hb, rfl⟩ | ⟨ho, hch, hp, ht, hl, rfl⟩
      · simp only [State.decideFetch, gate_eq (.inl hg)]
      · simp only [State.decideFetch, gate_eq (.inr hg)]
      · exact decideFetch_bad h ho hb
      · rw [decideFetch_good h ho hch ht hp, hl]
    rw [exec_fetchTaken h hq, hd, takeRequest_refuse h]
  · have hd : s.decideFetchProfile n q.tag k i = { answer := .profile, copy := none, slot := some k.toNat } := by
      rw [decideFetchProfile_good h ho hk hi ht]
      exact if_neg (fun hne => hne ha)
    rw [exec_fetchProfileTaken h hq, hd]
    exact congrArg Host.Outcome.next (takeRequest_at (u := s)
      (d := { answer := .profile, copy := none, slot := some k.toNat }) hwait hbefore
      (by simpa [State.placeHolds, State.addReader] using hqueue))
  · have hd : s.decideFetchProfile n q.tag k i = .refuse reason := by
      rcases hr with hg | hg | ⟨ho, hb, rfl⟩ | ⟨ho, hk, hi, ht, ha, rfl⟩
      · simp only [State.decideFetchProfile, gate_eq (.inl hg)]
      · simp only [State.decideFetchProfile, gate_eq (.inr hg)]
      · exact decideFetchProfile_bad h ho hb
      · rw [decideFetchProfile_good h ho hk hi ht]
        exact if_pos ha
    rw [exec_fetchProfileTaken h hq, hd, takeRequest_refuse h]

end Sys2Proof.Machine
end

section
/-! PROOF. WATCH and UNWATCH at their taking (8.1). -/

namespace Sys2Proof.Machine

/-- What the answer to a WATCH of row `r` says (R142). -/
def State.watchingOf (s : State) (r : Nat) (already : Bool) (count : Nat) : Watching :=
  { row := r, first := (s.spanOf r).first, count := (s.spanOf r).count
    activated := (s.copy ((s.row r).live.getD 0)).activated.getD 0, already := already, watchCount := count }

section
variable {s : State} {n : LinkId} {pre post : List Request} {q : Request}

theorem checkWatch_bad (h : s.TurnOf n pre q post) {ch : Half} (ho : s.opState = .serving)
    (hb : 16384 ≤ ch.toNat ∨ ∃ y ∈ pre, y.tag = q.tag) : s.checkWatch n q.tag ch = .inl .badRequest := by
  have hc : Config.channels ≤ ch.toNat ∨ s.tagInUse n q.tag = true := hb.imp_right (tagInUse_iff h).2
  simp only [State.checkWatch, ho, OpState.gate, hc, if_true]

theorem checkWatch_good (h : s.TurnOf n pre q post) {ch : Half} (ho : s.opState = .serving)
    (hch : ch.toNat < 16384) (ht : ∀ y ∈ pre, y.tag ≠ q.tag) :
    s.checkWatch n q.tag ch = match s.lookup ch.toNat s.epoch with
      | none => .inl .notFound
      | some r => if (s.row r).watch.contains n = false ∧ 256 ≤ (s.link n).watchCount then .inl .watchLimit else .inr r := by
  have hc : ¬(Config.channels ≤ ch.toNat ∨ s.tagInUse n q.tag = true) := by
    rintro (hk | hk)
    · exact absurd hk (Nat.not_le.mpr hch)
    · obtain ⟨y, hy, he⟩ := (tagInUse_iff h).1 hk
      exact ht y hy he
  simp only [State.checkWatch, ho, OpState.gate, hc, if_false] <;> rfl

theorem takeWatch_refused {ch : Half} {reason : Reason} (h : s.checkWatch n q.tag ch = .inl reason) :
    s.takeWatch n q.tag ch = s.takeRequest n (.refuse reason) := by simp only [State.takeWatch, h]

theorem takeWatch_passed {ch : Half} {r : Nat} (h : s.checkWatch n q.tag ch = .inr r) :
    s.takeWatch n q.tag ch =
      (s.addWatch n r).takeRequest n { answer := s.watchingAnswer n r, copy := none, slot := none } := by
  simp only [State.takeWatch, h]

theorem contains_eq_false {l : List Nat} {m : Nat} (h : m ∉ l) : l.contains m = false := by simpa using h

theorem contains_eq_true {l : List Nat} {m : Nat} (h : m ∈ l) : l.contains m = true := by simpa using h

/-- The queue of link `n` replaced and the engine's pointer moved past the link. -/
def State.queueTaken (u : State) (n : LinkId) (rs : List Request) : State :=
  (u.putLink n { u.link n with requests := rs }).setEngine (n + 1)

/-- A request taken at epoch `e` with an answer that holds nothing. -/
def Request.answeredWith (q : Request) (e : Nat) (a : Answer) : Request :=
  { q with stage := .taken, boundEpoch := some e, answer := some a, boundCopy := none, boundSlot := none }

/-- A decision that holds nothing, taken on a state whose link `n` has the queue. -/
theorem takeRequest_holdless {u : State} (h : s.TurnOf n pre q post) (hu : (u.link n).requests = (s.link n).requests) (a : Answer) :
    u.takeRequest n { answer := a, copy := none, slot := none } =
      State.kick n (u.queueTaken n (pre ++ q.answeredWith u.epoch a :: post)) :=
  takeRequest_at (u := u) (d := { answer := a, copy := none, slot := none }) h.waiting h.before (hu.trans h.queue)

theorem addWatch_member {r : Nat} (h : (n : Nat) ∈ (s.row r).watch) : s.addWatch n r = s := if_pos (contains_eq_true h)

theorem addWatch_fresh {r : Nat} (h : (n : Nat) ∉ (s.row r).watch) : s.addWatch n r =
    (s.putRow r { s.row r with watch := watchAdd n (s.row r).watch }).putLink n
      { s.link n with watchCount := (s.link n).watchCount + 1 } :=
  if_neg (fun hc => by rw [contains_eq_false h] at hc; cases hc)

/-- Link `n` has a watch on row `r` that an UNWATCH can take away. -/
theorem watches_iff {r : Nat} : s.watches n r = true ↔
    ((s.row r).phase = .live ∨ (s.row r).phase = .dying) ∧ (n : Nat) ∈ (s.row r).watch := by
  simp [State.watches, Row.watchable]

theorem removeWatch_member {r : Nat} (h : s.watches n r = true) : s.removeWatch n r =
    (s.putRow r { s.row r with watch := (s.row r).watch.filter (fun m => decide (m ≠ n)) }).putLink n
      { s.link n with watchCount := (s.link n).watchCount - 1 } := by
  rw [State.removeWatch, if_pos h]
  rfl

theorem removeWatch_other {r : Nat} (h : s.watches n r = false) : s.removeWatch n r = s :=
  if_neg (fun hc => by rw [h] at hc; cases hc)

theorem takeUnwatch_good (h : s.TurnOf n pre q post) {r : Half} (hr : r.toNat < 1024) (ht : ∀ y ∈ pre, y.tag ≠ q.tag) :
    s.takeUnwatch n q.tag r = (s.removeWatch n r.toNat).takeRequest n
      { answer := s.unwatchedAnswer n r.toNat, copy := none, slot := none } := by
  refine if_neg ?_
  rintro (hk | hk)
  · exact absurd hk (Nat.not_le.mpr hr)
  · obtain ⟨y, hy, he⟩ := (tagInUse_iff h).1 hk
    exact ht y hy he

end

/-- Settles O38: a WATCH joins one watch set, an UNWATCH leaves one, and each refusal is the first check that fails. -/
theorem watchesTaken : Obligations.WatchesTaken := by
  intro n pre post q s hsel hqueue hbefore hwait
  have h : s.TurnOf n pre q post := ⟨hsel, hqueue, hbefore, hwait⟩
  refine ⟨fun ch reason hq hr => ?_, fun ch r hq ho hch ht hl => ⟨fun hw hc => ?_, fun hw => ?_, fun hw hc => ?_⟩,
    fun r hq hb => ?_, fun r hq hr ht => ⟨fun hp hw => ?_, fun hno => ?_⟩⟩
  · have hc : s.checkWatch n q.tag ch = .inl reason := by
      rcases hr with hg | hg | ⟨ho, hb, rfl⟩ | ⟨ho, hch, ht, hl, rfl⟩
      · simp only [State.checkWatch, gate_eq (.inl hg)]
      · simp only [State.checkWatch, gate_eq (.inr hg)]
      · exact checkWatch_bad h ho hb
      · rw [checkWatch_good h ho hch ht, hl]
    rw [exec_watchTaken h hq, takeWatch_refused hc, takeRequest_refuse h]
  · have hck : s.checkWatch n q.tag ch = .inr r := by
      rw [checkWatch_good h ho hch ht, hl]
      exact if_neg (fun hk => absurd hk.2 (Nat.not_le.mpr hc))
    have ha := addWatch_fresh (s := s) hw
    have hans : s.watchingAnswer n r = .watching (s.watchingOf r false ((s.link n).watchCount + 1)) := by
      simp only [State.watchingAnswer, contains_eq_false hw, Bool.false_eq_true, if_false, orZero_eq_getD, State.watchingOf]
    have htk := takeRequest_holdless (u := s.addWatch n r) h (by rw [ha]; simp) (s.watchingAnswer n r)
    refine ⟨(s.addWatch n r).queueTaken n (pre ++ q.answeredWith (s.addWatch n r).epoch (s.watchingAnswer n r) :: post),
      s.watchingOf r false ((s.link n).watchCount + 1), ?_, ?_⟩
    · rw [exec_watchTaken h hq, takeWatch_passed hck, htk]
    · rw [hans, ha]
      refine ⟨fun k => ?_, ?_, rfl, rfl, rfl, rfl, rfl, rfl, rfl, fun m hm => ?_, rfl, rfl, rfl,
        ((StoresOnly.row s r _).trans ((StoresOnly.link _ n _).trans ((StoresOnly.link _ n _).trans
          (StoresOnly.setEngine _ _)))).sameOutside⟩
      · simp [State.queueTaken]
      · simp [State.queueTaken, Request.answeredWith]
      · simp [State.queueTaken, hm]
  · have hck : s.checkWatch n q.tag ch = .inr r := by
      rw [checkWatch_good h ho hch ht, hl]
      exact if_neg (fun hk => absurd hk.1 (by simpa using hw))
    have hans : s.watchingAnswer n r = .watching (s.watchingOf r true (s.link n).watchCount) := by
      simp only [State.watchingAnswer, contains_eq_true hw, if_true, orZero_eq_getD, State.watchingOf]
    refine ⟨s.watchingOf r true (s.link n).watchCount, ?_, rfl, rfl, rfl, rfl, rfl, rfl⟩
    rw [exec_watchTaken h hq, takeWatch_passed hck, addWatch_member hw, hans, takeRequest_holdless (u := s) h rfl]
    rfl
  · have hck : s.checkWatch n q.tag ch = .inl .watchLimit := by
      rw [checkWatch_good h ho hch ht, hl]
      exact if_pos ⟨contains_eq_false hw, hc⟩
    rw [exec_watchTaken h hq, takeWatch_refused hck, takeRequest_refuse h]
  · have hu : s.takeUnwatch n q.tag r = s.takeRequest n (.refuse .badRequest) :=
      if_pos (hb.imp_right (tagInUse_iff h).2)
    rw [exec_unwatchTaken h hq, hu, takeRequest_refuse h]
  · have hwt : s.watches n r.toNat = true := watches_iff.2 ⟨hp, hw⟩
    have hrm := removeWatch_member hwt
    have hans : s.unwatchedAnswer n r.toNat =
        .unwatched { row := r.toNat, notWatched := false, watchCount := (s.link n).watchCount - 1 } := by
      simp only [State.unwatchedAnswer, hwt, Bool.not_true, if_true]
    have htk := takeRequest_holdless (u := s.removeWatch n r.toNat) h (by rw [hrm]; simp) (s.unwatchedAnswer n r.toNat)
    refine ⟨(s.removeWatch n r.toNat).queueTaken n
      (pre ++ q.answeredWith (s.removeWatch n r.toNat).epoch (s.unwatchedAnswer n r.toNat) :: post), ?_, ?_⟩
    · rw [exec_unwatchTaken h hq, takeUnwatch_good h hr ht, htk]
    · rw [hans, hrm]
      refine ⟨fun k => ?_, ?_, rfl, fun m hm => ?_, rfl, rfl, rfl,
        ((StoresOnly.row s r.toNat _).trans ((StoresOnly.link _ n _).trans ((StoresOnly.link _ n _).trans
          (StoresOnly.setEngine _ _)))).sameOutside⟩
      · by_cases hk : k = r.toNat <;> simp [State.queueTaken, hk]
      · simp [State.queueTaken, Request.answeredWith]
      · simp [State.queueTaken, hm]
  · have hwt : s.watches n r.toNat = false := by
      rw [Bool.eq_false_iff, Ne, watches_iff]
      rintro ⟨hp, hw⟩
      exact hno.elim (fun k => k hw) (fun k => hp.elim k.1 k.2)
    have hans : s.unwatchedAnswer n r.toNat =
        .unwatched { row := r.toNat, notWatched := true, watchCount := (s.link n).watchCount } := by
      simp only [State.unwatchedAnswer, hwt, Bool.not_false, Bool.false_eq_true, if_false]
    rw [exec_unwatchTaken h hq, takeUnwatch_good h hr ht, hans, removeWatch_other hwt, takeRequest_holdless (u := s) h rfl]
    rfl

end Sys2Proof.Machine
end

section
/-! PROOF. The words of the frames the part sends (chapter 11): HEAD, body words, TAIL, and IDLE words between. -/

namespace Sys2Proof.Machine

theorem epochHalves_eq (e : Nat) : epochHalves e = [BitVec.ofNat 16 (e / 65536), BitVec.ofNat 16 (e % 65536)] := by
  have hlow : BitVec.ofNat 16 e = BitVec.ofNat 16 (e % 65536) := by
    apply BitVec.eq_of_toNat_eq
    simp only [BitVec.toNat_ofNat]
    omega
  rw [epochHalves, hlow]

theorem recordFlags_eq (b : Body) : recordFlags b =
    BitVec.ofNat 16 ((match b.gain with | .low => 0 | .mid => 1 | .high => 2 | .auto => 3) * 2 ^ 14 +
      (if b.enabled then 2 ^ 13 else 0) + (match b.profile with | none => 0 | some k => 2 ^ 12 + k * 2 ^ 7) +
      b.trims.length * 2 ^ 3) := by
  have hsum (a b c d t : Nat) : a * 16384 + b * 8192 + c * 4096 + d * 128 + t * 8 =
      a * 2 ^ 14 + b * 8192 + (c * 4096 + d * 128) + t * 2 ^ 3 := by omega
  have hgain : b.gain.code = (match b.gain with | .low => 0 | .mid => 1 | .high => 2 | .auto => 3) := by
    cases b.gain <;> rfl
  have hflag : flagBit b.enabled * 8192 = if b.enabled then 2 ^ 13 else 0 := by
    cases b.enabled <;> simp [flagBit]
  have hprofile : flagBit b.profile.isSome * 4096 + orZero b.profile * 128 =
      (match b.profile with | none => 0 | some k => 2 ^ 12 + k * 2 ^ 7) := by
    cases b.profile <;> simp [flagBit, orZero]
  rw [recordFlags, hsum, hgain, hflag, hprofile]

theorem recordTrim_eq (t : Trim) :
    recordTrim t = BitVec.ofNat 16 (t.offset * 2 ^ 8 + (BitVec.ofInt 8 t.delta).toNat) := rfl

/-- A HEAD's fields hold what it was made of, within their widths. -/
theorem headData_fields {kind length : Nat} (tag : Tag) (hk : kind < 64) (hl : length < 32) :
    bitsAt (headData kind length tag) 10 6 = kind ∧ bitsAt (headData kind length tag) 5 5 = length ∧
      (headData kind length tag).extractLsb' 3 2 = tag ∧ bitsAt (headData kind length tag) 0 3 = 0 := by
  have ht := tag.isLt
  have hval : (headData kind length tag).toNat = kind * 1024 + length * 32 + tag.toNat * 8 := by
    rw [headData, BitVec.toNat_ofNat, Nat.mod_eq_of_lt (by omega)]
  have htag : bitsAt (headData kind length tag) 3 2 = tag.toNat := by
    rw [bitsAt_eq_div_mod, hval]
    omega
  refine ⟨?_, ?_, BitVec.eq_of_toNat_eq htag, ?_⟩
  all_goals
    rw [bitsAt_eq_div_mod, hval]
    omega

theorem marker_wireWord (m : Marker) (d : Half) : bitsAt (wireWord m d) 17 2 = m.code := by
  have hm := markerCode_lt_four m
  have hd := d.isLt
  have htop := wireWord_toNat_div_two m d
  rw [bitsAt_eq_div_mod]
  omega

theorem Content.code_lt (c : Content) : c.code < 64 := by cases c <;> simp [Content.code]

/-- A word on the line is one the part's own encoder made. -/
theorem lineWord_eq_wireWord (l : Link) : ∃ m d, l.lineWord = wireWord m d := by
  have hmem : ∀ f : TxFrame, ∀ w ∈ f.wireWords, ∃ m d, w = wireWord m d := fun f w hw => by
    rw [TxFrame.wireWords, List.cons_append] at hw
    obtain rfl | hw := List.mem_cons.1 hw
    · exact ⟨_, _, rfl⟩
    · obtain hw | hw := List.mem_append.1 hw
      · obtain ⟨d, _, rfl⟩ := List.mem_map.1 hw
        exact ⟨_, _, rfl⟩
      · exact ⟨_, _, List.mem_singleton.1 hw⟩
  unfold Link.lineWord
  cases l.tx with
  | none => exact ⟨_, _, rfl⟩
  | some f =>
    change ∃ m d, (f.wireWords[f.position]?).getD (wireWord .idle 0#16) = _
    cases h : f.wireWords[f.position]? with
    | none => exact ⟨_, _, rfl⟩
    | some w => exact hmem f w (List.mem_of_getElem? h)

theorem TxFrame.lineWord_eq {l : Link} {f : TxFrame} (h : l.tx = some f) :
    l.lineWord = (f.wireWords[f.position]?).getD (wireWord .idle 0#16) := by rw [Link.lineWord, h]

/-- The words of a frame by their positions. -/
theorem TxFrame.wireWords_at {f : TxFrame} {ws : List Half} {head : Half} (hws : f.content.halves = ws)
    (hhead : headData f.content.code ws.length f.tag = head) :
    f.wireWords[0]? = some (wireWord .head head) ∧
    (∀ i w, ws[i]? = some w → f.wireWords[i + 1]? = some (wireWord .body w)) ∧
    f.wireWords[ws.length + 1]? = some (wireWord .tail (crc16 (head :: ws))) ∧
    ∀ i, ws.length + 1 < i → f.wireWords[i]? = none := by
  have hwords : f.wireWords = wireWord .head head :: (ws.map (wireWord .body) ++ [wireWord .tail (crc16 (head :: ws))]) := by
    rw [TxFrame.wireWords, hws, hhead]
    rfl
  rw [hwords]
  refine ⟨rfl, fun i w hw => ?_, ?_, fun i hi => ?_⟩
  · have hi : i < (ws.map (wireWord .body)).length := by
      rw [List.length_map]
      exact (List.getElem?_eq_some_iff.1 hw).1
    rw [List.getElem?_cons_succ, List.getElem?_append_left hi, List.getElem?_map, hw]
    rfl
  · rw [List.getElem?_cons_succ, List.getElem?_append_right (by simp)]
    simp
  · exact List.getElem?_eq_none (by simp; omega)

/-- Settles O36: the words of a frame by position, each made by the encoder that fits them with parity. -/
theorem framesOnTheLine : Obligations.FramesOnTheLine := by
  refine ⟨fun l h => by rw [Link.lineWord, h]; rfl, fun l => ?_, fun l f kind ws htx hlen hcontent => ?_⟩
  · obtain ⟨m, d, h⟩ := lineWord_eq_wireWord l
    rw [h, parityGood_wireWord]
  have hc : f.content.code = kind ∧ f.content.halves = ws := by
    rw [← Prod.mk.injEq, hcontent]
    cases f.content with
    | welcome n e op => cases op <;> simp [Content.code, Content.halves, epochHalves_eq, OpState.code]
    | record r =>
      cases hp : r.probe <;>
        simp [Content.code, Content.halves, Record.halves, epochHalves_eq, recordFlags_eq, hp, Probe.code, Probe.field,
          List.map_congr_left fun t _ => recordTrim_eq t] <;> rfl
    | profile x => simp [Content.code, Content.halves, ProfilePart.halves, epochHalves_eq]
    | watching a e =>
      cases ha : a.already <;> simp [Content.code, Content.halves, epochHalves_eq, flagBit, ha]
    | unwatched a => cases ha : a.notWatched <;> simp [Content.code, Content.halves, flagBit, ha]
    | refusal reason e _ => cases reason <;> simp [Content.code, Content.halves, epochHalves_eq, Reason.code]
    | notice y => cases hy : y.kind <;> simp [Content.code, Content.halves, epochHalves_eq, NoticeKind.code, hy]
    | resync number e count => simp [Content.code, Content.halves, epochHalves_eq]
  obtain ⟨hcode, hhalves⟩ := hc
  have hk : kind < 64 := hcode ▸ f.content.code_lt
  obtain ⟨h1, h2, h3, h4⟩ := headData_fields f.tag hk (show ws.length < 32 by omega)
  obtain ⟨hzero, hbody, htail, hidle⟩ := f.wireWords_at hhalves (head := headData kind ws.length f.tag) (by rw [hcode])
  refine ⟨headData kind ws.length f.tag, h1, h2, h3, h4, fun hp => ?_, fun i w hp hw => ?_, fun hp => ?_, fun hp => ?_⟩
  · rw [TxFrame.lineWord_eq htx, hp, hzero]
    exact ⟨marker_wireWord _ _, wireData_wireWord _ _⟩
  · rw [TxFrame.lineWord_eq htx, hp, hbody i w hw]
    exact ⟨marker_wireWord _ _, wireData_wireWord _ _⟩
  · rw [TxFrame.lineWord_eq htx, hp, htail]
    exact ⟨marker_wireWord _ _, wireData_wireWord _ _⟩
  · rw [TxFrame.lineWord_eq htx, hidle _ hp]
    rfl

end Sys2Proof.Machine
end

section
/-! PROOF. The QUERY a port offers, taken at its turn of the lookup engine (7.8, R140, R141). -/

namespace Sys2Proof.Machine

/-- The requester number of a port (R127). -/
def requesterOf : Port → Nat
  | .host => 12
  | .service => 13

/-- The pointer's place behind a port (R128). -/
def behindPort : Port → Nat
  | .host => 13
  | .service => 0

theorem behind_eq (p : Port) : (requesterOf p + 1) % Config.requesters = behindPort p := by cases p <;> rfl

theorem requesterPort_requester (p : Port) : requesterPort (requesterOf p) = p := by cases p <;> rfl

theorem not_link_requester (p : Port) : ¬requesterOf p < Config.links := by cases p <;> decide

variable {s : State} {p : Port} {q : QueuedCommand} {qs : List QueuedCommand}

theorem exec_query (h : s.selected = some (requesterOf p)) (ho : s.QueryOffered p q) :
    exec .query s = .next (((s.takeCommand p q).setEngine (behindPort p)).takeAll p) := by
  have hq : s.portOffers (requesterPort (requesterOf p)) = some q := by
    rw [requesterPort_requester]
    exact portOffers_iff.2 ho
  change Host.Outcome.next _ = _
  rw [h]
  change Host.Outcome.next (if requesterOf p < Config.links then s else _) = _
  rw [if_neg (not_link_requester p), hq]
  change Host.Outcome.next (((s.takeCommand (requesterPort (requesterOf p)) q).passEngine (requesterOf p)).takeAll
    (requesterPort (requesterOf p))) = _
  rw [requesterPort_requester, State.passEngine, behind_eq]

/-- A QUERY of right form changes nothing but its port: it goes, and its answer is placed. -/
theorem takeCommand_query (hc : (s.port p).commands = q :: qs) (ho : s.QueryOffered p q) :
    s.takeCommand p q = (s.putPort p { s.port p with commands := qs }).respond p (headerSeq q.header)
      (s.queryReply (namedBy q.args) (queryProbe q.args)) := by
  have hoff := portOffers_iff.2 ho
  have hf : q.formError = none := by
    simp only [State.portOffers, hc, List.head?_cons] at hoff
    split at hoff
    next h => exact h.2.2.2
    next => cases hoff
  have hcarry : s.carryOut p q = (s, s.queryReply (namedBy q.args) (queryProbe q.args)) := by
    simp only [State.carryOut, hf, ho.kind]
    rfl
  rw [takeCommand_eq hc, restartFor_kind ho.kind, show s.restartedBy p .query = s from rfl, hcarry]

theorem takeAll_of_empty (h : (s.port p).commands = []) : s.takeAll p = s := by rw [State.takeAll, h]; rfl

/-- What a QUERY at its turn leaves, from its reply alone. -/
theorem query_taken {u : State} {c : Code} {data : List Word} (h : s.selected = some (requesterOf p)) (ho : s.QueryOffered p q)
    (hc : (s.port p).commands = q :: qs) (hr : s.queryReply (namedBy q.args) (queryProbe q.args) = { code := c, data := data })
    (hu : u = ((s.putPort p { s.port p with commands := qs }).answered p (headerSeq q.header) c data).setEngine (behindPort p)) :
    (∃ t, exec .query s = .next t ∧ u.GoInOrder p t) ∧ (qs = [] → exec .query s = .next u) := by
  have hx : exec .query s = .next (u.takeAll p) := by
    rw [exec_query h ho, takeCommand_query hc ho, hr, hu]
    rfl
  refine ⟨⟨_, hx, takeAll_goInOrder u p⟩, fun hq => ?_⟩
  rw [hx, takeAll_of_empty]
  subst hu hq
  have hport : ∀ t : State, (t.setEngine (behindPort p)).port p = t.port p := fun t => by simp
  rw [hport, State.answered, respond_eq]
  simp

theorem queryReply_none {ch : Nat} {pr : Option Nat} (h : s.lookup ch s.epoch = none) :
    s.queryReply ch pr = { code := .noRow, data := [numWord s.epoch] } := by rw [State.queryReply, h]

/-- Settles O5: the reply as the state gives it, then the commands behind in order. -/
theorem queryTaken : Obligations.QueryTaken := by
  intro p q qs s u hsel ho hc
  replace hsel : s.selected = some (requesterOf p) := by
    rw [hsel]
    cases p <;> rfl
  refine ⟨fun hn hu => ?_, fun r c sp b out hl hcopy hsp hb hout hu => ?_⟩
  · refine query_taken hsel ho hc (queryReply_none hn) ?_
    rw [hu]
    cases p <;> rfl
  · refine query_taken hsel ho hc ?_ (by rw [hu]; cases p <;> rfl)
    have hlook : s.lookup (namedBy q.args) s.epoch = some r := hl
    have hprobe : s.probeOutcome b sp.first (namedBy q.args) (queryProbe q.args) = out := by
      rw [hout, queryProbe]
      by_cases h2 : q.args.length = 2
      · simp only [h2, if_true, ne_eq, not_true, if_false, State.probeOutcome]
        cases b.enabled <;> cases b.profile <;> rfl
      · simp only [h2, if_false, ne_eq, not_false_iff, if_true, State.probeOutcome]
    rw [State.queryReply, hlook]
    dsimp only
    rw [orZero_eq_getD, orZero_eq_getD, ← hcopy, show s.spanOf r = sp from hsp.symm, show s.bodyOf c = b from hb.symm, hprobe,
      bodyWordB, orZero_eq_getD]
    clear hprobe hout hu
    cases out <;> rfl

end Sys2Proof.Machine
end

section
/-! PROOF. Command intake (10.2): what an event at a port leaves takeable, the last word of a command, the checks of form. -/

namespace Sys2Proof.Machine

variable {s : State} {p : Port} {q : QueuedCommand}

/-! ### Fields of a word -/

/-- A field put above what stands below it adds to it. -/
theorem toNat_field_or {v lo : Nat} {x : Word} (hv : v * 2 ^ lo < 2 ^ 32) (hx : x.toNat < 2 ^ lo) :
    (BitVec.ofNat 32 v <<< lo ||| x).toNat = v * 2 ^ lo + x.toNat := by
  have hsmall : v < 2 ^ 32 := lt_of_le_of_lt (Nat.le_mul_of_pos_right v (Nat.two_pow_pos lo)) hv
  rw [BitVec.toNat_or, BitVec.toNat_shiftLeft, BitVec.toNat_ofNat, Nat.mod_eq_of_lt hsmall, Nat.shiftLeft_eq, Nat.mod_eq_of_lt hv,
    ← Nat.shiftLeft_eq, Nat.shiftLeft_add_eq_or_of_lt hx]

theorem Code.number_lt (c : Code) : c.number < 256 := by cases c <;> simp [Code.number]

theorem responseHeader_toNat (c : Code) (seq : Half) {n : Nat} (hn : n < 64) :
    (responseHeader c seq n).toNat = c.number * 2 ^ 24 + (n * 2 ^ 16 + (seq.toNat * 2 ^ 0 + 0)) := by
  have hc := c.number_lt
  have hs := seq.isLt
  have h0 : (packWord [(seq.toNat, 0)]).toNat = seq.toNat * 2 ^ 0 + 0 :=
    toNat_field_or (x := 0#32) (by omega) (by decide)
  have h1 : (packWord [(n, 16), (seq.toNat, 0)]).toNat = n * 2 ^ 16 + (seq.toNat * 2 ^ 0 + 0) := by
    rw [← h0]
    exact toNat_field_or (by omega) (by rw [h0]; omega)
  rw [← h1]
  exact toNat_field_or (by omega) (by rw [h1]; omega)

theorem responseHeader_fields (c : Code) (seq : Half) {n : Nat} (hn : n < 64) :
    bitsAt (responseHeader c seq n) 24 8 = c.number ∧ bitsAt (responseHeader c seq n) 22 2 = 0 ∧
      bitsAt (responseHeader c seq n) 16 6 = n ∧ (responseHeader c seq n).extractLsb' 0 16 = seq := by
  have hc := c.number_lt
  have hs := seq.isLt
  have hseq : bitsAt (responseHeader c seq n) 0 16 = seq.toNat := by
    rw [bitsAt_eq_div_mod, responseHeader_toNat c seq hn]
    omega
  refine ⟨?_, ?_, ?_, BitVec.eq_of_toNat_eq hseq⟩
  all_goals
    rw [bitsAt_eq_div_mod, responseHeader_toNat c seq hn]
    omega

theorem code_of_ofCode {c : Byte} {k : CmdKind} (h : CmdKind.ofCode c = some k) : k.code = c := by
  unfold CmdKind.ofCode at h
  split at h
  all_goals
    cases h
    try exact BitVec.eq_of_toNat_eq (Eq.symm ‹_›)

/-! ### What can be taken (R181) -/

theorem takeAll_of_none (h : (s.port p).takeable = none) : s.takeAll p = s := by
  rw [State.takeAll]
  cases (s.port p).commands.length with
  | zero => rfl
  | succ n => rw [State.takings, h]

theorem takeAll_of_single (hc : (s.port p).commands = [q]) (h : (s.port p).takeable = some q) : s.takeAll p = s.takeCommand p q := by
  rw [State.takeAll, hc]
  simp only [List.length_singleton, State.takings, h]

theorem takeable_nil {x : PortState} (h : x.commands = []) : x.takeable = none := by rw [PortState.takeable, h]; rfl

/-- Only the front command and the room decide what can be taken. -/
theorem takeable_congr {x y : PortState} (hc : y.commands.head? = x.commands.head?) (hr : y.responses = x.responses) :
    y.takeable = x.takeable := by
  unfold PortState.takeable PortState.hasRoom
  rw [hc, hr]

theorem takeable_of_not_ready {x : PortState} {qs : List QueuedCommand} (hc : x.commands = q :: qs) (h : q.ready = false) :
    x.takeable = none := by
  simp [PortState.takeable, hc, h]

theorem incomplete_iff : q.incomplete = true ↔ q.cut = false ∧ q.words.length < headerCount q.header := by
  simp [QueuedCommand.incomplete, QueuedCommand.whole]

theorem not_incomplete_iff : q.incomplete = false ↔ q.cut = true ∨ headerCount q.header ≤ q.words.length := by
  rw [← Bool.not_eq_true, incomplete_iff, not_and_or, Bool.not_eq_false, not_lt]

/-! ### A word joins the FIFO, or cuts its tail (R184) -/

theorem joinWord_append (w : Word) (pre : List QueuedCommand) (q : QueuedCommand) : joinWord w (pre ++ [q]) =
    pre ++ if q.incomplete then [{ q with words := q.words ++ [w] }] else [q, { words := [w], cut := false, released := false }] := by
  induction pre with
  | nil => simp only [List.nil_append, joinWord]
  | cons x xs ih =>
    cases xs with
    | nil => exact congrArg (x :: ·) ih
    | cons y ys => exact congrArg (x :: ·) ih

theorem cutTail_append (pre : List QueuedCommand) (q : QueuedCommand) :
    cutTail (pre ++ [q]) = pre ++ [if q.incomplete then { q with cut := true } else q] := by
  induction pre with
  | nil => rfl
  | cons x xs ih =>
    cases xs with
    | nil => exact congrArg (x :: ·) ih
    | cons y ys => exact congrArg (x :: ·) ih

theorem offerWord_joins {w : Word} (ho : (s.port p).overflow = false) (hw : (s.port p).wordCount < 64) :
    s.offerWord p w = s.putPort p { s.port p with commands := joinWord w (s.port p).commands } := by
  have hw' : (s.port p).wordCount < Config.fifoWords := hw
  simp only [State.offerWord, ho, Bool.false_eq_true, if_false, hw', if_true]

theorem exec_commandIn (p : Port) (w : Word) (s : State) : exec (.commandIn p w) s = .next ((s.offerWord p w).takeAll p) := rfl

/-- A word that leaves nothing to take only joins. -/
theorem exec_commandIn_joins {w : Word} {cs : List QueuedCommand} (ho : (s.port p).overflow = false) (hw : (s.port p).wordCount < 64)
    (hj : joinWord w (s.port p).commands = cs) (ht : ({ s.port p with commands := cs } : PortState).takeable = none) :
    exec (.commandIn p w) s = .next (s.putPort p { s.port p with commands := cs }) := by
  rw [exec_commandIn, offerWord_joins ho hw, hj, takeAll_of_none]
  simpa using ht

theorem putPort_port (s : State) (p : Port) : s.putPort p (s.port p) = s := by cases p <;> rfl

/-- The last word of the only command of a port leaves that command whole in the FIFO. -/
theorem offerWord_last {kind : Byte} {seq : Half} {args ws : List Word} {w : Word} (ha : args.length ≤ 63)
    (hws : ws ++ [w] = headerWord kind (args.length + 1) seq :: args)
    (hc : (s.port p).commands = if ws = [] then [] else [{ words := ws, cut := false, released := false }])
    (ho : (s.port p).overflow = false) :
    s.offerWord p w = s.putPort p { s.port p with commands := [wholeCommand kind seq args] } := by
  have hlen : ws.length = args.length := by simpa using congrArg List.length hws
  have hcount : headerCount (headerWord kind (args.length + 1) seq) = args.length + 1 := by
    rw [headerCount_headerWord]
    omega
  have hjoin : joinWord w (s.port p).commands = [wholeCommand kind seq args] := by
    rw [hc]
    cases ws with
    | nil => simp only [if_true, joinWord, wholeCommand, ← hws, List.nil_append]
    | cons a as =>
      have hhead : a = headerWord kind (args.length + 1) seq := (List.cons.inj hws).1
      have hinc : QueuedCommand.incomplete { words := a :: as, cut := false, released := false } = true := by
        refine incomplete_iff.2 ⟨rfl, ?_⟩
        change (a :: as).length < headerCount a
        rw [hhead, hcount, ← hhead]
        omega
      simp only [reduceCtorEq, if_false, joinWord, hinc, if_true, wholeCommand, hws]
  rw [offerWord_joins ho, hjoin]
  rw [PortState.wordCount, hc]
  split
  · decide
  · simp only [List.map_cons, List.map_nil, List.sum_cons, List.sum_nil]
    omega

/-- The last word of the only command of a port does what the command written whole does. -/
theorem exec_commandIn_last {kind : Byte} {seq : Half} {args ws : List Word} {w : Word} (ha : args.length ≤ 63)
    (hws : ws ++ [w] = headerWord kind (args.length + 1) seq :: args)
    (hc : (s.port p).commands = if ws = [] then [] else [{ words := ws, cut := false, released := false }])
    (ho : (s.port p).overflow = false) :
    exec (.commandIn p w) s = .next ((s.putPort p { s.port p with commands := [] }).deliver p kind seq args) := by
  rw [exec_commandIn, offerWord_last ha hws hc ho, deliver_eq kind seq (by simp) (by simpa using ho) ha]
  simp

end Sys2Proof.Machine
end

section
/-! PROOF. COMMAND_IN and PORT_STATUS (10.2, 10.3): words that join, are dropped or cut, and the resynchronise request. -/

namespace Sys2Proof.Machine

variable {s : State} {p : Port} {q : QueuedCommand}

theorem head?_append_single (pre : List QueuedCommand) {q q' : QueuedCommand} (h : pre ≠ []) :
    (pre ++ [q']).head? = (pre ++ [q]).head? := by
  cases pre with
  | nil => exact absurd rfl h
  | cons x xs => rfl

/-- A whole command at the front that is no QUERY of right form, alone in its FIFO, is taken when its response has room. -/
theorem takeAll_alone (hc : (s.port p).commands = []) (hr : q.ready = true) (hm : (s.port p).responses.length + q.roomNeeded ≤ 64)
    (hq : ¬(q.kind = some .query ∧ q.formError = none)) :
    (s.putPort p { s.port p with commands := [q] }).takeAll p =
      ((s.restartFor p q).carryOut p q).1.respond p (headerSeq q.header) ((s.restartFor p q).carryOut p q).2 := by
  have hpop : (s.putPort p { s.port p with commands := [q] }).popCommand p = s := by
    have hport : ({ s.port p with commands := [] } : PortState) = s.port p := by rw [← hc]
    simp [State.popCommand, hport]
  rw [takeAll_of_single (q := q) (by simp) (by
    rw [State.port_putPort, if_pos rfl]
    exact takeable_of_front rfl hr hm hq)]
  simp only [State.takeCommand, hpop]

/-- A header of a command without arguments does what that command written whole does. -/
theorem exec_commandIn_header {k : CmdKind} {w : Word} (hk : CmdKind.ofCode (headerKind w) = some k) (hkq : k ≠ .query)
    (hn : headerCount w = 1) (h : s.Ready p k) : exec (.commandIn p w) s = exec (commandOf p (headerSeq w) [] k) s := by
  obtain ⟨hempty, hclear, hroom⟩ := h
  have hkind : QueuedCommand.kind { words := [w], cut := false, released := false } = some k := hk
  have hready : QueuedCommand.ready { words := [w], cut := false, released := false } = true := by
    rw [ready_iff]
    exact le_of_eq hn
  have hneeded : QueuedCommand.roomNeeded { words := [w], cut := false, released := false } = 1 + k.maxData := by
    simp only [QueuedCommand.roomNeeded, hkind]
  have hcount : headerCount (headerWord k.code 1 (headerSeq w)) = 1 := by rw [headerCount_headerWord]
  have hform : (wholeCommand k.code (headerSeq w) []).formError =
      QueuedCommand.formError { words := [w], cut := false, released := false } := by
    have hwhole : (wholeCommand k.code (headerSeq w) []).words.length =
        headerCount (wholeCommand k.code (headerSeq w) []).header := by
      rw [wholeCommand_header]
      exact hcount.symm
    rw [formError_whole (k := k) (q := wholeCommand k.code (headerSeq w) []) rfl hwhole (by simp),
      formError_whole (k := k) (q := { words := [w], cut := false, released := false }) rfl hn.symm hkind]
    rfl
  have hrest (t : State) : t.restartFor p { words := [w], cut := false, released := false } =
      t.restartFor p (wholeCommand k.code (headerSeq w) []) := by
    simp only [State.restartFor, hkind, wholeCommand_kind, CmdKind.ofCode_code]
  have hcarry (t : State) : t.carryOut p { words := [w], cut := false, released := false } =
      t.carryOut p (wholeCommand k.code (headerSeq w) []) := by
    simp only [State.carryOut, hkind, wholeCommand_kind, CmdKind.ofCode_code, hform, wholeCommand_args]
    rfl
  have hjoin : s.offerWord p w = s.putPort p { s.port p with commands := [{ words := [w], cut := false, released := false }] } := by
    rw [offerWord_joins hclear (by simp [PortState.wordCount, hempty]), hempty]
    rfl
  have hroom' : (s.port p).hasRoom (wholeCommand k.code (headerSeq w) []) = true := by
    simp only [PortState.hasRoom, QueuedCommand.roomNeeded, wholeCommand_kind, CmdKind.ofCode_code, decide_eq_true_eq]
    exact hroom
  rw [exec_commandOf p _ _ hkq, deliver_taken k.code (headerSeq w) hempty hclear (Nat.zero_le _) hroom' (by simp [hkq]),
    exec_commandIn, hjoin, takeAll_alone hempty hready (hneeded ▸ hroom) (by simp [hkind, hkq]), hrest, hcarry]
  rfl

/-! ### An overflow (R184) -/

/-- A word offered to a full FIFO. -/
theorem exec_commandIn_full {w : Word} (ho : (s.port p).overflow = false) (hw : (s.port p).wordCount = 64)
    (ht : ({ s.port p with overflow := true, commands := cutTail (s.port p).commands } : PortState).takeable = none) :
    exec (.commandIn p w) s =
      .next ((s.putPort p { s.port p with overflow := true, commands := cutTail (s.port p).commands }).raise (.cmdOverflow p)) := by
  have hoff : s.offerWord p w =
      (s.putPort p { s.port p with overflow := true, commands := cutTail (s.port p).commands }).raise (.cmdOverflow p) := by
    have hw' : ¬(s.port p).wordCount < Config.fifoWords := by simp [hw, Config.fifoWords]
    simp only [State.offerWord, ho, Bool.false_eq_true, if_false, hw']
  rw [exec_commandIn, hoff, takeAll_of_none]
  simpa using ht

theorem words_cutTail (qs : List QueuedCommand) : (cutTail qs).map QueuedCommand.words = qs.map QueuedCommand.words := by
  induction qs with
  | nil => rfl
  | cons x xs ih =>
    cases xs with
    | nil =>
      simp only [cutTail, List.map_cons, List.map_nil]
      split <;> rfl
    | cons y ys => exact congrArg (x.words :: ·) ih

/-- The cut of an incomplete tail lets nothing go that could not go before. -/
theorem takeable_cutTail (ht : (s.port p).takeable = none)
    (hrel : ∀ q ∈ (s.port p).commands, q.released = true → q.cut = true) :
    ({ s.port p with overflow := true, commands := cutTail (s.port p).commands } : PortState).takeable = none := by
  obtain hnil | ⟨pre, q, hc⟩ := (s.port p).commands.eq_nil_or_concat'
  · exact takeable_nil (by rw [hnil]; rfl)
  · have hcut := cutTail_append pre q
    rw [← hc] at hcut
    by_cases hpre : pre = []
    · subst hpre
      by_cases hi : q.incomplete = true
      · rw [if_pos hi] at hcut
        refine takeable_of_not_ready (q := { q with cut := true }) (qs := []) hcut ?_
        rw [incomplete_iff] at hi
        have hr : q.released = false := by
          rw [← Bool.not_eq_true]
          intro hr
          have hqc := hrel q (by simp [hc]) hr
          rw [hi.1] at hqc
          cases hqc
        simp [QueuedCommand.ready, hr]
      · rw [if_neg hi] at hcut
        rw [← ht]
        exact takeable_congr (by rw [hc]; exact congrArg List.head? (hc ▸ hcut)) rfl
    · rw [← ht]
      refine takeable_congr ?_ rfl
      rw [hc]
      change (cutTail (pre ++ [q])).head? = _
      rw [cutTail_append]
      exact head?_append_single pre hpre

/-! ### A resynchronise request (R185) -/

theorem release_eq (q : QueuedCommand) : q.release = { q with released := q.released || q.cut } := by
  obtain ⟨words, cut, released⟩ := q
  cases cut <;> simp [QueuedCommand.release]

theorem cut_eq (q : QueuedCommand) : (if q.incomplete then { q with cut := true } else q) =
    { q with cut := q.cut || decide (q.words.length < headerCount q.header) } := by
  obtain ⟨words, cut, released⟩ := q
  cases cut with
  | true => simp [QueuedCommand.incomplete]
  | false =>
    by_cases hw : words.length < headerCount (QueuedCommand.header { words := words, cut := false, released := released })
    · rw [if_pos (incomplete_iff.2 ⟨rfl, hw⟩), decide_eq_true hw]
      rfl
    · rw [if_neg (fun h => hw (incomplete_iff.1 h).2), decide_eq_false hw]
      rfl

theorem exec_portStatus (p : Port) (w : Word) (s : State) : exec (.portStatus p w) s =
    .next ((s.putPort p { s.port p with
      overflow := false, commands := (cutTail (s.port p).commands).map QueuedCommand.release }).takeAll p) := rfl

theorem resynchronised_append (pre : List QueuedCommand) (q : QueuedCommand) : (cutTail (pre ++ [q])).map QueuedCommand.release =
    (pre ++ [{ q with cut := q.cut || decide (q.words.length < headerCount q.header) }]).map
      (fun y : QueuedCommand => { y with released := y.released || y.cut }) := by
  rw [cutTail_append, cut_eq]
  exact List.map_congr_left fun y _ => release_eq y

theorem map_release_of_released {qs : List QueuedCommand} (h : ∀ q ∈ qs, q.cut = true → q.released = true) :
    qs.map QueuedCommand.release = qs := by
  have hid : ∀ q ∈ qs, q.release = id q := fun q hq => by
    unfold QueuedCommand.release
    split
    next hc => rw [← h q hq hc]; rfl
    next => rfl
  rw [List.map_congr_left hid, List.map_id]

/-- A resynchronise request with nothing to cut or let go. -/
theorem resynchronised_same {qs : List QueuedCommand} (hrel : ∀ q ∈ qs, q.cut = true → q.released = true)
    (hlast : ∀ q, qs.getLast? = some q → q.incomplete = false) : (cutTail qs).map QueuedCommand.release = qs := by
  have hcut : cutTail qs = qs := by
    obtain rfl | ⟨pre, q, rfl⟩ := qs.eq_nil_or_concat'
    · rfl
    · rw [cutTail_append, if_neg (by simp [hlast q (by simp)])]
  rw [hcut, map_release_of_released hrel]

/-- The only command of a port, incomplete or cut: after the request it is cut and let go, and is answered. -/
theorem exec_portStatus_alone {w : Word} {c : Code} (hc : (s.port p).commands = [q]) (hq : q.incomplete = true ∨ q.cut = true)
    (hroom : (s.port p).responses.length + q.roomNeeded ≤ 64)
    (hf : q.kind = none ∧ c = .badCommand ∨ ∃ k, q.kind = some k ∧ c = .badLength) :
    exec (.portStatus p w) s =
      .next (((s.putPort p { s.port p with overflow := false, commands := [] }).restartFor p q).answered p (headerSeq q.header) c []) := by
  have hcs : (cutTail (s.port p).commands).map QueuedCommand.release = [{ q with cut := true, released := true }] := by
    have hcut : (q.cut || decide (q.words.length < headerCount q.header)) = true := by
      rw [Bool.or_eq_true, decide_eq_true_eq]
      exact hq.elim (fun h => .inr (incomplete_iff.1 h).2) .inl
    have h := resynchronised_append [] q
    rw [List.nil_append] at h
    rw [hc, h, hcut]
    simp
  have hform : QueuedCommand.formError { q with cut := true, released := true } = some c := by
    obtain ⟨hk, rfl⟩ | ⟨k, hk, rfl⟩ := hf
    · have hk' : QueuedCommand.kind { q with cut := true, released := true } = none := hk
      simp only [QueuedCommand.formError, hk']
    · have hk' : QueuedCommand.kind { q with cut := true, released := true } = some k := hk
      simp only [QueuedCommand.formError, hk', true_or, if_true]
  have hfront : ((s.putPort p { s.port p with overflow := false, commands := [{ q with cut := true, released := true }] }).port p).commands =
      [{ q with cut := true, released := true }] := by simp
  rw [exec_portStatus, hcs, takeAll_of_single hfront, takeCommand_refused hfront hform]
  · simp only [State.fifoAt, State.port_putPort, if_true, State.putPort_putPort]
    rfl
  · refine takeable_of_front hfront rfl ?_ (by simp [hform])
    rw [State.port_putPort, if_pos rfl]
    exact hroom

/-- Settles O26: what joins, what is dropped and cut, what a resynchronise request lets go, and that all that can go goes in order. -/
theorem commandWordsJoinCutAndGo : Obligations.CommandWordsJoinCutAndGo := by
  intro p w s
  refine ⟨fun hc ho hw => ?_, fun pre q hc ho hw ht => ⟨fun hcut hne hlen => ?_, fun hq => ?_⟩, fun k seq args ws hk ha hne hws hc ho => ?_,
    fun k hk hkq hn h => exec_commandIn_header hk hkq hn h, fun cs ho hw hcs => ?_, fun ho ht => ?_, fun ho hw ht hrel => ?_,
    fun q qs hc hcut hrel => ?_, fun ht hrel hlast => ?_, fun cs hcs => ?_, fun q hc hq => ⟨fun k hk hm => ?_, fun hk hm => ?_⟩⟩
  · refine exec_commandIn_joins ho (by simp [PortState.wordCount, hc]) (by rw [hc]; rfl)
      (takeable_of_not_ready (q := { words := [w], cut := false, released := false }) (qs := []) rfl ?_)
    rw [← Bool.not_eq_true, ready_iff]
    exact Nat.not_le.2 hw
  · have hinc : q.incomplete = true := incomplete_iff.2 ⟨hcut, hlen.elim (fun h => Nat.lt_of_succ_lt h) (fun h => h.2)⟩
    refine exec_commandIn_joins ho hw (by rw [hc, joinWord_append, if_pos hinc]) ?_
    by_cases hpre : pre = []
    · subst hpre
      refine takeable_of_not_ready (q := { q with words := q.words ++ [w] }) (qs := []) rfl ?_
      have hhead : QueuedCommand.header { q with words := q.words ++ [w] } = q.header := by
        obtain ⟨a, as, hw⟩ := List.exists_cons_of_ne_nil hne
        simp [QueuedCommand.header, hw]
      have hlen' := hlen.resolve_right (fun h => h.1 rfl)
      rw [← Bool.not_eq_true, ready_iff, hhead]
      simp only [hcut, Bool.false_eq_true, if_false, List.length_append, List.length_singleton]
      omega
    · rw [← ht]
      exact takeable_congr (by rw [hc]; exact head?_append_single pre hpre) rfl
  · refine exec_commandIn_joins ho hw (by rw [hc, joinWord_append, if_neg (by simp [not_incomplete_iff.2 hq])]) ?_
    rw [← ht]
    refine takeable_congr ?_ rfl
    rw [hc]
    cases pre <;> rfl
  · rw [exec_commandIn_last ha hws (by rw [if_neg hne]; exact hc) ho, exec_commandOf p seq args hk]
  · rw [exec_commandIn, offerWord_joins ho hw]
    have hj : joinWord w (s.port p).commands = cs := by
      obtain ⟨hc, rfl⟩ | ⟨pre, q, hc, ⟨hcut, hl, rfl⟩ | ⟨hq, rfl⟩⟩ := hcs
      · rw [hc]
        rfl
      · rw [hc, joinWord_append, if_pos (incomplete_iff.2 ⟨hcut, hl⟩)]
      · rw [hc, joinWord_append, if_neg (by simp [not_incomplete_iff.2 hq])]
    rw [hj]
    exact ⟨_, rfl, takeAll_goInOrder _ p⟩
  · have hoff : s.offerWord p w = s := by simp only [State.offerWord, ho, if_true]
    rw [exec_commandIn, hoff, takeAll_of_none ht]
  · refine ⟨_, exec_commandIn_full ho hw (takeable_cutTail ht hrel), by simp, by simp [words_cutTail], fun q hq hi => ?_, by simp,
      fun r hr => by simp [hr], by simp [State.raise, EventSet.withDetail, Occurrence.bit]⟩
    obtain ⟨pre, hc⟩ := List.getLast?_eq_some_iff.1 hq
    simp [hc, cutTail_append, hi]
  · exact takeable_of_not_ready hc (by simp [QueuedCommand.ready, hcut, hrel])
  · have hcs := resynchronised_same hrel hlast
    rw [exec_portStatus, hcs, takeAll_of_none]
    rw [State.port_putPort, if_pos rfl, ← ht]
    exact takeable_congr rfl rfl
  · have hcs' : (cutTail (s.port p).commands).map QueuedCommand.release = cs := by
      obtain ⟨hc, rfl⟩ | ⟨pre, q, hc, rfl⟩ := hcs
      · rw [hc]
        rfl
      · rw [hc, resynchronised_append]
    rw [exec_portStatus, hcs']
    exact ⟨_, rfl, takeAll_goInOrder _ p⟩
  · rw [exec_portStatus_alone hc hq (by simpa [QueuedCommand.roomNeeded, QueuedCommand.kind, hk] using hm) (.inr ⟨k, hk, rfl⟩),
      restartFor_kind hk]
  · rw [exec_portStatus_alone hc hq (by simpa [QueuedCommand.roomNeeded, QueuedCommand.kind, hk] using hm) (.inl ⟨hk, rfl⟩)]
    have hrest (t : State) : t.restartFor p q = t := by simp [State.restartFor, QueuedCommand.kind, hk]
    rw [hrest]

end Sys2Proof.Machine
end

section
/-! PROOF. What every command is checked for first (10.2, 4.1), the port words (10.1, 10.8), service port transactions (R179). -/

namespace Sys2Proof.Machine

variable {s : State} {p : Port}

/-! ### The checks of form, operating state and lock -/

/-- A whole command of a known kind with the wrong word count or an argument out of its range. -/
theorem formError_whole_refused {k : CmdKind} {seq : Half} {args : List Word} {c : Code} (ha : args.length ≤ 63)
    (h : ¬CountFits args k ∧ c = .badLength ∨ CountFits args k ∧ ¬ArgsInRange args k ∧ c = .badField) :
    (wholeCommand k.code seq args).formError = some c := by
  have hwhole : (wholeCommand k.code seq args).words.length = headerCount (wholeCommand k.code seq args).header := by
    rw [wholeCommand_header, headerCount_headerWord]
    change args.length + 1 = _
    omega
  rw [formError_whole (k := k) (q := wholeCommand k.code seq args) rfl hwhole (by simp), wholeCommand_args]
  obtain ⟨hl, rfl⟩ | ⟨hl, hg, rfl⟩ := h
  · rw [if_pos (by simpa using mt (countFits_iff _ _).mpr hl)]
  · rw [if_neg (by simp [(countFits_iff _ _).mp hl]), if_pos (by simpa using mt (argsInRange_iff hl).mpr hg)]

/-- A command whose form is wrong is refused, whatever the state. -/
theorem exec_formRefused {k : CmdKind} (seq : Half) {args : List Word} {c : Code} (hk : k ≠ .query) (h : s.Ready p k)
    (ha : args.length ≤ 63) (hf : (wholeCommand k.code seq args).formError = some c) :
    exec (commandOf p seq args k) s = .next ((s.restartedBy p k).answered p seq c []) := by
  have hroom : (s.port p).hasRoom (wholeCommand k.code seq args) = true := by
    simp only [PortState.hasRoom, QueuedCommand.roomNeeded, wholeCommand_kind, CmdKind.ofCode_code, decide_eq_true_eq]
    exact h.room
  rw [exec_commandOf p seq args hk, deliver_refused k.code seq h.empty h.clear ha hroom hf,
    restartFor_kind (k := k) (by rw [wholeCommand_kind, CmdKind.ofCode_code])]
  rfl

/-- Every edit command but OPEN_EDIT passes the checks of operating state and lock before its own. -/
theorem perform_guarded {k : CmdKind} (args : List Word) (he : k.isEdit = true) (ho : k ≠ .openEdit) :
    ∃ act, ∀ u : State, u.perform p k args = u.guardEdit p act := by
  cases k
  case openEdit => exact absurd rfl ho
  case insert => exact ⟨_, fun _ => rfl⟩
  case amend => exact ⟨_, fun _ => rfl⟩
  case retire => exact ⟨_, fun _ => rfl⟩
  case retireGroup => exact ⟨_, fun _ => rfl⟩
  case defineProfile => exact ⟨_, fun _ => rfl⟩
  case dropProfile => exact ⟨_, fun _ => rfl⟩
  case sealSession => exact ⟨_, fun _ => rfl⟩
  case abandon => exact ⟨_, fun _ => rfl⟩
  case touch => exact ⟨_, fun _ => rfl⟩
  all_goals cases he

theorem exec_lockRefused {k : CmdKind} (seq : Half) {args : List Word} {c : Code} (h : s.Ready p k) (ha : args.length ≤ 63)
    (hl : CountFits args k) (hg : ArgsInRange args k) (he : k.isEdit = true) (ho : k ≠ .openEdit)
    (hr : (s.restartTimer p).editRefusal p = some c) :
    exec (commandOf p seq args k) s = .next ((s.restartTimer p).answered p seq c []) := by
  obtain ⟨act, hact⟩ := perform_guarded (p := p) args he ho
  rw [exec_edit seq h he ha ((countFits_iff _ _).1 hl) ((argsInRange_iff hl).1 hg), hact, guardEdit_refused hr]
  rfl

theorem restartTimer_opState (s : State) (p : Port) : (s.restartTimer p).opState = s.opState := by
  unfold State.restartTimer
  split
  · rfl
  · split <;> rfl

/-! ### A QUERY's last word -/

section
variable {seq : Half} {args ws : List Word} {w : Word}

theorem exec_query_refused {c : Code} (ha : args.length ≤ 63) (hws : ws ++ [w] = headerWord 0x06#8 (args.length + 1) seq :: args)
    (hc : (s.port p).commands = if ws = [] then [] else [{ words := ws, cut := false, released := false }])
    (ho : (s.port p).overflow = false) (hr : (s.port p).responses.length + 18 ≤ 64)
    (hf : (wholeCommand CmdKind.query.code seq args).formError = some c) :
    exec (.commandIn p w) s = .next ((s.putPort p { s.port p with commands := [] }).answered p seq c []) := by
  have hroom : ((s.putPort p { s.port p with commands := [] }).port p).hasRoom (wholeCommand CmdKind.query.code seq args) = true := by
    simp only [PortState.hasRoom, QueuedCommand.roomNeeded, wholeCommand_kind, CmdKind.ofCode_code, decide_eq_true_eq,
      State.port_putPort, if_true]
    exact hr
  rw [exec_commandIn_last ha hws hc ho]
  change Host.Outcome.next (State.deliver p CmdKind.query.code seq args _) = _
  rw [deliver_refused CmdKind.query.code seq (by simp) (by simpa using ho) ha hroom hf,
    restartFor_kind (k := .query) (by rw [wholeCommand_kind, CmdKind.ofCode_code])]
  rfl

theorem exec_query_waits (ha : args.length ≤ 63) (hws : ws ++ [w] = headerWord 0x06#8 (args.length + 1) seq :: args)
    (hc : (s.port p).commands = if ws = [] then [] else [{ words := ws, cut := false, released := false }])
    (ho : (s.port p).overflow = false) (hf : (wholeCommand CmdKind.query.code seq args).formError = none) :
    exec (.commandIn p w) s = .next (s.putPort p { s.port p with commands := [wholeCommand CmdKind.query.code seq args] }) := by
  rw [exec_commandIn, offerWord_last ha hws hc ho, takeAll_of_none]
  · rfl
  · rw [State.port_putPort, if_pos rfl]
    change PortState.takeable { s.port p with commands := [wholeCommand CmdKind.query.code seq args] } = none
    simp [PortState.takeable, hf]

end

/-- Settles O25: the tables of 11.4, then each check in its turn. -/
theorem commandsRefusedInOrder : Obligations.CommandsRefusedInOrder := by
  refine ⟨by decide, fun c k => ⟨code_of_ofCode, fun h => h ▸ CmdKind.ofCode_code k⟩, fun k => by cases k <;> decide, rfl,
    fun p seq c data s hd => ?_, fun p kind seq args s hk ha hc ho hr => ?_, fun k p seq args s hk h ha => ?_,
    fun p seq args ws w q s ha hws hc ho hr hq => ?_⟩
  · exact ⟨_, rfl, responseHeader_fields c seq (Nat.lt_succ_of_le hd)⟩
  · have hroom : (s.port p).hasRoom (wholeCommand kind seq args) = true := by
      simp only [PortState.hasRoom, QueuedCommand.roomNeeded, wholeCommand_kind, hk, decide_eq_true_eq]
      exact Nat.succ_le_succ hr
    have hf : (wholeCommand kind seq args).formError = some .badCommand := by
      simp only [QueuedCommand.formError, wholeCommand_kind, hk]
    change Host.Outcome.next (s.deliver p kind seq args) = _
    rw [deliver_refused kind seq hc ho ha hroom hf]
    simp only [State.restartFor, wholeCommand_kind, hk]
    rfl
  · refine ⟨fun hl => exec_formRefused seq hk h ha (formError_whole_refused ha (.inl ⟨hl, rfl⟩)),
      fun hl hg => exec_formRefused seq hk h ha (formError_whole_refused ha (.inr ⟨hl, hg, rfl⟩)),
      fun hl hg he hoe => ⟨fun hw => ?_, fun hw hn => ?_, fun x hw hx hox => ?_⟩⟩
    · rw [show s.restartedBy p k = s.restartTimer p from if_pos he]
      exact exec_lockRefused seq h ha hl hg he hoe (editRefusal_idle (by rw [restartTimer_opState, hw]))
    · have hre := restartTimer_of_none (p := p) hn
      rw [exec_lockRefused seq h ha hl hg he hoe (by rw [hre]; exact editRefusal_noSession hw hn), hre]
    · have hre := restartTimer_other (p := p) hx hox
      rw [exec_lockRefused seq h ha hl hg he hoe (by rw [hre]; exact editRefusal_notOwner hw hx hox), hre]
  · have hwhole : q = wholeCommand CmdKind.query.code seq args := by
      rw [hq, hws]
      rfl
    refine ⟨fun hl => exec_query_refused ha hws hc ho hr (formError_whole_refused ha (.inl ⟨hl, rfl⟩)),
      fun hl hg => exec_query_refused ha hws hc ho hr (formError_whole_refused ha (.inr ⟨hl, hg, rfl⟩)), fun hl hg => ?_⟩
    have hf : (wholeCommand CmdKind.query.code seq args).formError = none :=
      formError_none ha ((countFits_iff _ _).1 hl) ((argsInRange_iff hl).1 hg)
    rw [hwhole]
    refine ⟨exec_query_waits ha hws hc ho hf, portOffers_iff.1 ?_⟩
    have hroom : PortState.hasRoom { s.port p with commands := [wholeCommand CmdKind.query.code seq args] }
        (wholeCommand CmdKind.query.code seq args) = true := by
      simp only [PortState.hasRoom, QueuedCommand.roomNeeded, wholeCommand_kind, CmdKind.ofCode_code, decide_eq_true_eq]
      exact hr
    have hready : (wholeCommand CmdKind.query.code seq args).ready = true := by
      have hcount : headerCount (headerWord CmdKind.query.code (args.length + 1) seq) = args.length + 1 := by
        rw [headerCount_headerWord]
        omega
      rw [ready_iff]
      exact le_of_eq hcount
    unfold State.portOffers
    rw [State.port_putPort, if_pos rfl]
    exact if_pos ⟨by rw [wholeCommand_kind, CmdKind.ofCode_code], hready, hroom, hf⟩

end Sys2Proof.Machine
end

section
/-! PROOF. What the port words read as and what writes to them do (10.1, 10.8). -/

namespace Sys2Proof.Machine

variable {s : State} {p : Port}

theorem exec_responseOut {v : Word} {vs : List Word} (h : (s.port p).responses = v :: vs) :
    exec (.responseOut p) s = .next ((s.putPort p { s.port p with responses := vs, readData := v }).takeAll p) := by
  change Host.Outcome.next (s.readResponse p) = _
  rw [State.readResponse, h]

/-- Two event patterns meet just when they share a position. -/
theorem and_ne_zero_iff {n : Nat} (a b : BitVec n) : (a &&& b != 0#n) = true ↔ ∃ k < n, a.getLsbD k = true ∧ b.getLsbD k = true := by
  rw [bne_iff_ne, ne_eq, BitVec.eq_of_getLsbD_eq_iff]
  simp only [BitVec.getLsbD_and, BitVec.getLsbD_zero, not_forall, Bool.not_eq_false, Bool.and_eq_true, exists_prop]

theorem getLsbD_extract_low {w : Word} {k : Nat} (h : k < 12) : (w.extractLsb' 0 12).getLsbD k = w.getLsbD k := by
  simp [h]

/-- The events word's cleared positions, in the event set after (R195). -/
theorem clear_set (e : EventSet) (w : Word) {k : Nat} (h : k < 12) :
    (e.clear (w.extractLsb' 0 12)).set.getLsbD k = (e.set.getLsbD k && !w.getLsbD k) := by
  change (e.set &&& ~~~w.extractLsb' 0 12).getLsbD k = _
  rw [BitVec.getLsbD_and, BitVec.getLsbD_not, getLsbD_extract_low h]
  simp [h]

theorem keepUnless_extract {α : Type} (w : Word) {k : Nat} (h : k < 12) (x : Option α) :
    keepUnless (w.extractLsb' 0 12) k x = if w.getLsbD k then none else x := by
  rw [keepUnless, getLsbD_extract_low h]

/-- The command that waited for room goes as if it were written whole to the port as the read leaves it. -/
theorem exec_responseOut_alone {v : Word} {vs : List Word} {k : CmdKind} {seq : Half} {args : List Word}
    (h : (s.port p).responses = v :: vs) (hk : k ≠ .query) (ha : args.length ≤ 63) (ho : (s.port p).overflow = false)
    (hc : (s.port p).commands = [wholeCommand k.code seq args]) :
    exec (.responseOut p) s = exec (commandOf p seq args k)
      (s.putPort p { s.port p with commands := [], responses := vs, readData := v }) := by
  rw [exec_responseOut h, exec_commandOf p seq args hk, deliver_eq k.code seq (by simp) (by simpa using ho) ha]
  have hport : ({ s.port p with responses := vs, readData := v } : PortState) =
      { s.port p with commands := [wholeCommand k.code seq args], responses := vs, readData := v } := by rw [← hc]
  rw [hport]
  simp

/-- Settles O27: each port word read and written. -/
theorem portWordsReadAndWritten : Obligations.PortWordsReadAndWritten := by
  intro p w s
  refine ⟨⟨rfl, rfl, by cases p <;> rfl, rfl, rfl⟩, fun h => ?_, fun v vs h ht => ?_, fun v vs k seq args h hk ha ho hc => ?_,
    fun v vs h => ⟨_, exec_responseOut h, takeAll_goInOrder _ p⟩, ⟨_, rfl, rfl, fun k hk => clear_set _ _ hk, ?_⟩,
    ⟨_, rfl, rfl, fun q => ?_, ?_, ?_⟩, rfl⟩
  · change Host.Outcome.next (s.readResponse p) = _
    rw [State.readResponse, h]
  · rw [exec_responseOut h, takeAll_of_none]
    rw [State.port_putPort, if_pos rfl, ← ht]
    exact takeable_congr rfl rfl
  · exact exec_responseOut_alone h hk ha ho hc
  · exact ⟨keepUnless_extract w (by decide) _, keepUnless_extract w (by decide) _, keepUnless_extract w (by decide) _,
      keepUnless_extract w (by decide) _, keepUnless_extract w (by decide) _, keepUnless_extract w (by decide) _,
      keepUnless_extract w (by decide) _, keepUnless_extract w (by decide) _⟩
  · cases p <;> cases q <;> rfl
  · cases p <;> exact and_ne_zero_iff _ _
  · cases p <;> exact and_ne_zero_iff _ _

end Sys2Proof.Machine
end

section
/-! PROOF. A service port transaction as the word events it is (R179, 11.3). -/

namespace Sys2Proof.Machine

/-- Bits read from the top down on top of a number. -/
theorem foldl_bitsDown {n : Nat} (w : BitVec n) (a k : Nat) :
    (bitsDown w k).foldl (fun v b => 2 * v + flagBit b) a = a * 2 ^ k + w.toNat % 2 ^ k := by
  induction k generalizing a with
  | zero => simp [bitsDown, Nat.mod_one]
  | succ k ih =>
    have hbit : flagBit (w.getLsbD k) = w.toNat / 2 ^ k % 2 := by
      rw [BitVec.getLsbD, Nat.testBit_eq_decide_div_mod_eq]
      obtain h | h := Nat.mod_two_eq_zero_or_one (w.toNat / 2 ^ k) <;> simp [h, flagBit]
    rw [bitsDown, List.foldl_cons, ih, hbit, Nat.mod_pow_succ, pow_succ]
    ring

theorem ofBits_bitsOf {n : Nat} (w : BitVec n) : ofBits (bitsOf w) = w.toNat := by
  rw [ofBits, bitsOf, ← bitsDown_eq_map, foldl_bitsDown, Nat.zero_mul, Nat.zero_add, Nat.mod_eq_of_lt w.isLt]

theorem length_bitsOf {n : Nat} (w : BitVec n) : (bitsOf w).length = n := by simp [bitsOf]

/-- The bits up to a word's last one make that word. -/
theorem wholeWords_append (rest : List Bool) : ∀ (bs got : List Bool), got.length + bs.length = 32 → bs ≠ [] →
    wholeWords got (bs ++ rest) = BitVec.ofNat 32 (ofBits (got ++ bs)) :: wholeWords [] rest
  | [], _, _, h => absurd rfl h
  | [b], got, hl, _ => by
    rw [List.singleton_append, wholeWords, if_pos (by simpa using hl)]
  | b :: c :: bs, got, hl, _ => by
    simp only [List.length_cons] at hl
    rw [List.cons_append, wholeWords, if_neg (by omega),
      wholeWords_append rest (c :: bs) (got ++ [b]) (by simp; omega) (by simp)]
    simp

theorem wholeWords_bitsOf (v : Word) (rest : List Bool) : wholeWords [] (bitsOf v ++ rest) = v :: wholeWords [] rest := by
  have hne : bitsOf v ≠ [] := List.ne_nil_of_length_eq_add_one (length_bitsOf v)
  rw [wholeWords_append rest (bitsOf v) [] (by simp [length_bitsOf]) hne, List.nil_append, ofBits_bitsOf, BitVec.ofNat_toNat,
    BitVec.setWidth_eq]

theorem wholeWords_of_short : ∀ (bs got : List Bool), got.length + bs.length < 32 → wholeWords got bs = []
  | [], _, _ => by rw [wholeWords]
  | b :: bs, got, h => by
    simp only [List.length_cons] at h
    rw [wholeWords, if_neg (by omega), wholeWords_of_short bs (got ++ [b]) (by simp; omega)]

/-! ### The word events -/

section
variable {b : Byte} {rest : List Bool} {x : PortWord}

theorem serviceEvents_of_none (h : serviceFirstByte b = none) : serviceEvents (bitsOf b ++ rest) = [] := by
  have hlen : ¬(bitsOf b ++ rest).length < 8 := by simp [length_bitsOf]
  rw [serviceEvents, if_neg hlen, List.take_left' (length_bitsOf b), ofBits_bitsOf, BitVec.ofNat_toNat, BitVec.setWidth_eq, h]

theorem serviceEvents_of_read (h : serviceFirstByte b = some (x, true)) :
    serviceEvents (bitsOf b ++ rest) = (wholeWords [] rest).map (fun _ => .read x) := by
  have hlen : ¬(bitsOf b ++ rest).length < 8 := by simp [length_bitsOf]
  rw [serviceEvents, if_neg hlen, List.take_left' (length_bitsOf b), ofBits_bitsOf, BitVec.ofNat_toNat, BitVec.setWidth_eq, h,
    List.drop_left' (length_bitsOf b)]

theorem serviceEvents_of_write (h : serviceFirstByte b = some (x, false)) :
    serviceEvents (bitsOf b ++ rest) = (wholeWords [] rest).map (.write x) := by
  have hlen : ¬(bitsOf b ++ rest).length < 8 := by simp [length_bitsOf]
  rw [serviceEvents, if_neg hlen, List.take_left' (length_bitsOf b), ofBits_bitsOf, BitVec.ofNat_toNat, BitVec.setWidth_eq, h,
    List.drop_left' (length_bitsOf b)]

theorem serviceFirstByte_of_named (h : bitsAt b 1 4 = 0) :
    serviceFirstByte b = (PortWord.ofNumber (bitsAt b 5 3)).map (fun w => (w, b.getLsbD 0)) := by
  rw [serviceFirstByte, h]
  rfl

theorem serviceFirstByte_eq_none (h : bitsAt b 1 4 ≠ 0 ∨ 4 < bitsAt b 5 3) : serviceFirstByte b = none := by
  by_cases hz : bitsAt b 1 4 = 0
  · rw [serviceFirstByte_of_named hz]
    obtain h | h := h
    · exact absurd hz h
    · have hnone : ∀ n, 4 < n → PortWord.ofNumber n = none := fun n hn => by
        obtain ⟨m, rfl⟩ := Nat.exists_eq_add_of_lt hn
        rw [show 4 + m + 1 = m + 5 by omega]
        rfl
      rw [hnone _ h]
      rfl
  · rw [serviceFirstByte, if_neg (by simpa using hz)]

theorem setPending_pending (s : State) : s.setPending s.pending = s := rfl

theorem setPending_setPending (s : State) (a b : List Instr) : (s.setPending a).setPending b = s.setPending b := rfl

/-- A transaction without word events has no effect. -/
theorem transaction_of_nothing {bits : List Bool} (s : State) (h : serviceEvents bits = []) :
    State.serviceTransaction bits s = (s, []) ∧ State.queueTransaction bits s = s := by
  rw [State.serviceTransaction, State.queueTransaction, h]
  exact ⟨rfl, by simp [setPending_pending]⟩

/-- A transaction with a word event ahead of those of another. -/
theorem transaction_cons {bits more : List Bool} {e : WordEvent} (s : State)
    (h : serviceEvents bits = e :: serviceEvents more) :
    State.serviceTransaction bits s =
      ((State.serviceTransaction more (s.wordEvent .service e).1).1,
        (s.wordEvent .service e).2 ++ (State.serviceTransaction more (s.wordEvent .service e).1).2) ∧
    State.queueTransaction bits s =
      State.queueTransaction more (s.setPending (s.pending ++ (e.row? .service).toList)) := by
  rw [State.serviceTransaction, State.queueTransaction, State.queueTransaction, h]
  refine ⟨rfl, ?_⟩
  rw [List.filterMap_cons]
  cases e.row? .service <;> simp [setPending_setPending]

end

/-- Settles O28: the first byte names the word, and each whole word after it is one word event ahead of the rest. -/
theorem serviceTransactionActs : Obligations.ServiceTransactionActs := by
  refine ⟨fun bits s h => transaction_of_nothing s ?_, fun b rest s h =>
      transaction_of_nothing s (serviceEvents_of_none (serviceFirstByte_eq_none h)),
    fun b rest s h => transaction_of_nothing s ?_, fun b v rest s i hz hd hi => ?_, fun b v rest s hz hd hk => ?_,
    fun b v rest s x hz hd hx => ?_⟩
  · rw [serviceEvents, if_pos h]
  · have hw : wholeWords [] rest = [] := wholeWords_of_short rest [] (by simpa using h)
    cases hf : serviceFirstByte b with
    | none => exact serviceEvents_of_none hf
    | some xd =>
      obtain ⟨x, d⟩ := xd
      cases d with
      | true => rw [serviceEvents_of_read hf, hw, List.map_nil]
      | false => rw [serviceEvents_of_write hf, hw, List.map_nil]
  · have hsplit {x : PortWord} (hn : PortWord.ofNumber (bitsAt b 5 3) = some x) :
        serviceEvents (bitsOf b ++ bitsOf v ++ rest) = .write x v :: serviceEvents (bitsOf b ++ rest) := by
      have hf : serviceFirstByte b = some (x, false) := by rw [serviceFirstByte_of_named hz, hn, hd]; rfl
      rw [List.append_assoc, serviceEvents_of_write hf, serviceEvents_of_write hf, wholeWords_bitsOf, List.map_cons]
    obtain ⟨hk, rfl⟩ | ⟨hk, rfl⟩ | ⟨hk, rfl⟩ | ⟨hk, rfl⟩ | ⟨hk, rfl⟩ := hi
    all_goals exact transaction_cons s (hsplit (by rw [hk]; rfl))
  · have hf : serviceFirstByte b = some (.responseOut, true) := by rw [serviceFirstByte_of_named hz, hk, hd]; rfl
    refine transaction_cons (e := .read .responseOut) s ?_
    rw [List.append_assoc, serviceEvents_of_read hf, serviceEvents_of_read hf, wholeWords_bitsOf, List.map_cons]
  · have hsplit (hn : PortWord.ofNumber (bitsAt b 5 3) = some x) :
        serviceEvents (bitsOf b ++ bitsOf v ++ rest) = .read x :: serviceEvents (bitsOf b ++ rest) := by
      have hf : serviceFirstByte b = some (x, true) := by rw [serviceFirstByte_of_named hz, hn, hd]; rfl
      rw [List.append_assoc, serviceEvents_of_read hf, serviceEvents_of_read hf, wholeWords_bitsOf, List.map_cons]
    obtain ⟨hk, rfl⟩ | ⟨hk, rfl⟩ | ⟨hk, rfl⟩ | ⟨hk, rfl⟩ := hx
    all_goals
      obtain ⟨h1, h2⟩ := transaction_cons s (hsplit (by rw [hk]; rfl))
      exact ⟨h1, h2.trans (by simp [WordEvent.row?, setPending_pending])⟩

end Sys2Proof.Machine
end

section
/-! PROOF. What the switch counts (5.6 to 5.10): copies freed, references released, watches given up, rows ended, links overflowed. -/

namespace Sys2Proof.Machine

variable {s : State} {e : Nat}

/-! ### Supersession of a list of copies (R34) -/

@[simp] theorem unpinned_afterSupersede (e : Nat) (x : Copy) : (x.afterSupersede e).unpinned = x.unpinned := by
  by_cases h : x.unpinned = true
  · rw [Copy.afterSupersede, show ({ x with state := .superseded, supersededAt := some e } : Copy).unpinned = true from h, if_pos rfl, h]
    rfl
  · have h' : ({ x with state := .superseded, supersededAt := some e } : Copy).unpinned = false := Bool.eq_false_iff.2 h
    rw [Copy.afterSupersede, h']
    rfl

/-- A supersession as its two outcomes. -/
theorem supersede_eq (e c : Nat) (s : State) : State.supersede e c s =
    if (s.copy c).unpinned then (s.putCopy c { s.copy c with state := .superseded, supersededAt := some e }).freeCopy c
    else s.putCopy c { s.copy c with state := .superseded, supersededAt := some e } := rfl

theorem supersede_freeCount (e c : Nat) (s : State) :
    (State.supersede e c s).freeCount = s.freeCount + if (s.copy c).unpinned then 1 else 0 := by
  rw [supersede_eq]
  split <;> simp

theorem supersede_lowArmed (e c : Nat) (s : State) : (State.supersede e c s).lowArmed =
    if (s.copy c).unpinned = true ∧ s.params.poolWatermark ≤ s.freeCount + 1 then true else s.lowArmed := by
  rw [supersede_eq]
  by_cases h : (s.copy c).unpinned = true
  · by_cases hw : s.params.poolWatermark ≤ s.freeCount + 1 <;> simp [h, hw, freeCopy_lowArmed]
  · simp [h]

@[simp] theorem supersede_spanIndex (e c : Nat) (s : State) : (State.supersede e c s).spanIndex = s.spanIndex := by
  rw [supersede_eq]
  split <;> simp

@[simp] theorem supersede_params (e c : Nat) (s : State) : (State.supersede e c s).params = s.params := by
  rw [supersede_eq]
  split <;> simp

@[simp] theorem supersede_links (e c : Nat) (s : State) : (State.supersede e c s).links = s.links := by
  rw [supersede_eq]
  split <;> simp

@[simp] theorem supersede_rows (e c : Nat) (s : State) : (State.supersede e c s).rows = s.rows := by
  rw [supersede_eq]
  split <;> simp

@[simp] theorem supersede_eventSet (e c : Nat) (s : State) : (State.supersede e c s).eventSet = s.eventSet := by
  rw [supersede_eq]
  split <;> simp

theorem supersede_refCount (e c : Nat) (s : State) (k : Nat) : ((State.supersede e c s).slot k).refCount =
    (s.slot k).refCount - if ((s.copy c).unpinned && decide ((s.copy c).profile = some k)) = true then 1 else 0 := by
  rw [supersede_eq]
  by_cases h : (s.copy c).unpinned = true
  · by_cases hk : (s.copy c).profile = some k
    · have hk' : ({ s.copy c with state := .superseded, supersededAt := some e } : Copy).profile = some k := hk
      simp [h, hk, freeCopy_slot, hk']
    · have hk' : ({ s.copy c with state := .superseded, supersededAt := some e } : Copy).profile ≠ some k := hk
      simp [h, hk, freeCopy_slot, hk']
  · simp [h]

/-- What is read of a copy is not changed by the supersession of another, nor whether it is pinned by its own. -/
theorem supersede_unpinned (e c : Nat) (s : State) (k : Nat) : ((State.supersede e c s).copy k).unpinned = (s.copy k).unpinned := by
  rw [supersede_copy]
  split
  next h => rw [h, unpinned_afterSupersede]
  next => rfl

theorem freeCount_forEach_supersede (l : List Nat) (s : State) : (State.forEach (State.supersede e) l s).freeCount =
    s.freeCount + l.countP (fun c => (s.copy c).unpinned) := by
  induction l generalizing s with
  | nil => rfl
  | cons c l ih =>
    rw [State.forEach, ih, supersede_freeCount, List.countP_cons]
    simp only [supersede_unpinned]
    omega

theorem lowArmed_forEach_supersede (l : List Nat) (s : State) : (State.forEach (State.supersede e) l s).lowArmed =
    if l.any (fun c => (s.copy c).unpinned) = true ∧
      s.params.poolWatermark ≤ s.freeCount + l.countP (fun c => (s.copy c).unpinned) then true else s.lowArmed := by
  induction l generalizing s with
  | nil => simp [State.forEach]
  | cons c l ih =>
    rw [State.forEach, ih, supersede_lowArmed, supersede_freeCount, List.countP_cons, List.any_cons]
    simp only [supersede_unpinned, supersede_params]
    by_cases hc : (s.copy c).unpinned = true
    · by_cases hany : l.any (fun c => (s.copy c).unpinned) = true
      · simp only [hc, hany, if_true, true_and, Bool.or_self]
        split
        · rw [if_pos (by omega)]
        · rw [if_neg (by omega), if_neg (by omega)]
      · have hzero : l.countP (fun c => (s.copy c).unpinned) = 0 := by
          rw [List.countP_eq_zero]
          exact fun d hd hu => hany (List.any_eq_true.2 ⟨d, hd, hu⟩)
        simp [hc, hany, hzero]
    · simp [hc]

theorem refCount_forEach_supersede {l : List Nat} (hl : l.Nodup) (s : State) (k : Nat) :
    ((State.forEach (State.supersede e) l s).slot k).refCount = (s.slot k).refCount -
      l.countP (fun c => (s.copy c).unpinned && decide ((s.copy c).profile = some k)) := by
  induction l generalizing s with
  | nil => rfl
  | cons c l ih =>
    obtain ⟨hc, hl⟩ := List.nodup_cons.1 hl
    have hsame : ∀ d ∈ l, (State.supersede e c s).copy d = s.copy d := fun d hd => by
      rw [supersede_copy, if_neg]
      rintro rfl
      exact hc hd
    have hcount : l.countP (fun d => ((State.supersede e c s).copy d).unpinned &&
          decide (((State.supersede e c s).copy d).profile = some k)) =
        l.countP (fun d => (s.copy d).unpinned && decide ((s.copy d).profile = some k)) :=
      List.countP_congr fun d hd => by rw [hsame d hd]
    rw [State.forEach, ih hl, supersede_refCount, List.countP_cons, hcount]
    omega

theorem insertAscending_perm (n : Nat) (l : List Nat) : (insertAscending n l).Perm (n :: l) := by
  induction l with
  | nil => exact List.Perm.refl _
  | cons m ms ih =>
    rw [insertAscending]
    split
    · exact List.Perm.refl _
    · exact (ih.cons m).trans (List.Perm.swap n m ms)

theorem sortAscending_perm (l : List Nat) : (sortAscending l).Perm l := by
  induction l with
  | nil => exact List.Perm.refl _
  | cons n ns ih => exact (insertAscending_perm n _).trans (ih.cons n)

/-! ### The state between supersessions and burials -/

/-- The switch's stores with copies and slots activated, rows changed and copies superseded, before dying rows end (R93 to R95). -/
def State.switchCopies (e : Nat) (items : List ChangeItem) (s : State) : State :=
  let rs := items.filterMap ChangeItem.row?
  let old := sortAscending (rs.filterMap (fun r => (s.row r).supersedes))
  let t := (s.setCopies (Table.mapValues (Copy.activate e) s.copies)).setSlots (Table.mapValues (Slot.activate e) s.slots)
  let t := State.forEach (State.switchRow e) rs t
  let t := State.forEach (State.supersede e) old t
  t.setSuperseded (t.superseded ++ old.filter (fun c => decide ((t.copy c).state = .superseded)))

theorem switchStores_eq (e : Nat) (items : List ChangeItem) (s : State) :
    s.switchStores e items = State.forEach (State.buryRow e) (rowsNamed items) (s.switchCopies e items) := rfl

/-- The rows changed and the copies and slots activated, before any supersession. -/
def State.switchRows (e : Nat) (items : List ChangeItem) (s : State) : State :=
  State.forEach (State.switchRow e) (rowsNamed items)
    ((s.setCopies (Table.mapValues (Copy.activate e) s.copies)).setSlots (Table.mapValues (Slot.activate e) s.slots))

section
variable (e : Nat) (items : List ChangeItem) (s : State)

theorem switchRows_row (k : Nat) : (s.switchRows e items).row k = if k ∈ rowsNamed items then (s.row k).switched e else s.row k :=
  row_forEach_switchRow e _ _ k

theorem switchRows_copy (c : Nat) : (s.switchRows e items).copy c = (s.copy c).activate e :=
  (forEach_keep (f := State.switchRow e) (fun s => s.copy c) (fun _ _ => rfl) _ _).trans (Table.read_mapValues _ _ rfl _ _)

theorem switchRows_slot (k : Nat) : (s.switchRows e items).slot k = (s.slot k).activate e :=
  (forEach_keep (f := State.switchRow e) (fun s => s.slot k) (fun _ _ => rfl) _ _).trans (Table.read_mapValues _ _ rfl _ _)

theorem switchRows_freeCount : (s.switchRows e items).freeCount = s.freeCount :=
  forEach_keep (f := State.switchRow e) State.freeCount (fun _ _ => rfl) _ _

theorem switchRows_lowArmed : (s.switchRows e items).lowArmed = s.lowArmed :=
  forEach_keep (f := State.switchRow e) State.lowArmed (fun _ _ => rfl) _ _

theorem switchRows_params : (s.switchRows e items).params = s.params :=
  forEach_keep (f := State.switchRow e) State.params (fun _ _ => rfl) _ _

theorem switchRows_spanIndex : (s.switchRows e items).spanIndex = s.spanIndex :=
  forEach_keep (f := State.switchRow e) State.spanIndex (fun _ _ => rfl) _ _

theorem switchRows_links : (s.switchRows e items).links = s.links :=
  forEach_keep (f := State.switchRow e) State.links (fun _ _ => rfl) _ _

theorem switchRows_eventSet : (s.switchRows e items).eventSet = s.eventSet :=
  forEach_keep (f := State.switchRow e) State.eventSet (fun _ _ => rfl) _ _

theorem unpinned_activate (x : Copy) : (x.activate e).unpinned = x.unpinned := by
  unfold Copy.activate
  split <;> rfl

theorem profile_activate (x : Copy) : (x.activate e).profile = x.profile := by
  unfold Copy.activate
  split <;> rfl

/-- Every part of the state but the superseded list is as the supersessions leave it. -/
theorem switchCopies_part {α : Type} (g : State → α) (hg : ∀ (t : State) l, g (t.setSuperseded l) = g t) :
    g (s.switchCopies e items) = g (State.forEach (State.supersede e) (sortAscending (s.outgoing items)) (s.switchRows e items)) := hg _ _

/-- A part that no supersession changes is as the rows' changes leave it. -/
theorem switchCopies_keep {α : Type} (g : State → α) (hg : ∀ (t : State) l, g (t.setSuperseded l) = g t)
    (hs : ∀ c t, g (State.supersede e c t) = g t) : g (s.switchCopies e items) = g (s.switchRows e items) := by
  rw [switchCopies_part e items s g hg, forEach_keep g hs]

theorem switchCopies_row (k : Nat) : (s.switchCopies e items).row k = if k ∈ rowsNamed items then (s.row k).switched e else s.row k := by
  rw [switchCopies_keep e items s (fun t => t.row k) (fun _ _ => rfl) (fun c t => supersede_row e c t k), switchRows_row]

theorem switchCopies_links : (s.switchCopies e items).links = s.links := by
  rw [switchCopies_keep e items s State.links (fun _ _ => rfl) (supersede_links e), switchRows_links]

theorem switchCopies_spanIndex : (s.switchCopies e items).spanIndex = s.spanIndex := by
  rw [switchCopies_keep e items s State.spanIndex (fun _ _ => rfl) (supersede_spanIndex e), switchRows_spanIndex]

theorem switchCopies_eventSet : (s.switchCopies e items).eventSet = s.eventSet := by
  rw [switchCopies_keep e items s State.eventSet (fun _ _ => rfl) (supersede_eventSet e), switchRows_eventSet]

theorem switchCopies_freeCount :
    (s.switchCopies e items).freeCount = s.freeCount + (s.outgoing items).countP (fun c => (s.copy c).unpinned) := by
  rw [switchCopies_part e items s State.freeCount (fun _ _ => rfl), freeCount_forEach_supersede, switchRows_freeCount]
  simp only [switchRows_copy, unpinned_activate]
  rw [(sortAscending_perm _).countP_eq]

theorem switchCopies_lowArmed : (s.switchCopies e items).lowArmed =
    if (s.outgoing items).any (fun c => (s.copy c).unpinned) = true ∧
      s.params.poolWatermark ≤ s.freeCount + (s.outgoing items).countP (fun c => (s.copy c).unpinned) then true else s.lowArmed := by
  rw [switchCopies_part e items s State.lowArmed (fun _ _ => rfl), lowArmed_forEach_supersede, switchRows_freeCount,
    switchRows_lowArmed, switchRows_params]
  simp only [switchRows_copy, unpinned_activate]
  rw [(sortAscending_perm _).countP_eq, (sortAscending_perm _).any_eq]

theorem switchCopies_refCount (h : (s.outgoing items).Nodup) (k : Nat) : ((s.switchCopies e items).slot k).refCount =
    (s.slot k).refCount -
      (s.outgoing items).countP (fun c => (s.copy c).unpinned && decide ((s.copy c).profile = some k)) := by
  have hslot : ((s.slot k).activate e).refCount = (s.slot k).refCount := by
    unfold Slot.activate
    split <;> rfl
  rw [switchCopies_part e items s (fun t => t.slot k) (fun _ _ => rfl),
    refCount_forEach_supersede ((sortAscending_perm _).nodup_iff.2 h), switchRows_slot, hslot]
  simp only [switchRows_copy, unpinned_activate, profile_activate]
  rw [(sortAscending_perm _).countP_eq]

theorem phase_switched_dying (x : Row) : (x.switched e).phase = .dying ↔ x.phase = .dying := by
  unfold Row.switched
  cases h : x.phase <;> simp [h]
  split <;> simp [h]

end

/-! ### Burial of a list of rows (R17) -/

theorem ownsCopy_iff (s : State) (r : Nat) : s.ownsCopy r = true ↔ ∃ c, (s.copy c).owner = some r := by
  unfold State.ownsCopy
  rw [List.any_eq_true]
  refine ⟨fun ⟨c, _, h⟩ => ⟨c, of_decide_eq_true h⟩, fun ⟨c, h⟩ => ⟨c, mem_keys_of_ne (d := Copy.free) fun hf => ?_, decide_eq_true h⟩⟩
  have hc : s.copy c = Copy.free := hf
  rw [hc] at h
  cases h

theorem ownsCopy_congr {s t : State} (h : t.copies = s.copies) (r : Nat) : t.ownsCopy r = s.ownsCopy r := by
  unfold State.ownsCopy State.copy
  rw [h]

/-- A burial as its outcomes. -/
theorem buryRow_eq (e r : Nat) (s : State) : State.buryRow e r s =
    if (s.row r).phase = .dying then
      if s.ownsCopy r then (s.emptyWatchSet r).putRow r { s.row r with watch := [], phase := .dead, dies := some e }
      else (s.emptyWatchSet r).freeRow r
    else s := by
  unfold State.buryRow
  dsimp only
  rw [ownsCopy_congr (emptyWatchSet_copies r s), emptyWatchSet_row, if_pos rfl]

theorem buryRow_row_self (e r : Nat) (s : State) (h : (s.row r).phase = .dying) : (State.buryRow e r s).row r =
    if s.ownsCopy r then { s.row r with phase := .dead, dies := some e, watch := [] } else Row.free := by
  rw [buryRow_eq, if_pos h]
  split
  · simp
  · simp [freeRow_row]

theorem buryRow_row_other (e r : Nat) (s : State) {k : Nat} (h : k ≠ r) : (State.buryRow e r s).row k = s.row k :=
  (buryRow_row e r s k).resolve_right (fun hk => h hk.1)

theorem buryRow_spanIndex (e r : Nat) (s : State) : (State.buryRow e r s).spanIndex =
    s.spanIndex.filter (fun it => !(decide (it.row = r) && decide ((s.row r).phase = .dying) && !s.ownsCopy r)) := by
  rw [buryRow_eq]
  by_cases h : (s.row r).phase = .dying
  · by_cases ho : s.ownsCopy r = true
    · simp [h, ho]
    · simp [h, ho]
  · simp [h]

@[simp] theorem buryRow_freeCount (e r : Nat) (s : State) : (State.buryRow e r s).freeCount = s.freeCount := by
  rw [buryRow_eq]
  split
  · split <;> simp
  · rfl

@[simp] theorem buryRow_lowArmed (e r : Nat) (s : State) : (State.buryRow e r s).lowArmed = s.lowArmed := by
  rw [buryRow_eq]
  split
  · split <;> simp
  · rfl

@[simp] theorem buryRow_eventSet (e r : Nat) (s : State) : (State.buryRow e r s).eventSet = s.eventSet := by
  rw [buryRow_eq]
  split
  · split <;> simp
  · rfl

theorem watchCount_forEach_watchFalls (l : List Nat) (s : State) (n : Nat) :
    ((State.forEach State.watchFalls l s).link n).watchCount = (s.link n).watchCount - l.count n := by
  induction l generalizing s with
  | nil => rfl
  | cons m l ih =>
    rw [State.forEach, ih, List.count_cons]
    by_cases h : n = m
    · subst h
      simp [State.watchFalls]
      omega
    · have h' : m ≠ n := fun k => h k.symm
      simp [State.watchFalls, h, h']

theorem emptyWatchSet_watchCount (r : Nat) (s : State) (n : Nat) :
    ((s.emptyWatchSet r).link n).watchCount = (s.link n).watchCount - (s.row r).watch.count n := by
  rw [State.emptyWatchSet, watchCount_forEach_watchFalls]
  rfl

theorem buryRow_watchCount (e r : Nat) (s : State) (n : Nat) : ((State.buryRow e r s).link n).watchCount =
    (s.link n).watchCount - if (s.row r).phase = .dying then (s.row r).watch.count n else 0 := by
  rw [buryRow_eq]
  by_cases h : (s.row r).phase = .dying
  · have hempty : ((s.emptyWatchSet r).row r).watch = [] := by simp [emptyWatchSet_row]
    simp only [h, if_true]
    split
    · rw [State.link_putRow, emptyWatchSet_watchCount]
    · rw [freeRow_link_unwatched _ _ hempty, emptyWatchSet_watchCount]
  · simp [h]

/-- A burial leaves the copies, so that what a row owns stays owned. -/
theorem buryRow_ownsCopy (e r : Nat) (s : State) (k : Nat) : (State.buryRow e r s).ownsCopy k = s.ownsCopy k :=
  ownsCopy_congr (buryRow_copies e r s) k

theorem row_forEach_buryRow_dying (l : List Nat) (s : State) {k : Nat} (hk : k ∈ l) (hd : (s.row k).phase = .dying) :
    (State.forEach (State.buryRow e) l s).row k =
      if s.ownsCopy k then { s.row k with phase := .dead, dies := some e, watch := [] } else Row.free := by
  induction l generalizing s with
  | nil => cases hk
  | cons r l ih =>
    rw [State.forEach]
    by_cases h : k = r
    · subst h
      rw [(row_forEach_buryRow e l _ k).1 (.inl (buryRow_phase e k s)), buryRow_row_self e k s hd]
    · have hrow := buryRow_row_other e r s h
      rw [ih _ ((List.mem_cons.1 hk).resolve_left h) (by rw [hrow]; exact hd), hrow, buryRow_ownsCopy]

/-- The items of the rows that a burial frees leave the index. -/
theorem spanIndex_forEach_buryRow (l : List Nat) (s : State) : (State.forEach (State.buryRow e) l s).spanIndex =
    s.spanIndex.filter (fun it => !(decide (it.row ∈ l) && decide ((s.row it.row).phase = .dying) && !s.ownsCopy it.row)) := by
  induction l generalizing s with
  | nil => simp [State.forEach]
  | cons r l ih =>
    rw [State.forEach, ih, buryRow_spanIndex, List.filter_filter]
    refine List.filter_congr fun it _ => ?_
    rw [buryRow_ownsCopy]
    by_cases h : it.row = r
    · have hp := buryRow_phase e r s
      rw [h]
      simp [hp]
    · simp [buryRow_row_other e r s h, h]

theorem watchCount_forEach_buryRow {l : List Nat} (hl : l.Nodup) (s : State) (n : Nat) :
    ((State.forEach (State.buryRow e) l s).link n).watchCount = (s.link n).watchCount -
      (l.map (fun r => if (s.row r).phase = .dying then (s.row r).watch.count n else 0)).sum := by
  induction l generalizing s with
  | nil => rfl
  | cons r l ih =>
    obtain ⟨hr, hl⟩ := List.nodup_cons.1 hl
    have hsame : ∀ k ∈ l, (if ((State.buryRow e r s).row k).phase = .dying then ((State.buryRow e r s).row k).watch.count n else 0) =
        if (s.row k).phase = .dying then (s.row k).watch.count n else 0 :=
      fun k hk => by rw [buryRow_row_other e r s (fun h => hr (h ▸ hk))]
    rw [State.forEach, ih hl, buryRow_watchCount, List.map_congr_left hsame, List.map_cons, List.sum_cons]
    omega

end Sys2Proof.Machine
end

section
/-! PROOF. The switch of a staged set (5.2 to 5.10): every part of the state after it. -/

namespace Sys2Proof.Machine

variable {s t : State} {trig : Trigger} {st : StagedSet}

/-! ### Links that overflow (R147) -/

theorem mem_watchAdd {n m : Nat} (l : List Nat) : n ∈ watchAdd m l ↔ n = m ∨ n ∈ l := by
  induction l with
  | nil => simp [watchAdd]
  | cons k ks ih =>
    rw [watchAdd]
    split
    · simp
    · split
      · next h => simp [h]
      · rw [List.mem_cons, ih, List.mem_cons]
        exact or_left_comm

/-- The links gathered as overflowed are those whose postings overflow. -/
theorem mem_takePostings (ps : List (Nat × Notice)) (fl : List Nat) (s : State) (n : Nat) :
    n ∈ (State.takePostings ps fl s).2 ↔ n ∈ fl ∨ (s.link n).overflowsOn (postingsFor n ps) = true := by
  induction ps generalizing fl s with
  | nil => simp [State.takePostings, postingsFor, Link.overflowsOn]
  | cons mx ps ih =>
    obtain ⟨m, x⟩ := mx
    have hfl : n ∈ (if ((s.link m).takePosting x).2 = true then watchAdd m fl else fl) ↔
        n ∈ fl ∨ n = m ∧ ((s.link m).takePosting x).2 = true := by
      split
      next h => simp [mem_watchAdd, h, or_comm]
      next h => simp [h]
    rw [State.takePostings, ih, hfl]
    by_cases h : n = m
    · subst h
      simp [postingsFor, Link.overflowsOn, or_assoc]
    · simp [postingsFor, h, Ne.symm h]

theorem raiseOverflows_nil (s : State) : s.raiseOverflows [] = s := rfl

/-- One of the links that overflowed is named (log 12). -/
theorem raiseOverflows_eventSet {fl : List Nat} (h : fl ≠ []) (s : State) : ∃ n ∈ fl, (s.raiseOverflows fl).eventSet =
    { s.eventSet with set := s.eventSet.set ||| 0x200#12, noticeOverflow := some n } := by
  match fl with
  | [] => exact absurd rfl h
  | [n] => exact ⟨n, List.mem_singleton.2 rfl, rfl⟩
  | n :: m :: ms =>
    have hlt : Config.overflowPick s.freeTick % (n :: m :: ms).length < (n :: m :: ms).length := Nat.mod_lt _ (Nat.succ_pos _)
    refine ⟨(n :: m :: ms).getD (Config.overflowPick s.freeTick % (n :: m :: ms).length) n, ?_, rfl⟩
    rw [List.getD_eq_getElem _ _ hlt]
    exact List.getElem_mem hlt

/-! ### What postings and frame boundaries leave of a link -/

theorem takePosting_keeps_rest (l : Link) (x : Notice) : (l.takePosting x).1.locked = l.locked ∧
    (l.takePosting x).1.badCount = l.badCount ∧ (l.takePosting x).1.watchCount = l.watchCount := by
  unfold Link.takePosting
  split
  · exact ⟨rfl, rfl, rfl⟩
  · split
    · split <;> exact ⟨rfl, rfl, rfl⟩
    · split <;> exact ⟨rfl, rfl, rfl⟩

theorem afterPostings_keeps_rest (xs : List Notice) (l : Link) : (l.afterPostings xs).locked = l.locked ∧
    (l.afterPostings xs).badCount = l.badCount ∧ (l.afterPostings xs).watchCount = l.watchCount := by
  induction xs generalizing l with
  | nil => exact ⟨rfl, rfl, rfl⟩
  | cons x xs ih =>
    obtain ⟨h1, h2, h3⟩ := ih (l.takePosting x).1
    obtain ⟨k1, k2, k3⟩ := takePosting_keeps_rest l x
    exact ⟨h1.trans k1, h2.trans k2, h3.trans k3⟩

theorem kickAll_link_of {n : Nat} {l : Link} (h : s.link n = l) : SameButSending l (s.kickAll.link n) := h ▸ kickAll_link s n

theorem overflowsOn_sameButWatchCount (xs : List Notice) (l m : Link) (h : SameButWatchCount l m) :
    m.overflowsOn xs = l.overflowsOn xs := by
  induction xs generalizing l m with
  | nil => rfl
  | cons x xs ih =>
    have hflag : (m.takePosting x).2 = (l.takePosting x).2 := by
      unfold SameButWatchCount at h
      rw [h]
      unfold Link.takePosting
      dsimp only
      split
      · rfl
      · split
        · split <;> rfl
        · split <;> rfl
    rw [Link.overflowsOn, Link.overflowsOn, hflag, ih _ _ (takePosting_sameButWatchCount l m h x)]

theorem kick_keep {α : Type} (g : State → α) (hg : ∀ (u : State) n l, g (u.putLink n l) = g u) (n : Nat) (s : State) :
    g (s.kick n) = g s := by
  unfold State.kick
  split
  · split
    · exact hg _ _ _
    · rfl
  · rfl

theorem kickAll_keep {α : Type} (g : State → α) (hg : ∀ (u : State) n l, g (u.putLink n l) = g u) (s : State) : g s.kickAll = g s :=
  forEach_keep g (kick_keep g hg) _ s

/-- A part of the state that lies in the stores is, after a switch, as the switch of the stores leaves it. -/
theorem switchSet_part {α : Type} (g : State → α) (hlink : ∀ (u : State) n l, g (u.putLink n l) = g u)
    (hevent : ∀ (u : State) o, g (u.raise o) = g u) (hfree : ∀ (u : State) n, g (u.setFreeTick n) = g u)
    (hstaged : ∀ (u : State) x, g (u.setStaged x) = g u) (hrec : ∀ (u : State) x, g (u.setSwitchRecord x) = g u) :
    g (s.switchSet trig st) = g ((s.setEpoch (s.epoch + 1)).switchStores (s.epoch + 1) st.items) := by
  unfold State.switchSet
  dsimp only
  rw [kickAll_keep g hlink, hevent, raiseOverflows_keep g hevent hfree, takePostings_keep g hlink, hstaged, hrec]

/-- The stores of a switch as the copies' part and the burials after it. -/
theorem switchSet_buried {α : Type} (g : State → α) (hlink : ∀ (u : State) n l, g (u.putLink n l) = g u)
    (hevent : ∀ (u : State) o, g (u.raise o) = g u) (hfree : ∀ (u : State) n, g (u.setFreeTick n) = g u)
    (hstaged : ∀ (u : State) x, g (u.setStaged x) = g u) (hrec : ∀ (u : State) x, g (u.setSwitchRecord x) = g u)
    (hbury : ∀ r u, g (State.buryRow (s.epoch + 1) r u) = g u) :
    g (s.switchSet trig st) = g ((s.setEpoch (s.epoch + 1)).switchCopies (s.epoch + 1) st.items) := by
  rw [switchSet_part g hlink hevent hfree hstaged hrec, switchStores_eq, forEach_keep g hbury]

theorem switchSet_row (r : Nat) : (s.switchSet trig st).row r =
    ((s.setEpoch (s.epoch + 1)).switchStores (s.epoch + 1) st.items).row r :=
  switchSet_part (fun u => u.row r) (fun _ _ _ => rfl) (fun _ _ => rfl) (fun _ _ => rfl) (fun _ _ => rfl) (fun _ _ => rfl)

theorem switchSet_copy (c : Nat) : (s.switchSet trig st).copy c =
    ((s.setEpoch (s.epoch + 1)).switchStores (s.epoch + 1) st.items).copy c :=
  switchSet_part (fun u => u.copy c) (fun _ _ _ => rfl) (fun _ _ => rfl) (fun _ _ => rfl) (fun _ _ => rfl) (fun _ _ => rfl)

theorem switchSet_slot (k : Nat) : (s.switchSet trig st).slot k =
    ((s.setEpoch (s.epoch + 1)).switchStores (s.epoch + 1) st.items).slot k :=
  switchSet_part (fun u => u.slot k) (fun _ _ _ => rfl) (fun _ _ => rfl) (fun _ _ => rfl) (fun _ _ => rfl) (fun _ _ => rfl)

theorem switchSet_superseded : (s.switchSet trig st).superseded =
    ((s.setEpoch (s.epoch + 1)).switchStores (s.epoch + 1) st.items).superseded :=
  switchSet_part State.superseded (fun _ _ _ => rfl) (fun _ _ => rfl) (fun _ _ => rfl) (fun _ _ => rfl) (fun _ _ => rfl)

theorem switchSet_freeCount : (s.switchSet trig st).freeCount =
    s.freeCount + (s.outgoing st.items).countP (fun c => (s.copy c).unpinned) :=
  (switchSet_buried State.freeCount (fun _ _ _ => rfl) (fun _ _ => rfl) (fun _ _ => rfl) (fun _ _ => rfl) (fun _ _ => rfl)
    (buryRow_freeCount _)).trans (switchCopies_freeCount _ _ _)

theorem switchSet_lowArmed : (s.switchSet trig st).lowArmed =
    if (s.outgoing st.items).any (fun c => (s.copy c).unpinned) = true ∧
      s.params.poolWatermark ≤ s.freeCount + (s.outgoing st.items).countP (fun c => (s.copy c).unpinned) then true else s.lowArmed :=
  (switchSet_buried State.lowArmed (fun _ _ _ => rfl) (fun _ _ => rfl) (fun _ _ => rfl) (fun _ _ => rfl) (fun _ _ => rfl)
    (buryRow_lowArmed _)).trans (switchCopies_lowArmed _ _ _)

theorem switchSet_refCount (h : (s.outgoing st.items).Nodup) (k : Nat) : ((s.switchSet trig st).slot k).refCount =
    (s.slot k).refCount -
      (s.outgoing st.items).countP (fun c => (s.copy c).unpinned && decide ((s.copy c).profile = some k)) := by
  have hslot := switchSet_buried (s := s) (trig := trig) (st := st) (fun u => u.slot k) (fun _ _ _ => rfl) (fun _ _ => rfl)
    (fun _ _ => rfl) (fun _ _ => rfl) (fun _ _ => rfl) (fun r u => by simp [State.slot])
  rw [hslot]
  exact switchCopies_refCount (s.epoch + 1) st.items (s.setEpoch (s.epoch + 1)) h k

theorem switchSet_engine : (s.switchSet trig st).engine = s.engine := by
  have hsup (c : Nat) (u : State) : (State.supersede (s.epoch + 1) c u).engine = u.engine := by
    rw [supersede_eq]
    split <;> simp
  have hbury (r : Nat) (u : State) : (State.buryRow (s.epoch + 1) r u).engine = u.engine := by
    rw [buryRow_eq]
    split
    · split <;> simp
    · rfl
  rw [switchSet_buried State.engine (fun _ _ _ => rfl) (fun _ _ => rfl) (fun _ _ => rfl) (fun _ _ => rfl) (fun _ _ => rfl) hbury,
    switchCopies_keep _ _ _ State.engine (fun _ _ => rfl) hsup]
  exact forEach_keep (f := State.switchRow (s.epoch + 1)) State.engine (fun _ _ => rfl) _ _

theorem switchSet_samePorts : s.SamePorts (s.switchSet trig st) := by
  obtain ⟨h1, h2, h3, h4⟩ :=
    (StoresOnly.switchStores (s.epoch + 1) st.items (s.setEpoch (s.epoch + 1))).samePorts
  exact ⟨(switchSet_part State.host (fun _ _ _ => rfl) (fun _ _ => rfl) (fun _ _ => rfl) (fun _ _ => rfl) (fun _ _ => rfl)).trans h1,
    (switchSet_part State.service (fun _ _ _ => rfl) (fun _ _ => rfl) (fun _ _ => rfl) (fun _ _ => rfl) (fun _ _ => rfl)).trans h2,
    (switchSet_part State.hostMask (fun _ _ _ => rfl) (fun _ _ => rfl) (fun _ _ => rfl) (fun _ _ => rfl) (fun _ _ => rfl)).trans h3,
    (switchSet_part State.serviceMask (fun _ _ _ => rfl) (fun _ _ => rfl) (fun _ _ => rfl) (fun _ _ => rfl) (fun _ _ => rfl)).trans h4⟩

theorem switchSet_switchRecord : (s.switchSet trig st).switchRecord =
    some (switchRecordOf trig st.items (st.items.flatMap (s.postingsOf (s.epoch + 1))).length s
      ((s.setEpoch (s.epoch + 1)).switchStores (s.epoch + 1) st.items)) := by
  unfold State.switchSet
  dsimp only
  rw [kickAll_keep State.switchRecord (fun _ _ _ => rfl), State.raise_switchRecord,
    raiseOverflows_keep State.switchRecord (fun _ _ => rfl) (fun _ _ => rfl), takePostings_keep State.switchRecord (fun _ _ _ => rfl)]
  rfl

/-! ### Rows after a switch -/

/-- A copy after the switch has the owner it had, unless it is freed. -/
theorem switchCopies_copies : ((s.setEpoch (s.epoch + 1)).switchStores (s.epoch + 1) st.items).copies =
    ((s.setEpoch (s.epoch + 1)).switchCopies (s.epoch + 1) st.items).copies := by
  rw [switchStores_eq]
  exact forEach_keep State.copies (buryRow_copies _) _ _

theorem switchSet_row_dying {r : Nat} (hr : r ∈ rowsNamed st.items) (hd : (s.row r).phase = .dying) : (s.switchSet trig st).row r =
    if (s.switchSet trig st).ownsCopy r then
      { s.row r with phase := .dead, live := none, dies := some (s.epoch + 1), watch := [] } else Row.free := by
  have hrow : ((s.setEpoch (s.epoch + 1)).switchCopies (s.epoch + 1) st.items).row r = { s.row r with live := none } := by
    rw [switchCopies_row, if_pos hr]
    change Row.switched (s.epoch + 1) (s.row r) = _
    simp [Row.switched, hd]
  have howns : (s.switchSet trig st).ownsCopy r =
      ((s.setEpoch (s.epoch + 1)).switchCopies (s.epoch + 1) st.items).ownsCopy r := by
    refine ownsCopy_congr ?_ r
    rw [switchSet_part State.copies (fun _ _ _ => rfl) (fun _ _ => rfl) (fun _ _ => rfl) (fun _ _ => rfl) (fun _ _ => rfl),
      switchCopies_copies]
  rw [switchSet_row, switchStores_eq, row_forEach_buryRow_dying _ _ hr (by rw [hrow]; exact hd), hrow, howns]

theorem switchSet_spanIndex : (s.switchSet trig st).spanIndex = s.spanIndex.filter
    (fun it => !(decide (it.row ∈ rowsNamed st.items) && decide ((s.row it.row).phase = .dying) &&
      decide (((s.switchSet trig st).row it.row).phase = .free))) := by
  have hidx := switchSet_part (s := s) (trig := trig) (st := st) State.spanIndex (fun _ _ _ => rfl) (fun _ _ => rfl) (fun _ _ => rfl)
    (fun _ _ => rfl) (fun _ _ => rfl)
  rw [hidx, switchStores_eq, spanIndex_forEach_buryRow, switchCopies_spanIndex]
  refine List.filter_congr fun it _ => ?_
  by_cases hr : it.row ∈ rowsNamed st.items
  · have hrow := switchCopies_row (s.epoch + 1) st.items (s.setEpoch (s.epoch + 1)) it.row
    rw [if_pos hr] at hrow
    have hphase : ((s.setEpoch (s.epoch + 1)).switchCopies (s.epoch + 1) st.items |>.row it.row).phase = .dying ↔
        (s.row it.row).phase = .dying := by
      rw [hrow]
      exact phase_switched_dying _ _
    by_cases hd : (s.row it.row).phase = .dying
    · have howns : (s.switchSet trig st).ownsCopy it.row =
          ((s.setEpoch (s.epoch + 1)).switchCopies (s.epoch + 1) st.items).ownsCopy it.row := by
        refine ownsCopy_congr ?_ _
        rw [switchSet_part State.copies (fun _ _ _ => rfl) (fun _ _ => rfl) (fun _ _ => rfl) (fun _ _ => rfl) (fun _ _ => rfl),
          switchCopies_copies]
      rw [switchSet_row_dying hr hd, howns]
      cases ho : ((s.setEpoch (s.epoch + 1)).switchCopies (s.epoch + 1) st.items).ownsCopy it.row <;>
        simp [hr, hd, hphase.2 hd, Row.free]
    · have hnot : ¬((s.setEpoch (s.epoch + 1)).switchCopies (s.epoch + 1) st.items |>.row it.row).phase = .dying :=
        fun h => hd (hphase.1 h)
      simp [hd, hnot]
  · simp [hr]

/-! ### Links and events after a switch -/

theorem switchSet_link (n : Nat) : ∃ l, SameButWatchCount ((s.link n).afterPostings (s.switchPostings st n)) l ∧
    SameButSending l ((s.switchSet trig st).link n) ∧
    l.watchCount = (((s.setEpoch (s.epoch + 1)).switchStores (s.epoch + 1) st.items).link n).watchCount := by
  have hstores := link_switchStores (s.epoch + 1) st.items (s.setEpoch (s.epoch + 1)) n
  refine ⟨(((s.setEpoch (s.epoch + 1)).switchStores (s.epoch + 1) st.items).link n).afterPostings (s.switchPostings st n),
    afterPostings_sameButWatchCount _ _ _ hstores, ?_, (afterPostings_keeps_rest _ _).2.2⟩
  unfold State.switchSet
  dsimp only
  refine kickAll_link_of ?_
  rw [State.link_raise, raiseOverflows_keep (fun u => u.link n) (fun _ _ => rfl) (fun _ _ => rfl), takePostings_link]
  rfl

/-- The links that overflow in a switch are those whose postings do. -/
theorem mem_switch_overflows (n : Nat) (u : State) (hu : ∀ m, SameButWatchCount (s.link m) (u.link m)) :
    n ∈ (State.takePostings (st.items.flatMap (s.postingsOf (s.epoch + 1))) [] u).2 ↔
      (s.link n).overflowsOn (s.switchPostings st n) = true := by
  rw [mem_takePostings, overflowsOn_sameButWatchCount _ _ _ (hu n)]
  exact ⟨fun h => h.resolve_left (List.not_mem_nil), .inr⟩

theorem switchSet_eventSet : ((∀ n, (s.link n).overflowsOn (s.switchPostings st n) = false) →
      (s.switchSet trig st).eventSet = { s.eventSet with set := s.eventSet.set ||| 0x001#12 }) ∧
    ((∃ n, (s.link n).overflowsOn (s.switchPostings st n) = true) →
      ∃ n, (s.link n).overflowsOn (s.switchPostings st n) = true ∧ (s.switchSet trig st).eventSet =
        { s.eventSet with set := s.eventSet.set ||| 0x201#12, noticeOverflow := some n }) := by
  have hstores : ((s.setEpoch (s.epoch + 1)).switchStores (s.epoch + 1) st.items).eventSet = s.eventSet := by
    rw [switchStores_eq, forEach_keep State.eventSet (buryRow_eventSet _), switchCopies_eventSet]
    rfl
  have hlinks := link_switchStores (s.epoch + 1) st.items (s.setEpoch (s.epoch + 1))
  unfold State.switchSet
  dsimp only
  generalize hu : ((((s.setEpoch (s.epoch + 1)).switchStores (s.epoch + 1) st.items).setSwitchRecord (some (switchRecordOf trig st.items
    (st.items.flatMap (s.postingsOf (s.epoch + 1))).length s ((s.setEpoch (s.epoch + 1)).switchStores (s.epoch + 1) st.items)))).setStaged
    none) = u
  have hmem (n : Nat) : n ∈ (State.takePostings (st.items.flatMap (s.postingsOf (s.epoch + 1))) [] u).2 ↔
      (s.link n).overflowsOn (s.switchPostings st n) = true := by
    refine mem_switch_overflows n u fun m => ?_
    rw [← hu]
    exact hlinks m
  have hev : (State.takePostings (st.items.flatMap (s.postingsOf (s.epoch + 1))) [] u).1.eventSet = s.eventSet := by
    rw [takePostings_keep State.eventSet (fun _ _ _ => rfl), ← hu]
    exact hstores
  generalize (State.takePostings (st.items.flatMap (s.postingsOf (s.epoch + 1))) [] u) = r at hmem hev
  refine ⟨fun hno => ?_, fun ⟨n, hn⟩ => ?_⟩
  · have hnil : r.2 = [] := List.eq_nil_iff_forall_not_mem.2 fun n hn => by
      have ho := (hmem n).1 hn
      rw [hno n] at ho
      cases ho
    rw [kickAll_eventSet, hnil, raiseOverflows_nil]
    change { (r.1.eventSet.withDetail .switched) with set := r.1.eventSet.set ||| 0x001#12 } = _
    rw [hev]
    rfl
  · obtain ⟨m, hm, he⟩ := raiseOverflows_eventSet (List.ne_nil_of_mem ((hmem n).2 hn)) r.1
    refine ⟨m, (hmem m).1 hm, ?_⟩
    rw [kickAll_eventSet]
    change { ((r.1.raiseOverflows r.2).eventSet.withDetail .switched) with
      set := (r.1.raiseOverflows r.2).eventSet.set ||| 0x001#12 } = _
    rw [he, hev]
    simp [EventSet.withDetail, BitVec.or_assoc]

/-! ### The switch whole -/

theorem supersedes_mem_outgoing {items : List ChangeItem} {c : Nat} :
    c ∈ (items.filterMap ChangeItem.row?).filterMap (fun r => (s.row r).supersedes) ↔
      ∃ r, namesRow items r ∧ (s.row r).supersedes = some c := by
  rw [List.mem_filterMap]
  exact exists_congr fun r => and_congr_left' (mem_rows_named items r)

/-- A copy that the switch does not supersede. -/
theorem switchSet_copy_kept {c : Nat} (h : ∀ r, namesRow st.items r → (s.row r).supersedes ≠ some c) :
    (s.switchSet trig st).copy c = (s.copy c).activate (s.epoch + 1) := by
  rw [switchSet_copy, copy_switchStores, if_neg]
  · rfl
  · intro hc
    obtain ⟨r, hr, hs⟩ := supersedes_mem_outgoing.1 hc
    exact h r hr hs

theorem switchSet_copy_superseded {r c : Nat} (hr : namesRow st.items r) (hs : (s.row r).supersedes = some c) :
    (s.switchSet trig st).copy c = ((s.copy c).activate (s.epoch + 1)).afterSupersede (s.epoch + 1) := by
  rw [switchSet_copy, copy_switchStores]
  exact if_pos (supersedes_mem_outgoing.2 ⟨r, hr, hs⟩)

/-- A copy the switch supersedes is FREE after it just when it was unpinned. -/
theorem switchSet_copy_outgoing {c : Nat} (hc : c ∈ s.outgoing st.items) :
    decide (((s.switchSet trig st).copy c).state = .free) = (s.copy c).unpinned := by
  obtain ⟨r, hr, hs⟩ := supersedes_mem_outgoing.1 hc
  rw [switchSet_copy_superseded hr hs, Copy.afterSupersede]
  change decide ((if ((s.copy c).activate (s.epoch + 1)).unpinned then _ else _ : Copy).state = .free) = _
  rw [unpinned_activate]
  cases (s.copy c).unpinned <;> rfl

theorem activate_of_staged {x : Copy} {e : Nat} (h : x.state = .staged) : x.activate e = { x with state := .live, activated := some e } :=
  if_pos h

theorem activate_of_not_staged {x : Copy} {e : Nat} (h : x.state ≠ .staged) : x.activate e = x := if_neg h

section
variable {l m : Link}

theorem SameButSending.watchCount (h : SameButSending l m) : m.watchCount = l.watchCount := by rw [h]

theorem SameButSending.queues (h : SameButSending l m) : m.notices = l.notices ∧ m.resyncFlag = l.resyncFlag ∧
    m.resyncNumber = l.resyncNumber ∧ m.sendCount = l.sendCount ∧ m.timer = l.timer := by
  rw [h]
  exact ⟨rfl, rfl, rfl, rfl, rfl⟩

theorem SameButSending.controller (h : SameButSending l m) : m.state = l.state ∧ m.rx = l.rx ∧ m.errors = l.errors ∧
    m.locked = l.locked ∧ m.badCount = l.badCount ∧ m.prompts = l.prompts ∧ m.welcome = l.welcome := by
  rw [h]
  exact ⟨rfl, rfl, rfl, rfl, rfl, rfl, rfl⟩

theorem SameButWatchCount.queues (h : SameButWatchCount l m) : m.notices = l.notices ∧ m.resyncFlag = l.resyncFlag ∧
    m.resyncNumber = l.resyncNumber ∧ m.sendCount = l.sendCount ∧ m.timer = l.timer := by
  rw [h]
  exact ⟨rfl, rfl, rfl, rfl, rfl⟩

theorem SameButWatchCount.controller (h : SameButWatchCount l m) : m.state = l.state ∧ m.rx = l.rx ∧ m.errors = l.errors ∧
    m.locked = l.locked ∧ m.badCount = l.badCount ∧ m.prompts = l.prompts ∧ m.welcome = l.welcome := by
  rw [h]
  exact ⟨rfl, rfl, rfl, rfl, rfl, rfl, rfl⟩

end

theorem switchSet_queues (n : Nat) : ((s.switchSet trig st).link n).notices = ((s.link n).afterPostings (s.switchPostings st n)).notices ∧
    ((s.switchSet trig st).link n).resyncFlag = ((s.link n).afterPostings (s.switchPostings st n)).resyncFlag ∧
    ((s.switchSet trig st).link n).resyncNumber = ((s.link n).afterPostings (s.switchPostings st n)).resyncNumber ∧
    ((s.switchSet trig st).link n).sendCount = ((s.link n).afterPostings (s.switchPostings st n)).sendCount ∧
    ((s.switchSet trig st).link n).timer = ((s.link n).afterPostings (s.switchPostings st n)).timer := by
  obtain ⟨l, hcount, hsend, -⟩ := switchSet_link (s := s) (trig := trig) (st := st) n
  obtain ⟨h1, h2, h3, h4, h5⟩ := hcount.queues
  obtain ⟨k1, k2, k3, k4, k5⟩ := hsend.queues
  exact ⟨k1.trans h1, k2.trans h2, k3.trans h3, k4.trans h4, k5.trans h5⟩

theorem switchSet_controller (n : Nat) : ((s.switchSet trig st).link n).state = (s.link n).state ∧
    ((s.switchSet trig st).link n).rx = (s.link n).rx ∧ ((s.switchSet trig st).link n).errors = (s.link n).errors ∧
    ((s.switchSet trig st).link n).locked = (s.link n).locked ∧ ((s.switchSet trig st).link n).badCount = (s.link n).badCount ∧
    ((s.switchSet trig st).link n).prompts = (s.link n).prompts ∧ ((s.switchSet trig st).link n).welcome = (s.link n).welcome := by
  obtain ⟨l, hcount, hsend, -⟩ := switchSet_link (s := s) (trig := trig) (st := st) n
  obtain ⟨g1, g2, g3, g4, g5⟩ := afterPostings_keeps (s.switchPostings st n) (s.link n)
  obtain ⟨g6, g7, -⟩ := afterPostings_keeps_rest (s.switchPostings st n) (s.link n)
  obtain ⟨h1, h2, h3, h4, h5, h6, h7⟩ := hcount.controller
  obtain ⟨k1, k2, k3, k4, k5, k6, k7⟩ := hsend.controller
  exact ⟨k1.trans (h1.trans g1), k2.trans (h2.trans g2), k3.trans (h3.trans g3), k4.trans (h4.trans g6), k5.trans (h5.trans g7),
    k6.trans (h6.trans g4), k7.trans (h7.trans g5)⟩

theorem watch_switched (e : Nat) (x : Row) : (x.switched e).watch = x.watch := by
  unfold Row.switched
  cases x.phase <;> simp
  split <;> rfl

theorem switchSet_watchCount (hn : (rowsNamed st.items).Nodup) (n : Nat) : ((s.switchSet trig st).link n).watchCount =
    (s.link n).watchCount -
      ((rowsNamed st.items).map (fun r => if (s.row r).phase = .dying then (s.row r).watch.count n else 0)).sum := by
  obtain ⟨l, -, hsend, hw⟩ := switchSet_link (s := s) (trig := trig) (st := st) n
  rw [hsend.watchCount, hw, switchStores_eq, watchCount_forEach_buryRow hn]
  have hlink : ((s.setEpoch (s.epoch + 1)).switchCopies (s.epoch + 1) st.items).link n = s.link n :=
    congrArg (fun t => Table.read Link.reset t n) (switchCopies_links (s.epoch + 1) st.items (s.setEpoch (s.epoch + 1)))
  have hsum : (rowsNamed st.items).map
        (fun r => if (((s.setEpoch (s.epoch + 1)).switchCopies (s.epoch + 1) st.items).row r).phase = .dying
          then (((s.setEpoch (s.epoch + 1)).switchCopies (s.epoch + 1) st.items).row r).watch.count n else 0) =
      (rowsNamed st.items).map (fun r => if (s.row r).phase = .dying then (s.row r).watch.count n else 0) := by
    refine List.map_congr_left fun r hr => ?_
    rw [switchCopies_row, if_pos hr, watch_switched]
    exact if_congr (phase_switched_dying _ _) rfl rfl
  rw [hlink, hsum]

theorem switchSet_switchedTo (trig : Trigger) (st : StagedSet) (s : State) : s.SwitchedTo trig st (s.switchSet trig st) := by
  obtain ⟨hepoch, hstaged, hsession, hop, hsnap, hflash, hmarker, hparams, hpending⟩ := switchSet_fields trig st s
  obtain ⟨hquiet, hflood⟩ := switchSet_eventSet (s := s) (trig := trig) (st := st)
  have hcount : ((st.items.filterMap ChangeItem.row?).filterMap (fun r => (s.row r).supersedes)).countP
      (fun c => decide (((((s.setEpoch (s.epoch + 1)).switchStores (s.epoch + 1) st.items)).copy c).state = .free)) =
        (s.outgoing st.items).countP (fun c => (s.copy c).unpinned) := by
    refine List.countP_congr fun c hc => ?_
    rw [← switchSet_copy (trig := trig), switchSet_copy_outgoing hc]
  have hdead : (rowsNamed st.items).countP (fun r => decide ((s.row r).phase = .dying) &&
        decide (((((s.setEpoch (s.epoch + 1)).switchStores (s.epoch + 1) st.items)).row r).phase = .dead)) =
      (rowsNamed st.items).countP (fun r => decide ((s.row r).phase = .dying) &&
        decide (((s.switchSet trig st).row r).phase = .dead)) := by
    refine List.countP_congr fun r _ => ?_
    rw [← switchSet_row (trig := trig)]
  have hslot (k : Nat) := slot_switchStores (s.epoch + 1) st.items (s.setEpoch (s.epoch + 1)) k
  have hrow (r : Nat) := row_switchStores (s.epoch + 1) st.items (s.setEpoch (s.epoch + 1)) r
  refine
    { epoch := hepoch, staged := hstaged, raised := ?_, events := hquiet, overflow := hflood, slots := fun k hk => ?_
      otherSlots := fun k hk => ?_, activated := fun c hc hs => ?_, superseded := fun r c hr hs hc => ?_
      otherCopies := fun c hc hs => ?_, list := ?_, madeLive := fun r hr hp => ?_, amended := fun r c hr hp hc => ?_
      retired := fun r hr hp => ⟨fun ho => ?_, fun ho => ?_⟩, otherRows := fun r hr => ?_, record := ?_
      index := switchSet_spanIndex, references := fun hn k => switchSet_refCount hn k, armed := ?_
      watchCounts := fun hn n => ?_, queues := fun n => ?_, links := fun n => ?_, session := hsession, markerCount := hmarker
      opState := hop, params := hparams, snap := hsnap, flash := hflash, engine := switchSet_engine, pending := hpending
      ports := switchSet_samePorts }
  · by_cases h : ∃ n, (s.link n).overflowsOn (s.switchPostings st n) = true
    · obtain ⟨n, -, he⟩ := hflood h
      rw [he]
      simp
    · rw [hquiet fun n => Bool.eq_false_iff.2 fun hn => h ⟨n, hn⟩]
      simp
  · have hact : (s.slot k).activate (s.epoch + 1) = { s.slot k with state := .active, activated := some (s.epoch + 1) } := if_pos hk
    obtain ⟨h1, h2, h3, -⟩ := hslot k
    rw [switchSet_slot, h1, h2, h3]
    change ((s.slot k).activate (s.epoch + 1)).state = _ ∧ ((s.slot k).activate (s.epoch + 1)).activated = _ ∧
      ((s.slot k).activate (s.epoch + 1)).points = _
    rw [hact]
    exact ⟨rfl, rfl, rfl⟩
  · have hact : (s.slot k).activate (s.epoch + 1) = s.slot k := if_neg hk
    obtain ⟨h1, h2, h3, h4⟩ := hslot k
    rw [switchSet_slot, h1, h2, h3, h4]
    change ((s.slot k).activate (s.epoch + 1)).state = _ ∧ ((s.slot k).activate (s.epoch + 1)).activated = _ ∧
      ((s.slot k).activate (s.epoch + 1)).points = _ ∧ ((s.slot k).activate (s.epoch + 1)).readerCount = _
    rw [hact]
    exact ⟨rfl, rfl, rfl, rfl⟩
  · rw [switchSet_copy_kept hs, activate_of_staged hc]
  · rw [switchSet_copy_superseded hr hs, activate_of_not_staged (by rw [hc]; decide), Copy.afterSupersede]
    have hpin : ({ s.copy c with state := .superseded, supersededAt := some (s.epoch + 1) } : Copy).unpinned = true ↔
        (s.copy c).fetchPins = 0 ∧ (s.copy c).snapPin = false := by simp [Copy.unpinned]
    by_cases hu : (s.copy c).fetchPins = 0 ∧ (s.copy c).snapPin = false
    · rw [if_pos (hpin.2 hu), if_pos hu]
    · rw [if_neg (fun h => hu (hpin.1 h)), if_neg hu]
  · rw [switchSet_copy_kept hs, activate_of_not_staged hc]
  · obtain ⟨base, tail, h1, h2, h3, h4⟩ := superseded_switchStores (s.epoch + 1) st.items (s.setEpoch (s.epoch + 1))
    refine ⟨base, tail, switchSet_superseded.trans h1, h2, h3, fun c => ?_⟩
    rw [switchSet_copy]
    exact h4 c
  · rw [switchSet_row, (hrow r).2.1 hr (by change (s.row r).phase ≠ _; rw [hp]; decide)]
    change (s.row r).switched (s.epoch + 1) = _
    rw [Row.switched, hp]
  · rw [switchSet_row, (hrow r).2.1 hr (by change (s.row r).phase ≠ _; rw [hp]; decide)]
    change (s.row r).switched (s.epoch + 1) = _
    simp [Row.switched, hp, hc]
  · rw [switchSet_row_dying ((mem_rows_named _ _).2 hr) hp, if_pos ((ownsCopy_iff _ _).2 ho)]
  · rw [switchSet_row_dying ((mem_rows_named _ _).2 hr) hp, if_neg (fun h => ?_)]
    obtain ⟨c, hc⟩ := (ownsCopy_iff _ _).1 h
    exact ho c hc
  · rw [switchSet_row, (hrow r).1 hr]
    rfl
  · refine ⟨_, switchSet_switchRecord, rfl, rfl, rfl, rfl, rfl, rfl, rfl, rfl, hdead, hcount, ?_⟩
    rw [switchSet_freeCount]
    exact congrArg _ hcount.symm
  · rw [switchSet_lowArmed, switchSet_freeCount]
  · exact switchSet_watchCount hn n
  · exact ⟨_, rfl, switchSet_queues n⟩
  · exact switchSet_controller n

/-! ### SWITCH and the marker -/

theorem exec_switch {p : Port} (seq : Half) (h : s.Ready p .switch) :
    exec (.switch p seq []) s = .next (s.takeSwitch.1.respond p seq s.takeSwitch.2) :=
  exec_plain (args := []) seq h (by decide) rfl (Nat.zero_le _) rfl rfl

/-- SWITCH of a waiting set answers with the record that the switch wrote (R91). -/
theorem takeSwitch_switches {st : StagedSet} (hw : s.opState.working = true) (hst : s.staged = some st) (he : s.epoch < 4294967295) :
    ∃ t x, s.takeSwitch = (t, { code := .done, data := [numWord (s.epoch + 1),
        packWord [(x.madeLive, 0), (x.amended, 8), (x.retired, 16), (x.leftDead, 24)],
        packWord [(x.profilesActivated, 0), (x.copiesFreed, 8)], packWord [(x.postings, 0)]] }) ∧
      t.switchRecord = some x ∧ s.SwitchedTo .command st t := by
  have hto := switchSet_switchedTo .command st s
  obtain ⟨x, hx, hxe, -⟩ := hto.record
  refine ⟨s.switchSet .command st, x, ?_, hx, hto⟩
  have hlim : ¬Config.maxU32 ≤ s.epoch := Nat.not_le.2 he
  rw [State.takeSwitch, if_neg (by simp [hw]), hst]
  dsimp only
  rw [if_neg hlim, hx, ← hxe]
  rfl

theorem exec_markerArrival_waits {st : StagedSet} (h : s.staged = some st)
    (hc : ¬(st.policy = .atMarker ∧ s.params.markerEnable = true ∧ s.epoch < Config.maxU32)) :
    exec .markerArrival s = .next (s.setMarkerCount ((s.markerCount + 1) % 4294967296)) := by
  change Host.Outcome.next _ = _
  rw [h]
  exact congrArg _ (if_neg hc)

/-- Settles O17: the checks in their order, then the switch as it leaves every part. -/
theorem stagedSetSwitches : Obligations.StagedSetSwitches := by
  refine ⟨fun p seq s h => ⟨fun hw => ?_, fun hw hn => ?_, fun st hw hst => ⟨fun he => ?_, fun he => ?_⟩⟩,
    fun s => ⟨fun st hst hp hm he => ?_, fun hno => ?_⟩⟩
  · rw [exec_switch seq h, State.takeSwitch, if_pos hw]
    rfl
  · rw [exec_switch seq h, State.takeSwitch, if_neg (by simp [hw]), hn]
    rfl
  · obtain ⟨t, x, htake, hx, hto⟩ := takeSwitch_switches hw hst he
    rw [exec_switch seq h, htake]
    exact ⟨t, x, rfl, hx, hto⟩
  · rw [exec_switch seq h, State.takeSwitch, if_neg (by simp [hw]), hst]
    dsimp only
    rw [if_pos (show Config.maxU32 ≤ s.epoch from he)]
    rfl
  · refine ⟨_, ?_, switchSet_switchedTo .marker st _⟩
    change Host.Outcome.next _ = _
    rw [hst]
    exact congrArg _ (if_pos ⟨hp, hm, he⟩)
  · cases hst : s.staged with
    | none =>
      change Host.Outcome.next _ = _
      rw [hst]
    | some st =>
      refine exec_markerArrival_waits hst ?_
      rintro ⟨hp, hm, he⟩
      obtain h | h | h := hno st hst
      · rw [h] at hp
        cases hp
      · rw [h] at hm
        cases hm
      · exact absurd he (Nat.not_lt.2 h)

end Sys2Proof.Machine
end

section
/-! PROOF. Releases of pins and readers (2.5, 3.6, 6.5, 9.4): what freeing superseded copies leaves of pool, directory, profile table
and links, composed step by step. -/

namespace Sys2Proof.Machine

variable {s t u : State}

/-! ### Copies freed by releases -/

/-- `t` is `s` after releases that freed the copies `freed` picks and otherwise touched pins and reader counts only (R18, R36 to R39,
R48, R53). -/
structure State.Settled (s t : State) (freed : Nat → Bool) : Prop where
  kept : ∀ c, freed c = false → t.copy c = { s.copy c with fetchPins := (t.copy c).fetchPins, snapPin := (t.copy c).snapPin }
  pins : ∀ c, (t.copy c).fetchPins ≤ (s.copy c).fetchPins
  snapPins : ∀ c, (t.copy c).snapPin = true → (s.copy c).snapPin = true
  gone : ∀ c, freed c = true → (s.copy c).state = .superseded ∧ t.copy c = Copy.free
  rows : ∀ r, s.RowSettled t freed r (s.row r)
  list : t.superseded = s.superseded.filter (fun c => !freed c)
  counted : ∃ cs : List Nat, cs.Nodup ∧ (∀ c, c ∈ cs ↔ freed c = true) ∧ t.freeCount = s.freeCount + cs.length ∧
    ∀ k, (t.slot k).refCount = (s.slot k).refCount - cs.countP (fun c => decide ((s.copy c).profile = some k))
  slots : ∀ k, t.slot k = { s.slot k with refCount := (t.slot k).refCount, readerCount := (t.slot k).readerCount }
  links : ∀ n, t.link n = { s.link n with watchCount := (t.link n).watchCount }
  watchCounts : s.DeadUnwatched → ∀ n, t.link n = s.link n
  engine : t.engine = s.engine
  events : t.eventSet = s.eventSet
  outside : s.SameOutside t

theorem rowSettled_of_keep {freed : Nat → Bool} {r : Nat} (hno : ∀ c, freed c = true → (s.copy c).owner ≠ some r)
    (hrow : t.row r = s.row r) (hidx : ∀ it, it.row = r → (it ∈ t.spanIndex ↔ it ∈ s.spanIndex)) :
    s.RowSettled t freed r (s.row r) :=
  ⟨fun ⟨_, ⟨c, hc, ho⟩, _⟩ => absurd ho (hno c hc), fun _ => ⟨hrow, hidx⟩⟩

theorem State.SameOutside.refl (s : State) : s.SameOutside s := ⟨rfl, rfl, rfl, rfl, rfl, rfl, rfl, rfl, rfl, rfl, rfl, rfl, rfl, rfl, rfl⟩

theorem State.SameOutside.trans (h : s.SameOutside t) (k : t.SameOutside u) : s.SameOutside u :=
  ⟨k.pending.trans h.pending, k.session.trans h.session, k.epoch.trans h.epoch, k.staged.trans h.staged,
    k.markerCount.trans h.markerCount, k.switchRecord.trans h.switchRecord, k.snap.trans h.snap, k.flash.trans h.flash,
    k.opState.trans h.opState, k.params.trans h.params, k.freeTick.trans h.freeTick, h.ports.trans k.ports⟩

/-- A change of pins alone frees nothing. -/
theorem settled_putCopy (s : State) (c : Nat) {p : Nat} {b : Bool} (hp : p ≤ (s.copy c).fetchPins)
    (hb : b = true → (s.copy c).snapPin = true) :
    s.Settled (s.putCopy c { s.copy c with fetchPins := p, snapPin := b }) (fun _ => false) where
  kept d _ := by by_cases hd : d = c <;> simp [hd]
  pins d := by by_cases hd : d = c <;> simp [hd, hp]
  snapPins d := by
    by_cases hd : d = c
    · simpa [hd] using hb
    · simp [hd]
  gone _ h := nomatch h
  rows _ := rowSettled_of_keep (fun _ h => nomatch h) rfl (fun _ _ => Iff.rfl)
  list := by simp
  counted := ⟨[], List.nodup_nil, by simp, rfl, fun _ => rfl⟩
  slots _ := rfl
  links _ := rfl
  watchCounts _ _ := rfl
  engine := rfl
  events := rfl
  outside := (StoresOnly.copy s c _).sameOutside

theorem settled_refl (s : State) : s.Settled s (fun _ => false) where
  kept _ _ := rfl
  pins _ := Nat.le_refl _
  snapPins _ h := h
  gone _ h := nomatch h
  rows _ := rowSettled_of_keep (fun _ h => nomatch h) rfl (fun _ _ => Iff.rfl)
  list := by simp
  counted := ⟨[], List.nodup_nil, by simp, rfl, fun _ => rfl⟩
  slots _ := rfl
  links _ := rfl
  watchCounts _ _ := rfl
  engine := rfl
  events := rfl
  outside := .refl s

namespace State.Settled

variable {f g : Nat → Bool}

/-- A copy owned after the releases was owned by the same row before them. -/
theorem owner_of_owned (h : s.Settled t f) {c r : Nat} (ho : (t.copy c).owner = some r) : f c = false ∧ (s.copy c).owner = some r := by
  cases hf : f c with
  | true =>
    rw [(h.gone c hf).2] at ho
    cases ho
  | false =>
    rw [h.kept c hf] at ho
    exact ⟨rfl, ho⟩

theorem owner_of_kept (h : s.Settled t f) {c : Nat} (hf : f c = false) : (t.copy c).owner = (s.copy c).owner := by rw [h.kept c hf]

/-- A copy freed later was not freed before. -/
theorem not_freed_twice (h : s.Settled t f) (k : t.Settled u g) {c : Nat} (hg : g c = true) : f c = false := by
  cases hf : f c with
  | true =>
    have hs := (k.gone c hg).1
    rw [(h.gone c hf).2] at hs
    cases hs
  | false => rfl

theorem deadUnwatched (h : s.Settled t f) (hd : s.DeadUnwatched) : t.DeadUnwatched := by
  intro r hr
  by_cases hc : (s.row r).phase = .dead ∧ (∃ c, f c = true ∧ (s.copy c).owner = some r) ∧ ∀ c, (t.copy c).owner ≠ some r
  · rw [((h.rows r).1 hc).1]
    rfl
  · have hrow := ((h.rows r).2 hc).1
    rw [hrow] at hr ⊢
    exact hd r hr

/-- What becomes of a row composes: it settles at the first point where no copy of it is left. -/
theorem rows_trans (h : s.Settled t f) (k : t.Settled u g) (r : Nat) : s.RowSettled u (fun c => f c || g c) r (s.row r) := by
  by_cases h1 : (s.row r).phase = .dead ∧ (∃ c, f c = true ∧ (s.copy c).owner = some r) ∧ ∀ c, (t.copy c).owner ≠ some r
  · obtain ⟨hrow, hidx⟩ := (h.rows r).1 h1
    have hfree : ¬((t.row r).phase = .dead ∧ (∃ c, g c = true ∧ (t.copy c).owner = some r) ∧ ∀ c, (u.copy c).owner ≠ some r) := by
      rw [hrow]
      exact fun hd => nomatch hd.1
    obtain ⟨hrow', hidx'⟩ := (k.rows r).2 hfree
    obtain ⟨hdead, ⟨c, hc, ho⟩, hnone⟩ := h1
    refine ⟨fun _ => ⟨hrow'.trans hrow, fun it hit hr => ?_⟩, fun hn => absurd ⟨hdead, ⟨c, by simp [hc], ho⟩, fun d hd => ?_⟩ hn⟩
    · exact hidx it ((hidx' it hr).1 hit) hr
    · exact hnone d (k.owner_of_owned hd).2
  · obtain ⟨hrow, hidx⟩ := (h.rows r).2 h1
    by_cases h2 : (t.row r).phase = .dead ∧ (∃ c, g c = true ∧ (t.copy c).owner = some r) ∧ ∀ c, (u.copy c).owner ≠ some r
    · obtain ⟨hrow', hidx'⟩ := (k.rows r).1 h2
      obtain ⟨hdead, ⟨c, hc, ho⟩, hnone⟩ := h2
      rw [hrow] at hdead
      exact ⟨fun _ => ⟨hrow', hidx'⟩, fun hn => absurd ⟨hdead, ⟨c, by simp [hc], (h.owner_of_owned ho).2⟩, hnone⟩ hn⟩
    · obtain ⟨hrow', hidx'⟩ := (k.rows r).2 h2
      refine ⟨fun ⟨hdead, ⟨c, hc, ho⟩, hnone⟩ => ?_, fun _ => ⟨hrow'.trans hrow, fun it hr => (hidx' it hr).trans (hidx it hr)⟩⟩
      have hnot2 : ¬∃ c, g c = true ∧ (t.copy c).owner = some r := fun he => h2 ⟨by rw [hrow, hdead], he, hnone⟩
      have hleft : ∀ d, (t.copy d).owner ≠ some r := fun d hd => by
        cases hg : g d with
        | true => exact hnot2 ⟨d, hg, hd⟩
        | false => exact hnone d ((k.owner_of_kept hg).trans hd)
      obtain hf | hg := Bool.or_eq_true_iff.1 hc
      · exact absurd ⟨hdead, ⟨c, hf, ho⟩, hleft⟩ h1
      · exact absurd ((h.owner_of_kept (h.not_freed_twice k hg)).trans ho) (hleft c)

theorem trans (h : s.Settled t f) (k : t.Settled u g) : s.Settled u (fun c => f c || g c) where
  kept c hc := by
    obtain ⟨hf, hg⟩ := Bool.or_eq_false_iff.1 hc
    rw [k.kept c hg, h.kept c hf]
  pins c := (k.pins c).trans (h.pins c)
  snapPins c hc := h.snapPins c (k.snapPins c hc)
  gone c hc := by
    cases hf : f c with
    | true =>
      have hg : g c = false := Bool.eq_false_iff.2 fun hg => by simp [h.not_freed_twice k hg] at hf
      have hfree := (h.gone c hf).2
      have hpins := k.pins c
      have hsnap := k.snapPins c
      have hkept := k.kept c hg
      rw [hfree] at hpins hsnap hkept
      refine ⟨(h.gone c hf).1, hkept.trans ?_⟩
      rw [Nat.le_zero.1 hpins, Bool.eq_false_iff.2 fun hs => nomatch hsnap hs]
      rfl
    | false =>
      rw [hf, Bool.false_or] at hc
      have hs := (k.gone c hc).1
      rw [h.kept c hf] at hs
      exact ⟨hs, (k.gone c hc).2⟩
  rows := h.rows_trans k
  list := by
    rw [k.list, h.list, List.filter_filter]
    exact List.filter_congr fun c _ => by rw [Bool.not_or, Bool.and_comm]
  counted := by
    obtain ⟨cs, hcs, hmem, hfree, href⟩ := h.counted
    obtain ⟨ds, hds, hmem', hfree', href'⟩ := k.counted
    have hdisj : ∀ c ∈ ds, c ∉ cs := fun c hd hc => by
      have hf := h.not_freed_twice k ((hmem' c).1 hd)
      rw [(hmem c).1 hc] at hf
      cases hf
    refine ⟨cs ++ ds, List.nodup_append.2 ⟨hcs, hds, fun a ha b hb hab => hdisj b hb (hab ▸ ha)⟩, fun c => ?_, ?_, fun j => ?_⟩
    · rw [List.mem_append, hmem, hmem', Bool.or_eq_true]
    · rw [hfree', hfree, List.length_append, Nat.add_assoc]
    · have hsame : ds.countP (fun c => decide ((t.copy c).profile = some j)) = ds.countP (fun c => decide ((s.copy c).profile = some j)) :=
        List.countP_congr fun c hc => by
          rw [h.kept c (h.not_freed_twice k ((hmem' c).1 hc))]
          rfl
      rw [href', href, List.countP_append, hsame, Nat.sub_sub]
  slots j := by rw [k.slots j, h.slots j]
  links n := by rw [k.links n, h.links n]
  watchCounts hd n := (k.watchCounts (h.deadUnwatched hd) n).trans (h.watchCounts hd n)
  engine := k.engine.trans h.engine
  events := k.events.trans h.events
  outside := h.outside.trans k.outside

end State.Settled

theorem State.Settled.congr {f g : Nat → Bool} (h : s.Settled t f) (hfg : ∀ c, f c = g c) : s.Settled t g := funext hfg ▸ h

/-! ### One copy settled (R38, R18) -/

theorem reapRow_eq (r : Nat) (s : State) :
    s.reapRow r = if (s.row r).phase = .dead ∧ s.ownsCopy r = false then s.freeRow r else s := rfl

@[simp] theorem reapRow_copies (r : Nat) (s : State) : (s.reapRow r).copies = s.copies := by
  rw [reapRow_eq]
  split <;> simp

@[simp] theorem reapRow_copy (r : Nat) (s : State) (c : Nat) : (s.reapRow r).copy c = s.copy c := by simp [State.copy]

@[simp] theorem reapRow_slots (r : Nat) (s : State) : (s.reapRow r).slots = s.slots := by
  rw [reapRow_eq]
  split <;> simp

@[simp] theorem reapRow_slot (r : Nat) (s : State) (k : Nat) : (s.reapRow r).slot k = s.slot k := by simp [State.slot]

@[simp] theorem reapRow_superseded (r : Nat) (s : State) : (s.reapRow r).superseded = s.superseded := by
  rw [reapRow_eq]
  split <;> simp

@[simp] theorem reapRow_freeCount (r : Nat) (s : State) : (s.reapRow r).freeCount = s.freeCount := by
  rw [reapRow_eq]
  split <;> simp

@[simp] theorem reapRow_engine (r : Nat) (s : State) : (s.reapRow r).engine = s.engine := by
  rw [reapRow_eq]
  split <;> simp

@[simp] theorem reapRow_eventSet (r : Nat) (s : State) : (s.reapRow r).eventSet = s.eventSet := by
  rw [reapRow_eq]
  split <;> simp

theorem reapRow_link (r : Nat) (s : State) (n : Nat) : SameButWatchCount (s.link n) ((s.reapRow r).link n) := by
  rw [reapRow_eq]
  split
  · exact freeRow_link r s n
  · rfl

theorem reapRow_link_unwatched (r : Nat) (h : s.DeadUnwatched) (n : Nat) : (s.reapRow r).link n = s.link n := by
  rw [reapRow_eq]
  split
  next hc => exact freeRow_link_unwatched s r (h r hc.1) n
  next => rfl

/-- The copy is one that settling frees. -/
def Copy.leftOver (x : Copy) : Bool := decide (x.state = .superseded) && x.unpinned

theorem settleCopy_kept {c : Nat} (h : (s.copy c).leftOver = false) : s.settleCopy c = s := by
  rw [State.settleCopy, if_neg]
  rintro ⟨h1, h2⟩
  simp [Copy.leftOver, h1, h2] at h

theorem settleCopy_freed {c : Nat} (h : (s.copy c).leftOver = true) : s.settleCopy c = match (s.copy c).owner with
    | none => s.freeCopy c
    | some r => (s.freeCopy c).reapRow r := by
  rw [Copy.leftOver, Bool.and_eq_true, decide_eq_true_eq] at h
  rw [State.settleCopy, if_pos h] <;> rfl

/-- A freed copy with the row it may leave without any. -/
theorem settled_freeCopy_reapRow {c r : Nat} (hs : (s.copy c).state = .superseded) (ho : (s.copy c).owner = some r) :
    s.Settled ((s.freeCopy c).reapRow r) (fun d => decide (d = c)) where
  kept d hd := by simp [of_decide_eq_false hd]
  pins d := by by_cases hd : d = c <;> simp [hd, Copy.free]
  snapPins d := by by_cases hd : d = c <;> simp [hd, Copy.free]
  gone d hd := by
    obtain rfl := of_decide_eq_true hd
    exact ⟨hs, by simp⟩
  rows k := by
    by_cases hk : k = r
    · subst hk
      have howns : ((s.freeCopy c).ownsCopy k = false) ↔ ∀ d, (((s.freeCopy c).reapRow k).copy d).owner ≠ some k := by
        rw [← Bool.not_eq_true, ownsCopy_iff, not_exists]
        simp only [reapRow_copy]
      rw [reapRow_eq] at howns ⊢
      by_cases hc : ((s.freeCopy c).row k).phase = .dead ∧ (s.freeCopy c).ownsCopy k = false
      · rw [if_pos hc] at howns ⊢
        refine ⟨fun _ => ⟨by simp [freeRow_row], fun it hit => ?_⟩, fun hn => absurd ⟨by simpa using hc.1, ⟨c, by simp, ho⟩, howns.1 hc.2⟩ hn⟩
        rw [freeRow_spanIndex, List.mem_filter] at hit
        exact of_decide_eq_true hit.2
      · rw [if_neg hc] at howns ⊢
        exact ⟨fun hd => absurd ⟨by simpa using hd.1, howns.2 hd.2.2⟩ hc, fun _ => ⟨by simp, fun _ _ => by simp⟩⟩
    · refine rowSettled_of_keep (fun d hd he => ?_) ?_ fun it hit => ?_
      · obtain rfl := of_decide_eq_true hd
        exact hk (Option.some.inj (he.symm.trans ho))
      · rw [reapRow_eq]
        split <;> simp [freeRow_row, hk]
      · rw [reapRow_eq]
        split <;> simp [hit, hk]
  list := by simp
  counted := by
    refine ⟨[c], List.nodup_singleton c, by simp, by simp, fun k => ?_⟩
    by_cases hk : (s.copy c).profile = some k <;> simp [freeCopy_slots, hk]
  slots k := by
    simp only [reapRow_slot, freeCopy_slots]
    split <;> rfl
  links n := by
    have h := reapRow_link r (s.freeCopy c) n
    rw [freeCopy_link] at h
    exact h
  watchCounts hd n := by
    have hd' : (s.freeCopy c).DeadUnwatched := fun k hk => by simpa using hd k (by simpa using hk)
    rw [reapRow_link_unwatched r hd', freeCopy_link]
  engine := by simp
  events := by simp
  outside := ((StoresOnly.freeCopy c s).trans (StoresOnly.reapRow r _)).sameOutside

theorem settled_freeCopy {c : Nat} (hs : (s.copy c).state = .superseded) (ho : (s.copy c).owner = none) :
    s.Settled (s.freeCopy c) (fun d => decide (d = c)) where
  kept d hd := by simp [of_decide_eq_false hd]
  pins d := by by_cases hd : d = c <;> simp [hd, Copy.free]
  snapPins d := by by_cases hd : d = c <;> simp [hd, Copy.free]
  gone d hd := by
    obtain rfl := of_decide_eq_true hd
    exact ⟨hs, by simp⟩
  rows k := rowSettled_of_keep (fun d hd he => by
    obtain rfl := of_decide_eq_true hd
    rw [ho] at he
    cases he) (by simp) (fun _ _ => by simp)
  list := by simp
  counted := by
    refine ⟨[c], List.nodup_singleton c, by simp, by simp, fun k => ?_⟩
    by_cases hk : (s.copy c).profile = some k <;> simp [freeCopy_slots, hk]
  slots k := by
    rw [freeCopy_slots]
    split <;> rfl
  links n := by simp
  watchCounts _ n := by simp
  engine := by simp
  events := by simp
  outside := (StoresOnly.freeCopy c s).sameOutside

theorem settled_settleCopy (s : State) (c : Nat) : s.Settled (s.settleCopy c) (fun d => decide (d = c) && (s.copy c).leftOver) := by
  cases h : (s.copy c).leftOver with
  | false =>
    rw [settleCopy_kept h]
    exact (settled_refl s).congr fun d => (Bool.and_false _).symm
  | true =>
    have hs : (s.copy c).state = .superseded := by
      rw [Copy.leftOver, Bool.and_eq_true, decide_eq_true_eq] at h
      exact h.1
    rw [settleCopy_freed h]
    cases ho : (s.copy c).owner with
    | none => exact (settled_freeCopy hs ho).congr fun d => (Bool.and_true _).symm
    | some r => exact (settled_freeCopy_reapRow hs ho).congr fun d => (Bool.and_true _).symm

theorem settleCopy_copy (s : State) (c d : Nat) :
    (s.settleCopy c).copy d = if d = c ∧ (s.copy c).leftOver = true then Copy.free else s.copy d := by
  cases h : (s.copy c).leftOver with
  | false => simp [settleCopy_kept h]
  | true =>
    rw [settleCopy_freed h]
    cases (s.copy c).owner <;> simp

theorem settleCopy_readerCount (s : State) (c k : Nat) : ((s.settleCopy c).slot k).readerCount = (s.slot k).readerCount := by
  cases h : (s.copy c).leftOver with
  | false => rw [settleCopy_kept h]
  | true =>
    rw [settleCopy_freed h]
    cases (s.copy c).owner with
    | none =>
      simp only [freeCopy_slots]
      split <;> rfl
    | some r =>
      simp only [reapRow_slot, freeCopy_slots]
      split <;> rfl

/-! ### One pin, one reader (R36, R37, R53) -/

theorem leftOver_dropPin (x : Copy) : ({ x with fetchPins := x.fetchPins - 1 } : Copy).leftOver = x.lastPins 1 := by
  have h : decide (x.fetchPins - 1 = 0) = decide (x.fetchPins ≤ 1) := decide_eq_decide.2 (by omega)
  simp only [Copy.leftOver, Copy.unpinned, Copy.lastPins, h, Bool.and_assoc]

theorem leftOver_clearPin (x : Copy) (h : x.snapPin = true) : ({ x with snapPin := false } : Copy).leftOver = x.lastSnapPin := by
  simp [Copy.leftOver, Copy.unpinned, Copy.lastSnapPin, h]

theorem settled_dropFetchPin (s : State) (c : Nat) :
    s.Settled (s.dropFetchPin c) (fun d => decide (d = c) && (s.copy c).lastPins 1) := by
  refine ((settled_putCopy s c (b := (s.copy c).snapPin) (Nat.sub_le _ 1) id).trans (settled_settleCopy _ c)).congr fun d => ?_
  rw [Bool.false_or, State.copy_putCopy, if_pos rfl, ← leftOver_dropPin]

theorem dropFetchPin_copy (s : State) (c d : Nat) : (s.dropFetchPin c).copy d = if d = c then
    (if (s.copy c).lastPins 1 then Copy.free else { s.copy c with fetchPins := (s.copy c).fetchPins - 1 }) else s.copy d := by
  rw [State.dropFetchPin, settleCopy_copy, State.copy_putCopy, if_pos rfl, leftOver_dropPin]
  by_cases hd : d = c <;> simp [hd]

theorem dropFetchPin_readerCount (s : State) (c k : Nat) : ((s.dropFetchPin c).slot k).readerCount = (s.slot k).readerCount := by
  rw [State.dropFetchPin, settleCopy_readerCount]
  rfl

theorem settled_clearSnapPin (s : State) (c : Nat) :
    s.Settled (s.clearSnapPin c) (fun d => decide (d = c) && (s.copy c).lastSnapPin) := by
  cases h : (s.copy c).snapPin with
  | false =>
    rw [State.clearSnapPin, h]
    exact (settled_refl s).congr fun d => by simp [Copy.lastSnapPin, h]
  | true =>
    rw [State.clearSnapPin, h, if_pos rfl]
    refine ((settled_putCopy s c (p := (s.copy c).fetchPins) (b := false) (Nat.le_refl _) (fun hb => nomatch hb)).trans
      (settled_settleCopy _ c)).congr fun d => ?_
    rw [Bool.false_or, State.copy_putCopy, if_pos rfl, ← leftOver_clearPin _ h]

theorem clearSnapPin_copy (s : State) (c d : Nat) : (s.clearSnapPin c).copy d = if d = c then
    (if (s.copy c).lastSnapPin then Copy.free else { s.copy c with snapPin := false }) else s.copy d := by
  cases h : (s.copy c).snapPin with
  | false =>
    have hl : (s.copy c).lastSnapPin = false := by simp [Copy.lastSnapPin, h]
    rw [State.clearSnapPin, h, if_neg (by decide), hl]
    by_cases hd : d = c
    · rw [if_pos hd, hd, if_neg (by decide), ← h]
    · rw [if_neg hd]
  | true =>
    rw [State.clearSnapPin, h, if_pos rfl, settleCopy_copy, State.copy_putCopy, if_pos rfl, leftOver_clearPin _ h]
    by_cases hd : d = c <;> simp [hd]

theorem settled_dropReader (s : State) (k : Nat) : s.Settled (s.dropReader k) (fun _ => false) where
  kept _ _ := rfl
  pins _ := Nat.le_refl _
  snapPins _ h := h
  gone _ h := nomatch h
  rows _ := rowSettled_of_keep (fun _ h => nomatch h) rfl (fun _ _ => Iff.rfl)
  list := by simp [State.dropReader]
  counted := ⟨[], List.nodup_nil, by simp, rfl, fun j => by by_cases hj : j = k <;> simp [State.dropReader, hj]⟩
  slots j := by by_cases hj : j = k <;> simp [State.dropReader, hj]
  links _ := rfl
  watchCounts _ _ := rfl
  engine := rfl
  events := rfl
  outside := (StoresOnly.dropReader k s).sameOutside

theorem dropReader_readerCount (s : State) (k j : Nat) :
    ((s.dropReader k).slot j).readerCount = (s.slot j).readerCount - if j = k then 1 else 0 := by
  by_cases hj : j = k <;> simp [State.dropReader, hj]

/-! ### Snapshot pins of a list given up (R37, R166, R169) -/

theorem lastSnapPin_clearSnapPin (s : State) (c d : Nat) :
    ((s.clearSnapPin c).copy d).lastSnapPin = (decide (d ≠ c) && (s.copy d).lastSnapPin) := by
  rw [clearSnapPin_copy]
  by_cases hd : d = c
  · subst hd
    cases h : (s.copy d).lastSnapPin <;> simp [Copy.lastSnapPin, Copy.free]
  · simp [hd]

theorem settled_clearSnapPins (cs : List Nat) (s : State) : s.Settled (State.forEach State.clearSnapPin cs s)
    (fun c => decide (c ∈ cs) && (s.copy c).lastSnapPin) := by
  induction cs generalizing s with
  | nil => exact (settled_refl s).congr fun _ => by simp
  | cons c cs ih =>
    refine ((settled_clearSnapPin s c).trans (ih _)).congr fun d => ?_
    rw [lastSnapPin_clearSnapPin]
    by_cases hd : d = c
    · subst hd
      simp
    · simp [hd]

theorem clearSnapPins_copy (cs : List Nat) (s : State) (c : Nat) : (State.forEach State.clearSnapPin cs s).copy c = if c ∈ cs then
    (if (s.copy c).lastSnapPin then Copy.free else { s.copy c with snapPin := false }) else s.copy c := by
  induction cs generalizing s with
  | nil => simp [State.forEach]
  | cons d cs ih =>
    rw [State.forEach, ih, clearSnapPin_copy]
    by_cases hd : c = d
    · subst hd
      have hlast := lastSnapPin_clearSnapPin s c c
      rw [clearSnapPin_copy, if_pos rfl] at hlast
      rw [if_pos rfl, hlast]
      cases h : (s.copy c).lastSnapPin <;> simp [Copy.free]
    · simp [hd]

theorem clearSnapPins_readerCount (cs : List Nat) (s : State) (k : Nat) :
    ((State.forEach State.clearSnapPin cs s).slot k).readerCount = (s.slot k).readerCount := by
  refine forEach_keep (fun u => (u.slot k).readerCount) (fun c u => ?_) cs s
  change ((u.clearSnapPin c).slot k).readerCount = _
  rw [State.clearSnapPin]
  split
  · rw [settleCopy_readerCount]
    rfl
  · rfl

/-- The copies that releases freed, counted over a list that holds each of them once. -/
theorem State.Settled.counted_of {f : Nat → Bool} (h : s.Settled t f) {cs : List Nat} (hcs : cs.Nodup) (hmem : ∀ c, c ∈ cs ↔ f c = true) :
    t.freeCount = s.freeCount + cs.length ∧
      ∀ k, (t.slot k).refCount = (s.slot k).refCount - cs.countP (fun c => decide ((s.copy c).profile = some k)) := by
  obtain ⟨ds, hds, hmem', hfree, href⟩ := h.counted
  have hperm : ds.Perm cs := (List.perm_ext_iff_of_nodup hds hcs).2 fun c => (hmem' c).trans (hmem c).symm
  exact ⟨hperm.length_eq ▸ hfree, fun k => hperm.countP_eq _ ▸ href k⟩

theorem pinsGivenUp_clearSnapPins (cs : List Nat) (s : State) : s.PinsGivenUp cs (State.forEach State.clearSnapPin cs s) := by
  have h := settled_clearSnapPins cs s
  refine ⟨clearSnapPins_copy cs s, h.rows, h.list, fun k => ?_, fun hcs => ?_, h.links, h.watchCounts⟩
  · have hslot := h.slots k
    rw [clearSnapPins_readerCount] at hslot
    exact hslot
  · obtain ⟨hfree, href⟩ := h.counted_of (cs := cs.filter (fun c => (s.copy c).lastSnapPin)) (hcs.filter _)
      fun c => by rw [List.mem_filter, Bool.and_eq_true, decide_eq_true_eq]
    refine ⟨by rw [hfree, List.countP_eq_length_filter], fun k => ?_⟩
    rw [href, List.countP_filter]
    exact congrArg _ (List.countP_congr fun c _ => by rw [Bool.and_comm])

/-! ### Requests given up (R114, R137) -/

/-- How many of the requests are bound to copy `c` (R36). -/
def boundIn (qs : List Request) (c : Nat) : Nat := qs.countP (fun q => decide (q.boundCopy = some c))

/-- How many of the requests read slot `k` (R53). -/
def readingIn (qs : List Request) (k : Nat) : Nat := qs.countP (fun q => decide (q.boundSlot = some k))

theorem boundIn_cons (q : Request) (qs : List Request) (c : Nat) :
    boundIn (q :: qs) c = boundIn qs c + if q.boundCopy = some c then 1 else 0 := by
  rw [boundIn, List.countP_cons]
  simp only [decide_eq_true_eq]
  rfl

theorem readingIn_cons (q : Request) (qs : List Request) (k : Nat) :
    readingIn (q :: qs) k = readingIn qs k + if q.boundSlot = some k then 1 else 0 := by
  rw [readingIn, List.countP_cons]
  simp only [decide_eq_true_eq]
  rfl

/-- A copy after `k` of its fetch pins are released, one after another (R36, R38). -/
def Copy.dropPins (x : Copy) (k : Nat) : Copy :=
  if 0 < k then (if x.lastPins k then Copy.free else { x with fetchPins := x.fetchPins - k }) else x

theorem lastPins_free (k : Nat) : Copy.free.lastPins k = false := rfl

/-- One pin released and then more are all of them released. -/
theorem lastPins_dropPins_one (x : Copy) (k : Nat) :
    ((decide (0 < 1) && x.lastPins 1) || (decide (0 < k) && (x.dropPins 1).lastPins k)) = x.lastPins (k + 1) := by
  simp only [Copy.dropPins, Nat.zero_lt_one, if_true, decide_true, Bool.true_and]
  cases h : x.lastPins 1 with
  | true =>
    simp only [Copy.lastPins, Bool.and_eq_true, decide_eq_true_eq] at h
    simp [Copy.lastPins, h, Nat.le_trans h.1.2 (Nat.succ_le_succ (Nat.zero_le k))]
  | false =>
    simp only [Copy.lastPins, Bool.false_eq_true, if_false, Bool.false_or] at h ⊢
    by_cases hk : 0 < k
    · have hle : decide (x.fetchPins - 1 ≤ k) = decide (x.fetchPins ≤ k + 1) := decide_eq_decide.2 (by omega)
      simp only [hk, decide_true, Bool.true_and, hle]
    · obtain rfl : k = 0 := by omega
      simpa using h.symm

theorem dropPins_dropPins_one (x : Copy) (k : Nat) : (x.dropPins 1).dropPins k = x.dropPins (k + 1) := by
  have hlast := lastPins_dropPins_one x k
  by_cases hk : 0 < k
  · simp only [Copy.dropPins, hk, Nat.zero_lt_one, Nat.succ_pos, if_true, decide_true, Bool.true_and] at hlast ⊢
    cases h : x.lastPins 1 with
    | true =>
      rw [h] at hlast
      simp [← hlast, lastPins_free, Copy.free]
    | false =>
      rw [h] at hlast
      simp only [Bool.false_eq_true, if_false, Bool.false_or] at hlast ⊢
      rw [hlast]
      split
      · rfl
      · rw [Nat.sub_sub, Nat.add_comm 1 k]
  · obtain rfl : k = 0 := by omega
    simp [Copy.dropPins]

/-- The fetch pin that a request holds, if it holds one, is released (R36). -/
def State.releasePin (c : Option Nat) (s : State) : State := c.elim s (fun c => s.dropFetchPin c)

/-- The reader count that a request holds, if it holds one, is released (R53). -/
def State.releaseReader (k : Option Nat) (s : State) : State := k.elim s (fun k => s.dropReader k)

theorem releaseRequest_eq (q : Request) (s : State) :
    s.releaseRequest q = (s.releasePin q.boundCopy).releaseReader q.boundSlot := by
  rw [State.releaseRequest]
  cases q.boundCopy <;> cases q.boundSlot <;> rfl

theorem releasePin_copy (b : Option Nat) (s : State) (c : Nat) :
    (s.releasePin b).copy c = (s.copy c).dropPins (if b = some c then 1 else 0) := by
  cases b with
  | none => simp [State.releasePin, Copy.dropPins]
  | some d =>
    change (s.dropFetchPin d).copy c = _
    rw [dropFetchPin_copy]
    by_cases hd : c = d
    · subst hd
      simp [Copy.dropPins]
    · have hd' : d ≠ c := fun h => hd h.symm
      simp [Copy.dropPins, hd, hd']

theorem releasePin_readerCount (b : Option Nat) (s : State) (k : Nat) :
    ((s.releasePin b).slot k).readerCount = (s.slot k).readerCount := by
  cases b with
  | none => rfl
  | some c => exact dropFetchPin_readerCount s c k

theorem settled_releasePin (b : Option Nat) (s : State) :
    s.Settled (s.releasePin b) (fun c => decide (b = some c) && (s.copy c).lastPins 1) := by
  cases b with
  | none => exact (settled_refl s).congr fun _ => by simp
  | some d =>
    refine (settled_dropFetchPin s d).congr fun c => ?_
    by_cases hd : c = d
    · subst hd
      simp
    · have hd' : d ≠ c := fun h => hd h.symm
      simp [hd, hd']

theorem settled_releaseReader (b : Option Nat) (s : State) : s.Settled (s.releaseReader b) (fun _ => false) := by
  cases b with
  | none => exact settled_refl s
  | some k => exact settled_dropReader s k

theorem releaseReader_copy (b : Option Nat) (s : State) (c : Nat) : (s.releaseReader b).copy c = s.copy c := by cases b <;> rfl

theorem releaseReader_readerCount (b : Option Nat) (s : State) (k : Nat) :
    ((s.releaseReader b).slot k).readerCount = (s.slot k).readerCount - if b = some k then 1 else 0 := by
  cases b with
  | none => rfl
  | some j =>
    change ((s.dropReader j).slot k).readerCount = _
    rw [dropReader_readerCount]
    by_cases hj : k = j
    · simp [hj]
    · have hj' : j ≠ k := fun h => hj h.symm
      simp [hj, hj']

theorem releaseRequest_copy (q : Request) (s : State) (c : Nat) :
    (s.releaseRequest q).copy c = (s.copy c).dropPins (if q.boundCopy = some c then 1 else 0) := by
  rw [releaseRequest_eq, releaseReader_copy, releasePin_copy]

theorem settled_releaseRequest (q : Request) (s : State) :
    s.Settled (s.releaseRequest q) (fun c => decide (q.boundCopy = some c) && (s.copy c).lastPins 1) := by
  rw [releaseRequest_eq]
  exact ((settled_releasePin q.boundCopy s).trans (settled_releaseReader q.boundSlot _)).congr fun c => Bool.or_false _

theorem releaseRequest_readerCount (q : Request) (s : State) (k : Nat) :
    ((s.releaseRequest q).slot k).readerCount = (s.slot k).readerCount - if q.boundSlot = some k then 1 else 0 := by
  rw [releaseRequest_eq, releaseReader_readerCount, releasePin_readerCount]

theorem releaseRequests_copy (qs : List Request) (s : State) (c : Nat) :
    (State.releaseRequests qs s).copy c = (s.copy c).dropPins (boundIn qs c) := by
  induction qs generalizing s with
  | nil => rfl
  | cons q qs ih =>
    rw [State.releaseRequests, ih, releaseRequest_copy, boundIn_cons]
    split
    · exact dropPins_dropPins_one _ _
    · rfl

theorem settled_releaseRequests (qs : List Request) (s : State) : s.Settled (State.releaseRequests qs s)
    (fun c => decide (0 < boundIn qs c) && (s.copy c).lastPins (boundIn qs c)) := by
  induction qs generalizing s with
  | nil => exact (settled_refl s).congr fun _ => rfl
  | cons q qs ih =>
    refine ((settled_releaseRequest q s).trans (ih _)).congr fun c => ?_
    rw [releaseRequest_copy, boundIn_cons]
    by_cases hb : q.boundCopy = some c
    · have h := lastPins_dropPins_one (s.copy c) (boundIn qs c)
      simpa [hb] using h
    · simp [hb, Copy.dropPins]

theorem releaseRequests_readerCount (qs : List Request) (s : State) (k : Nat) :
    ((State.releaseRequests qs s).slot k).readerCount = (s.slot k).readerCount - readingIn qs k := by
  induction qs generalizing s with
  | nil => rfl
  | cons q qs ih =>
    rw [State.releaseRequests, ih, releaseRequest_readerCount, readingIn_cons]
    omega

end Sys2Proof.Machine
end

section
/-! PROOF. Link reset (6.5): what it releases, and RESET_LINK, the loss of lock, the eighth bad frame in a row. -/

namespace Sys2Proof.Machine

variable {s t u : State} {n : Nat}

/-! ### What a link reset leaves -/

/-- The stores of a link reset, before the link controller itself takes its reset values. -/
def State.linkGivenUp (s : State) (n : Nat) : State := State.releaseRequests (s.link n).requests (s.leaveWatchSets n)

theorem resetLink_eq (n : Nat) (s : State) : s.resetLink n = (s.linkGivenUp n).putLink n ((s.linkGivenUp n).link n).afterReset := rfl

theorem leaveWatchSets_row (n : Nat) (s : State) (r : Nat) : (s.leaveWatchSets n).row r =
    { s.row r with watch := (s.row r).watch.filter (fun m => decide (m ≠ n)) } :=
  Table.read_mapValues _ _ rfl _ _

theorem settled_linkGivenUp (s : State) (n : Nat) : (s.leaveWatchSets n).Settled (s.linkGivenUp n) (s.freedByReset n) :=
  settled_releaseRequests (s.link n).requests (s.leaveWatchSets n)

theorem afterReset_of_sameButWatchCount {l m : Link} (h : SameButWatchCount l m) : m.afterReset =
    { Link.reset with locked := l.locked, errors := l.errors, resyncNumber := l.resyncNumber } := by
  rw [h]
  rfl

theorem resetLink_link_self (n : Nat) (s : State) : (s.resetLink n).link n =
    { Link.reset with locked := (s.link n).locked, errors := (s.link n).errors, resyncNumber := (s.link n).resyncNumber } := by
  rw [resetLink_eq, State.link_putLink, if_pos rfl]
  exact afterReset_of_sameButWatchCount ((settled_linkGivenUp s n).links n)

theorem resetLink_link_other {m : Nat} (h : m ≠ n) (s : State) : (s.resetLink n).link m = (s.linkGivenUp n).link m := by
  rw [resetLink_eq, State.link_putLink, if_neg h]

theorem resetLink_eventSet (n : Nat) (s : State) : (s.resetLink n).eventSet = s.eventSet := (settled_linkGivenUp s n).events

theorem linkReleased_resetLink (n : Nat) (s : State) : s.LinkReleased n (s.resetLink n) := by
  have h := settled_linkGivenUp s n
  have hrow (r : Nat) : (s.resetLink n).row r = Row.free ∨ (s.resetLink n).row r = (s.leaveWatchSets n).row r := by
    by_cases hc : ((s.leaveWatchSets n).row r).phase = .dead ∧
        (∃ c, s.freedByReset n c = true ∧ ((s.leaveWatchSets n).copy c).owner = some r) ∧ ∀ c, ((s.linkGivenUp n).copy c).owner ≠ some r
    · exact .inl ((h.rows r).1 hc).1
    · exact .inr ((h.rows r).2 hc).1
  have hdead (hd : s.DeadUnwatched) : (s.leaveWatchSets n).DeadUnwatched := fun r hr => by
    rw [leaveWatchSets_row] at hr ⊢
    simp [hd r hr]
  refine ⟨fun r hn => ?_, releaseRequests_copy _ _, fun r => ?_, h.list, fun cs hcs hmem => h.counted_of hcs hmem, fun k => ?_,
    fun m hm => ?_, fun hd m hm => ?_, (StoresOnly.resetLink n s).sameOutside⟩
  · obtain hr | hr := hrow r
    · rw [hr] at hn
      cases hn
    · rw [hr, leaveWatchSets_row, List.mem_filter] at hn
      exact of_decide_eq_true hn.2 rfl
  · have hr := h.rows r
    simp only [State.RowSettled, leaveWatchSets_row] at hr
    simp only [State.RowSettled]
    exact hr
  · have hslot := h.slots k
    refine ⟨releaseRequests_readerCount _ _ _, ?_⟩
    change ((s.linkGivenUp n).slot k).state = _ ∧ ((s.linkGivenUp n).slot k).points = _ ∧ ((s.linkGivenUp n).slot k).activated = _
    rw [hslot]
    exact ⟨rfl, rfl, rfl⟩
  · rw [resetLink_link_other hm]
    exact h.links m
  · rw [resetLink_link_other hm]
    exact h.watchCounts (hdead hd) m

/-- What a link reset releases is decided by the link's requests and the stores alone. -/
theorem State.LinkReleased.of_putLink {l : Link} (h : (s.putLink n l).LinkReleased n t) (hr : l.requests = (s.link n).requests) :
    s.LinkReleased n t := by
  have hbound : (s.putLink n l).boundTo n = s.boundTo n := funext fun c => by simp [State.boundTo, hr]
  have hread : (s.putLink n l).readersOn n = s.readersOn n := funext fun c => by simp [State.readersOn, hr]
  have hfreed : (s.putLink n l).freedByReset n = s.freedByReset n := funext fun c => by
    rw [State.freedByReset, hbound]
    rfl
  obtain ⟨h1, h2, h3, h4, h5, h6, h7, h8, h9⟩ := h
  rw [hbound] at h2
  rw [hfreed] at h3 h4 h5
  rw [hread] at h6
  refine ⟨h1, h2, h3, h4, h5, h6, fun m hm => ?_, fun hd m hm => ?_, ⟨h9.pending, h9.session, h9.epoch, h9.staged, h9.markerCount,
    h9.switchRecord, h9.snap, h9.flash, h9.opState, h9.params, h9.freeTick, ⟨h9.ports.host, h9.ports.service, h9.ports.hostMask,
    h9.ports.serviceMask⟩⟩⟩
  · simpa [hm] using h7 m hm
  · simpa [hm] using h8 hd m hm

/-- What follows a link reset at the link controller itself, and events raised, leave what it released. -/
theorem State.LinkReleased.after (h : s.LinkReleased n t) (hrows : u.rows = t.rows) (hcopies : u.copies = t.copies)
    (hslots : u.slots = t.slots) (hidx : u.spanIndex = t.spanIndex) (hsup : u.superseded = t.superseded)
    (hfree : u.freeCount = t.freeCount) (hlinks : ∀ m, m ≠ n → u.link m = t.link m) (hout : t.SameOutside u) : s.LinkReleased n u := by
  have hrow : u.row = t.row := funext fun r => by simp only [State.row, hrows]
  have hcopy : u.copy = t.copy := funext fun c => by simp only [State.copy, hcopies]
  have hslot : u.slot = t.slot := funext fun k => by simp only [State.slot, hslots]
  obtain ⟨h1, h2, h3, h4, h5, h6, h7, h8, h9⟩ := h
  refine ⟨by rwa [hrow], by rwa [hcopy], fun r => ?_, by rwa [hsup], by rwa [hfree, hslot], by rwa [hslot], fun m hm => ?_,
    fun hd m hm => ?_, h9.trans hout⟩
  · rw [State.RowSettled, hrow, hcopy, hidx]
    exact h3 r
  · rw [hlinks m hm]
    exact h7 m hm
  · rw [hlinks m hm]
    exact h8 hd m hm

theorem State.LinkReleased.raise (h : s.LinkReleased n t) (o : Occurrence) : s.LinkReleased n (t.raise o) :=
  h.after rfl rfl rfl rfl rfl rfl (fun _ _ => rfl) ⟨rfl, rfl, rfl, rfl, rfl, rfl, rfl, rfl, rfl, rfl, rfl, rfl, rfl, rfl, rfl⟩

theorem State.LinkReleased.putLink (h : s.LinkReleased n t) (l : Link) : s.LinkReleased n (t.putLink n l) :=
  h.after rfl rfl rfl rfl rfl rfl (fun _ hm => by simp [hm]) ⟨rfl, rfl, rfl, rfl, rfl, rfl, rfl, rfl, rfl, rfl, rfl, rfl, rfl, rfl, rfl⟩

theorem kick_cases (n : Nat) (s : State) : s.kick n = s ∨ ∃ l, s.kick n = s.putLink n l := by
  unfold State.kick
  split
  · split
    · exact .inr ⟨_, rfl⟩
    · exact .inl rfl
  · exact .inl rfl

theorem State.LinkReleased.kick (h : s.LinkReleased n t) : s.LinkReleased n (t.kick n) := by
  obtain hk | ⟨l, hk⟩ := kick_cases n t
  · rwa [hk]
  · rw [hk]
    exact h.putLink l

/-! ### A reset that leaves the link DOWN (R114) -/

theorem resetLinkDown_of_down (h : (s.link n).state = .down) : s.resetLinkDown n = s.resetLink n := if_pos h

theorem resetLinkDown_of_admitted (h : (s.link n).state ≠ .down) : s.resetLinkDown n = (s.resetLink n).raise (.linkDown n) := if_neg h

theorem linkReleased_resetLinkDown (n : Nat) (s : State) : s.LinkReleased n (s.resetLinkDown n) := by
  by_cases h : (s.link n).state = .down
  · rw [resetLinkDown_of_down h]
    exact linkReleased_resetLink n s
  · rw [resetLinkDown_of_admitted h]
    exact (linkReleased_resetLink n s).raise _

theorem resetLinkDown_link_self (n : Nat) (s : State) : (s.resetLinkDown n).link n =
    { Link.reset with locked := (s.link n).locked, errors := (s.link n).errors, resyncNumber := (s.link n).resyncNumber } := by
  by_cases h : (s.link n).state = .down
  · rw [resetLinkDown_of_down h, resetLink_link_self]
  · rw [resetLinkDown_of_admitted h, State.link_raise, resetLink_link_self]

theorem resetLinkDown_eventSet (h : (s.link n).state ≠ .down) : (s.resetLinkDown n).eventSet =
    { s.eventSet with set := s.eventSet.set ||| 0x080#12, linkDown := some n } := by
  rw [resetLinkDown_of_admitted h]
  change { ((s.resetLink n).eventSet.withDetail (.linkDown n)) with set := (s.resetLink n).eventSet.set ||| 0x080#12 } = _
  rw [resetLink_eventSet]
  rfl

/-- Settles O31: a reset with what it releases, by command and by loss of lock. -/
theorem linkResetsAndLock : Obligations.LinkResetsAndLock := by
  refine ⟨fun p seq w s n h hn hlt => ?_, fun n s => ⟨fun hl => ?_, fun hl hd => ?_, fun hl hd => ?_⟩⟩
  · subst hn
    refine ⟨s.resetLinkDown _, ?_, resetLinkDown_link_self _ s, fun hd => ?_, fun hd => resetLinkDown_eventSet hd,
      linkReleased_resetLinkDown _ s⟩
    · have hx := exec_plain (args := [w]) seq h (by decide) rfl (by simp) rfl
        (show decide (namedBy [w] < Config.links) = true from decide_eq_true (show bitsAt w 0 16 < Config.links from hlt))
      exact hx
    · rw [resetLinkDown_of_down hd, resetLink_eventSet]
  · change Host.Outcome.next (if (s.link n).locked then _ else _) = _
    rw [if_neg (by simp [hl])]
  · change Host.Outcome.next (if (s.link n).locked then _ else _) = _
    rw [if_pos hl]
    exact congrArg _ (if_pos hd)
  · have hlost : exec (.receiverLockLost n) s =
        .next ((s.putLink n { s.link n with locked := false, rx := .outside }).resetLinkDown n) := by
      change Host.Outcome.next (if (s.link n).locked then _ else _) = _
      rw [if_pos hl]
      exact congrArg _ (if_neg hd)
    have hd' : ((s.putLink n { s.link n with locked := false, rx := .outside }).link n).state ≠ .down := by simpa using hd
    refine ⟨_, hlost, ?_, ?_, (linkReleased_resetLinkDown _ _).of_putLink rfl⟩
    · rw [resetLinkDown_link_self]
      simp
      rfl
    · rw [resetLinkDown_eventSet hd']
      rfl

/-! ### Bad frames (R108) -/

theorem badFrame_found (n : Nat) (e : FrameError) (rx : Receiver) (s : State) : s.BadFound n e rx (s.badFrame e rx n) := by
  have hcounted : s.badFrame e rx n = if (s.link n).state ≠ .down ∧ 8 ≤ (s.link n).badCount + 1
      then (s.countedBad n e rx).resetLinkDown n else s.countedBad n e rx := rfl
  refine ⟨fun h => ?_, fun hd hb => ?_⟩
  · rw [hcounted, if_neg]
    rintro ⟨hd, hb⟩
    exact h.elim hd (fun hb' => by omega)
  · have hd' : ((s.countedBad n e rx).link n).state ≠ .down := by simpa [State.countedBad] using hd
    rw [hcounted, if_pos ⟨hd, by omega⟩]
    refine ⟨?_, resetLinkDown_eventSet hd', (linkReleased_resetLinkDown _ _).of_putLink rfl⟩
    rw [resetLinkDown_link_self]
    simp [State.countedBad]

theorem exec_linkWord {n : LinkId} {w : WireWord} (hl : (s.link n).locked = true) : exec (.linkWord n w) s = .next (s.receiveWord w n) :=
  congrArg Host.Outcome.next (if_pos hl)

section
variable {w : WireWord} (hp : parityGood w = true)
include hp

theorem receiveWord_idle (h : wireMarker w = .idle) : s.receiveWord w n = s := by
  rw [State.receiveWord, hp, h]
  rfl

theorem receiveWord_head (h : wireMarker w = .head) : s.receiveWord w n = s.headWord (wireData w) n := by
  rw [State.receiveWord, hp, h]
  rfl

theorem receiveWord_body (h : wireMarker w = .body) : s.receiveWord w n = s.bodyWord (wireData w) n := by
  rw [State.receiveWord, hp, h]
  rfl

theorem receiveWord_tail (h : wireMarker w = .tail) : s.receiveWord w n = s.tailWord (wireData w) n := by
  rw [State.receiveWord, hp, h]
  rfl

end

/-- The error of a frame whose kind, reserved bits or length are wrong (R107 steps 3 to 5). -/
theorem checked_wrongKind {f : RxFrame} {d : Half} (hcount : f.received = headLength f.head) (hcrc : crc16 (f.head :: f.kept) = d)
    (h : BoardKind.ofCode (headKind f.head) = none ∨ headReserved f.head ≠ 0 ∨
      ∃ k, BoardKind.ofCode (headKind f.head) = some k ∧ k.permits (headLength f.head) = false) :
    f.checked d = .inl .kind := by
  rw [RxFrame.checked, if_neg (not_not.mpr hcount), if_neg (not_not.mpr hcrc)]
  cases hk : BoardKind.ofCode (headKind f.head) with
  | none => rfl
  | some k =>
    dsimp only
    by_cases hr : headReserved f.head ≠ 0
    · rw [if_pos hr]
    · rw [if_neg hr]
      obtain hn | hz | ⟨j, hj, hperm⟩ := h
      · cases hk.symm.trans hn
      · exact absurd hz hr
      · cases hk.symm.trans hj
        rw [if_pos hperm]

/-- Settles O29: each cell of R106's table, a bad frame counted as R108 says. -/
theorem linkWordMovesReceiver : Obligations.LinkWordMovesReceiver := by
  intro n w s
  refine ⟨fun hl => congrArg Host.Outcome.next (if_neg (by simp [hl])), fun hl => ?_⟩
  rw [exec_linkWord hl]
  refine ⟨fun hp => ⟨fun hr => ?_, fun hr => ⟨_, rfl, ?_⟩⟩, fun hp hm => by rw [receiveWord_idle hp hm], fun rx hp hm hrx => ?_,
    fun hp hm => ?_, fun hp hm => ?_⟩
  · rw [receiveWord_of_badParity _ _ hp, State.badWord, hr]
  · rw [receiveWord_of_badParity _ _ hp, State.badWord]
    cases h : (s.link n).rx with
    | outside => exact badFrame_found _ _ _ _
    | inFrame f => exact badFrame_found _ _ _ _
    | discarding => exact absurd h hr
  · rw [receiveWord_head hp hm, State.headWord]
    refine ⟨fun hr => ?_, fun f hf => ⟨_, rfl, ?_⟩⟩
    · obtain hr | hr := hr
      all_goals
        rw [hr, hrx]
        rfl
    · rw [hf, hrx]
      exact badFrame_found _ _ _ _
  · rw [receiveWord_body hp hm, State.bodyWord]
    refine ⟨fun hr => ⟨_, rfl, ?_⟩, fun f hf => ?_, fun hr => ?_⟩
    · rw [hr]
      exact badFrame_found _ _ _ _
    · rw [hf]
      rfl
    · rw [hr]
  · rw [receiveWord_tail hp hm, State.tailWord]
    refine ⟨fun hr => ⟨_, rfl, ?_⟩, fun hr => ?_, fun f hf hbad => ⟨_, rfl, ?_⟩, fun f hf hcount hcrc hbad => ⟨_, rfl, ?_⟩⟩
    · rw [hr]
      exact badFrame_found _ _ _ _
    · rw [hr]
      rfl
    · have hc : f.checked (wireData w) = .inl .check := by
        by_cases hcount : f.received = headLength f.head
        · exact RxFrame.checked_of_rightCount hcount (hbad.resolve_left (not_not.mpr hcount))
        · exact RxFrame.checked_of_wrongCount _ hcount
      rw [hf]
      dsimp only
      rw [hc]
      exact badFrame_found _ _ _ _
    · rw [hf]
      dsimp only
      rw [checked_wrongKind hcount hcrc hbad]
      exact badFrame_found _ _ _ _

end Sys2Proof.Machine
end

section
/-! PROOF. Admission (6.4): what a good HELLO does at either level. -/

namespace Sys2Proof.Machine

variable {s t u : State} {n : Nat}

theorem kick_welcome {tag : Tag} (h : (s.link n).welcome = some tag) : (s.kick n).link n = { s.link n with
    tx := some ((s.link n).tx.getD { tag := tag, content := .welcome n s.epoch s.opState, position := 0 }) } := by
  cases ht : (s.link n).tx with
  | none =>
    rw [kick_begins ht (nextFrame_welcome h), State.link_putLink, if_pos rfl]
    rfl
  | some f =>
    rw [kick_busy (by simp [ht])]
    change s.link n = { s.link n with tx := some f }
    rw [← ht]

theorem State.SameOutside.kick (h : s.SameOutside t) (n : Nat) : s.SameOutside (t.kick n) := by
  obtain hk | ⟨l, hk⟩ := kick_cases n t
  · rwa [hk]
  · rw [hk]
    exact h.trans ⟨rfl, rfl, rfl, rfl, rfl, rfl, rfl, rfl, rfl, rfl, rfl, ⟨rfl, rfl, rfl, rfl⟩⟩

theorem sameOutside_putLink (s : State) (n : Nat) (l : Link) : s.SameOutside (s.putLink n l) :=
  ⟨rfl, rfl, rfl, rfl, rfl, rfl, rfl, rfl, rfl, rfl, rfl, ⟨rfl, rfl, rfl, rfl⟩⟩

theorem sameOutside_raise (s : State) (o : Occurrence) : s.SameOutside (s.raise o) :=
  ⟨rfl, rfl, rfl, rfl, rfl, rfl, rfl, rfl, rfl, rfl, rfl, ⟨rfl, rfl, rfl, rfl⟩⟩

theorem kick_link_other {m : Nat} (h : m ≠ n) (s : State) : (s.kick n).link m = s.link m := by
  obtain hk | ⟨l, hk⟩ := kick_cases n s
  · rw [hk]
  · rw [hk, State.link_putLink, if_neg h]

/-- The frame of a HELLO has closed; the HELLO is still to be answered. -/
def State.helloClosed (s : State) (n : Nat) : State := s.putLink n (s.link n).frameClosed

theorem helloClosed_link (s : State) (n : Nat) : (s.helloClosed n).link n = (s.link n).frameClosed := by simp [State.helloClosed]

theorem exec_hello {n : LinkId} (hl : (s.link n).locked = true) (tag : Tag) (level : Half) :
    exec (.hello n tag level) s = .next (((s.helloClosed n).takeHello n tag level.toNat).kick n) :=
  congrArg Host.Outcome.next (if_pos hl)

/-- The state of a link admitted by a HELLO at level 1, before its transmitter chooses. -/
def State.admitted (s : State) (n : Nat) (tag : Tag) : State :=
  (s.putLink n { (s.link n).setResync with state := .up, welcome := some tag }).raise (.linkUp n)

theorem answerHello_one (n : Nat) (tag : Tag) (s : State) : s.answerHello n tag 1 = s.admitted n tag := rfl

theorem answerHello_other {level : Nat} (h : level ≠ 1) (n : Nat) (tag : Tag) (s : State) :
    s.answerHello n tag level = s.putLink n ((s.link n).addPrompt tag .badRequest) := if_neg h

theorem admitted_link_self (s : State) (n : Nat) (tag : Tag) :
    (s.admitted n tag).link n = { (s.link n).setResync with state := .up, welcome := some tag } := by simp [State.admitted]

/-- The link after an admission at a boundary of its transmitter. -/
theorem admitted_kick_link (s : State) (n : Nat) (tag : Tag) : ((s.admitted n tag).kick n).link n =
    { (s.link n).setResync with
      state := .up, welcome := some tag,
      tx := some ((s.link n).tx.getD { tag := tag, content := .welcome n s.epoch s.opState, position := 0 }) } := by
  have h := admitted_link_self s n tag
  rw [kick_welcome (tag := tag) (by rw [h]), h]
  rfl

theorem takeHello_down (h : (s.link n).state = .down) (tag : Tag) (level : Nat) : s.takeHello n tag level = s.answerHello n tag level :=
  if_pos h

theorem takeHello_one (h : (s.link n).state ≠ .down) (tag : Tag) : s.takeHello n tag 1 = (s.resetLink n).admitted n tag := if_neg h

theorem takeHello_other (h : (s.link n).state ≠ .down) (tag : Tag) {level : Nat} (hl : level ≠ 1) :
    s.takeHello n tag level = ((s.resetLink n).raise (.linkDown n)).answerHello n tag level := by
  rw [State.takeHello, if_neg h, if_neg hl]

theorem setPrompts_addPrompt (l : Link) (tag : Tag) : l.addPrompt tag .badRequest = { l with
    prompts := if l.prompts.length < 4 then l.prompts ++ [{ tag := tag, reason := .badRequest }] else l.prompts } := by
  by_cases h : l.prompts.length < 4
  · rw [if_pos h]
    exact if_pos h
  · rw [if_neg h]
    exact if_neg h

/-- A refused HELLO's prompt is the first frame that a link just reset begins. -/
theorem kick_refusedAfterReset {l : Link} {tag : Tag} (hs : s.link n = { Link.reset with
      locked := l.locked, errors := l.errors, resyncNumber := l.resyncNumber, prompts := [{ tag := tag, reason := .badRequest }] }) :
    (s.kick n).link n = { Link.reset with
      locked := l.locked, errors := l.errors, resyncNumber := l.resyncNumber, prompts := [{ tag := tag, reason := .badRequest }],
      tx := some { tag := tag, content := .refusal .badRequest s.epoch true, position := 0 } } := by
  have hnext : s.nextFrame n = some ({ tag := tag, content := .refusal .badRequest s.epoch true, position := 0 }, s.link n) := by
    simp [State.nextFrame, hs, Link.reset]
  rw [kick_begins (by rw [hs]; rfl) hnext, State.link_putLink, if_pos rfl, hs]

/-- Settles O32: by the HELLO's level and the link's state. -/
theorem helloAdmits : Obligations.HelloAdmits := by
  intro n tag level s hl
  have hclosed := helloClosed_link s n
  have hstate : ((s.helloClosed n).link n).state = (s.link n).state := by rw [hclosed]; rfl
  have hout := sameOutside_putLink s n (s.link n).frameClosed
  refine ⟨fun h1 => ⟨_, exec_hello hl tag level, ?_⟩, fun h1 hd => ?_, fun h1 hd => ?_⟩
  · subst h1
    by_cases hd : (s.link n).state = .down
    · have hlink := admitted_kick_link (s.helloClosed n) n tag
      rw [show (1#16).toNat = 1 from rfl, takeHello_down (hstate.trans hd), answerHello_one, hlink, hclosed]
      refine ⟨rfl, rfl, rfl, rfl, rfl, rfl, rfl, rfl, rfl, rfl, fun h => absurd hd h, fun _ => ⟨rfl, ?_, ?_, ?_, fun m hm => ?_⟩,
        fun h => ?_, fun _ ht => ?_, ?_, ((hout.trans (sameOutside_putLink _ n _)).trans (sameOutside_raise _ _)).kick n⟩
      · exact kick_keep State.rows (fun _ _ _ => rfl) n _
      · exact kick_keep State.copies (fun _ _ _ => rfl) n _
      · exact kick_keep State.slots (fun _ _ _ => rfl) n _
      · rw [kick_link_other hm]
        simp [State.admitted, State.helloClosed, hm]
      · have ht : (s.link n).frameClosed.tx = none := h.resolve_left (not_not.mpr hd)
        rw [ht]
        rfl
      · obtain ⟨f, hf⟩ := Option.ne_none_iff_exists'.1 ht
        change some ((s.link n).tx.getD _) = (s.link n).tx
        rw [hf]
        rfl
      · rw [kick_eventSet]
        rfl
    · have hd' : ((s.helloClosed n).link n).state ≠ .down := fun h => hd (hstate.symm.trans h)
      have hlink := admitted_kick_link ((s.helloClosed n).resetLink n) n tag
      have hrel : s.LinkReleased n ((((s.helloClosed n).resetLink n).admitted n tag).kick n) :=
        ((((linkReleased_resetLink n (s.helloClosed n)).of_putLink rfl).putLink _).raise _).kick
      have hself := resetLink_link_self n (s.helloClosed n)
      have hstay : s.SameOutside ((s.helloClosed n).resetLink n) := hout.trans (StoresOnly.resetLink n _).sameOutside
      rw [hclosed] at hself
      rw [hself, hstay.epoch, hstay.opState] at hlink
      rw [show (1#16).toNat = 1 from rfl, takeHello_one hd']
      refine ⟨by rw [hlink], by rw [hlink], by rw [hlink]; rfl, by rw [hlink]; rfl, by rw [hlink]; rfl, by rw [hlink]; rfl,
        by rw [hlink]; rfl, by rw [hlink]; rfl, by rw [hlink]; rfl, by rw [hlink]; rfl,
        fun _ => ⟨by rw [hlink]; rfl, by rw [hlink]; rfl, by rw [hlink]; rfl, hrel⟩, fun h => absurd h hd, fun _ => by rw [hlink]; rfl,
        fun h => absurd h hd, ?_, hrel.outside⟩
      rw [kick_eventSet]
      change { (((s.helloClosed n).resetLink n).eventSet.withDetail (.linkUp n)) with
        set := ((s.helloClosed n).resetLink n).eventSet.set ||| 0x040#12 } = _
      rw [resetLink_eventSet]
      rfl
  · have h1' : level.toNat ≠ 1 := fun h => h1 (BitVec.eq_of_toNat_eq h)
    have hw (y : Link) : (s.helloClosed n).putLink n y = s.putLink n y :=
      State.putLink_putLink (x := (s.link n).frameClosed) (ne_reset_of_locked hl) s n y
    rw [exec_hello hl, takeHello_down (hstate.trans hd), answerHello_other h1', hw, hclosed, setPrompts_addPrompt]
    rfl
  · have h1' : level.toNat ≠ 1 := fun h => h1 (BitVec.eq_of_toNat_eq h)
    have hd' : ((s.helloClosed n).link n).state ≠ .down := fun h => hd (hstate.symm.trans h)
    have hself := resetLink_link_self n (s.helloClosed n)
    have hstay : s.SameOutside ((s.helloClosed n).resetLink n) := hout.trans (StoresOnly.resetLink n _).sameOutside
    refine ⟨_, exec_hello hl tag level, ?_⟩
    rw [takeHello_other hd' tag h1', answerHello_other h1']
    refine ⟨?_, ?_, ((((linkReleased_resetLink n (s.helloClosed n)).of_putLink rfl).raise _).putLink _).kick⟩
    · rw [kick_refusedAfterReset (l := (s.link n).frameClosed) (tag := tag)]
      · change ({ Link.reset with
          locked := (s.link n).locked, errors := (s.link n).errors, resyncNumber := (s.link n).resyncNumber,
          prompts := [{ tag := tag, reason := .badRequest }],
          tx := some { tag := tag, content := .refusal .badRequest ((s.helloClosed n).resetLink n).epoch true, position := 0 } } : Link) = _
        rw [hstay.epoch, hl]
      · rw [State.link_putLink, if_pos rfl, State.link_raise, hself, hclosed, setPrompts_addPrompt]
        rfl
    · rw [kick_eventSet]
      change { (((s.helloClosed n).resetLink n).eventSet.withDetail (.linkDown n)) with
        set := ((s.helloClosed n).resetLink n).eventSet.set ||| 0x080#12 } = _
      rw [resetLink_eventSet]
      rfl

end Sys2Proof.Machine
end

section
/-! PROOF. The end of an answer's transmission (7.7): the request leaves the queue and gives up what it holds. -/

namespace Sys2Proof.Machine

variable {s : State} {n : Nat}

theorem dropFetchPin_kept {c : Nat} (h : (s.copy c).lastPins 1 = false) :
    s.dropFetchPin c = s.putCopy c { s.copy c with fetchPins := (s.copy c).fetchPins - 1 } := by
  rw [State.dropFetchPin, settleCopy_kept]
  rw [State.copy_putCopy, if_pos rfl, leftOver_dropPin, h]

theorem dropSending_append {pre post : List Request} {q : Request} (hpre : ∀ y ∈ pre, y.stage ≠ .sending) (hq : q.stage = .sending) :
    dropSending (pre ++ q :: post) = pre ++ post := by
  induction pre with
  | nil => exact if_pos hq
  | cons y ys ih =>
    rw [List.cons_append, dropSending, if_neg (hpre y List.mem_cons_self), ih fun z hz => hpre z (List.mem_cons_of_mem _ hz)]
    rfl

theorem find_sending {pre post : List Request} {q : Request} (hpre : ∀ y ∈ pre, y.stage ≠ .sending) (hq : q.stage = .sending) :
    (pre ++ q :: post).find? (fun q => decide (q.stage = .sending)) = some q := by
  induction pre with
  | nil => exact List.find?_cons_of_pos (decide_eq_true hq)
  | cons y ys ih =>
    rw [List.cons_append, List.find?_cons_of_neg (by simpa using hpre y List.mem_cons_self),
      ih fun z hz => hpre z (List.mem_cons_of_mem _ hz)]

/-- The answer that link `n` has sent whole, and the queue around the request it answers. -/
structure State.Answering (s : State) (n : Nat) (f : TxFrame) (pre post : List Request) (q : Request) : Prop where
  tx : (s.link n).tx = some f
  queue : (s.link n).requests = pre ++ q :: post
  before : ∀ y ∈ pre, y.stage ≠ .sending
  stage : q.stage = .sending

/-- The queue without the answered request. -/
def State.withoutAnswered (s : State) (n : Nat) (rest : List Request) : State := s.putLink n { s.link n with requests := rest }

section
variable {f : TxFrame} {pre post : List Request} {q : Request}

theorem State.Answering.completeRequest (h : s.Answering n f pre post q) :
    s.completeRequest n = (s.withoutAnswered n (pre ++ post)).releaseRequest q := by
  rw [State.completeRequest, h.queue, find_sending h.before h.stage, dropSending_append h.before h.stage]
  rfl

/-- ANSWER_END, from the state in which the request has given up what it held. -/
theorem State.Answering.exec_answerEnd {n : LinkId} (h : s.Answering n f pre post q) (hf : f.content.isAnswer = true) {t : State}
    (ht : (s.withoutAnswered n (pre ++ post)).releaseRequest q = t) :
    exec (.answerEnd n) s = .next (State.kick n (t.putLink n { (t.link n).endCount f.content with tx := none })) := by
  have hc : s.sendingOn n = some f.content := by simp [State.sendingOn, h.tx]
  have htx : (t.link n).tx = some f := by
    rw [← ht, (settled_releaseRequest q (s.withoutAnswered n (pre ++ post))).links n]
    simp [State.withoutAnswered, h.tx]
  have hend : ((t.link n).endCount f.content).tx = some f := by
    rw [Link.endCount]
    split <;> exact htx
  have hrun : exec (.answerEnd n) s = .next (s.answerEnds n f.content) := by
    change Host.Outcome.next (match s.sendingOn n with
      | some c => if c.isAnswer then s.answerEnds n c else s
      | none => s) = _
    simp only [hc, hf, if_true]
  rw [hrun, State.answerEnds, h.completeRequest, ht]
  exact congrArg _ (frameEnds_putLink hend)

/-- A request that gives up nothing of a link leaves the link to one change. -/
theorem State.Answering.merge (h : s.Answering n f pre post q) {u : State} (hu : u.links = s.links) (l : Link) :
    (u.withoutAnswered n (pre ++ post)).putLink n l = u.putLink n l := by
  have hlink : u.link n = s.link n := by simp only [State.link, hu]
  refine State.putLink_putLink (x := { u.link n with requests := pre ++ post }) ?_ u n l
  exact ne_reset_of_sending (f := f) (by rw [hlink]; exact h.tx)

theorem endCount_of_not_refusal {l : Link} {c : Content} (h : c.isRefusal = false) : l.endCount c = l := by
  rw [Link.endCount, h]
  rfl

/-- The end of an answer whose release, if any, is one of the stores alone. -/
theorem State.Answering.exec_of_stores {n : LinkId} (h : s.Answering n f pre post q) (hf : f.content.isAnswer = true) {u : State}
    (hu : u.links = s.links)
    (hrel : (s.withoutAnswered n (pre ++ post)).releaseRequest q = u.withoutAnswered n (pre ++ post)) :
    exec (.answerEnd n) s = .next (State.kick n (u.putLink n
      { ({ s.link n with requests := pre ++ post } : Link).endCount f.content with tx := none })) := by
  rw [h.exec_answerEnd hf hrel, h.merge hu]
  have hlink : (u.withoutAnswered n (pre ++ post)).link n = { s.link n with requests := pre ++ post } := by
    simp [State.withoutAnswered, State.link, hu]
  rw [hlink]

end

/-- Settles O40: by what the answered request holds. -/
theorem answerEndReleases : Obligations.AnswerEndReleases := by
  intro n f pre post q s htx hreq hpre hq
  have h : s.Answering n f pre post q := ⟨htx, hreq, hpre, hq⟩
  refine ⟨fun r c hf hc hk hs => ?_, fun r c hf hc hk hs h1 hp => ?_, fun r k hf hc hk => ?_, fun hf hc hk => ?_,
    fun reason e hf hc hk => ?_⟩
  · have hlast : (s.copy c).lastPins 1 = false := by
      obtain hs | ⟨hs, hp | hp⟩ := hs
      · simp [Copy.lastPins, hs]
      · simp [Copy.lastPins, Nat.not_le.mpr hp]
      · simp [Copy.lastPins, hp]
    have hrel : (s.withoutAnswered n (pre ++ post)).releaseRequest q =
        (s.putCopy c { s.copy c with fetchPins := (s.copy c).fetchPins - 1 }).withoutAnswered n (pre ++ post) := by
      rw [releaseRequest_eq, hc, hk]
      exact dropFetchPin_kept (s := s.withoutAnswered n (pre ++ post)) hlast
    rw [h.exec_of_stores (u := s.putCopy c { s.copy c with fetchPins := (s.copy c).fetchPins - 1 }) (by rw [hf]; rfl) rfl hrel,
      endCount_of_not_refusal (by rw [hf]; rfl)]
  · have hlast : (s.copy c).lastPins 1 = true := by simp [Copy.lastPins, hs, h1, hp]
    have hrel : (s.withoutAnswered n (pre ++ post)).releaseRequest q = (s.withoutAnswered n (pre ++ post)).dropFetchPin c := by
      rw [releaseRequest_eq, hc, hk]
      rfl
    have hset : (s.withoutAnswered n (pre ++ post)).Settled ((s.withoutAnswered n (pre ++ post)).dropFetchPin c)
        (fun d => decide (d = c)) :=
      (settled_dropFetchPin _ c).congr fun d => by
        rw [show ((s.withoutAnswered n (pre ++ post)).copy c).lastPins 1 = true from hlast, Bool.and_true]
    obtain ⟨hfree, href⟩ := hset.counted_of (cs := [c]) (List.nodup_singleton c) (by simp)
    have hself (m : Nat) : (s.withoutAnswered n (pre ++ post)).link m =
        if m = n then { s.link n with requests := pre ++ post } else s.link m := State.link_putLink s n _ m
    have hkeep : (((s.withoutAnswered n (pre ++ post)).dropFetchPin c).link n).endCount f.content =
        ((s.withoutAnswered n (pre ++ post)).dropFetchPin c).link n := endCount_of_not_refusal (by rw [hf]; rfl)
    refine ⟨_, h.exec_answerEnd (by rw [hf]; rfl) hrel, (hset.gone c (decide_eq_true rfl)).2, fun k hk => ?_, hfree, ?_, fun k => ?_,
      hset.rows, ?_, ?_, fun hd => ⟨?_, fun m hm => ?_⟩, hset.events, ?_⟩
    · change ((s.withoutAnswered n (pre ++ post)).dropFetchPin c).copy k = _
      rw [dropFetchPin_copy, if_neg hk]
      rfl
    · refine hset.list.trans ?_
      simp [State.withoutAnswered]
    · change ((s.withoutAnswered n (pre ++ post)).dropFetchPin c).slot k = _
      have hread : (((s.withoutAnswered n (pre ++ post)).dropFetchPin c).slot k).readerCount = (s.slot k).readerCount :=
        dropFetchPin_readerCount _ c k
      have hslot := hset.slots k
      rw [hread, href] at hslot
      rw [hslot]
      by_cases hp : (s.copy c).profile = some k <;> simp [State.withoutAnswered, hp]
    · rw [State.link_putLink, if_pos rfl, hkeep, hset.links n, hself, if_pos rfl]
    · rw [State.link_putLink, if_pos rfl]
    · rw [State.link_putLink, if_pos rfl, hkeep, hset.watchCounts hd, hself, if_pos rfl]
    · rw [State.link_putLink, if_neg hm, hset.watchCounts hd, hself, if_neg hm]
    · exact ((sameOutside_putLink s n _).trans hset.outside).trans (sameOutside_putLink _ n _)
  · have hrel : (s.withoutAnswered n (pre ++ post)).releaseRequest q =
        (s.putSlot k { s.slot k with readerCount := (s.slot k).readerCount - 1 }).withoutAnswered n (pre ++ post) := by
      rw [releaseRequest_eq, hc, hk]
      rfl
    rw [h.exec_of_stores (u := s.putSlot k { s.slot k with readerCount := (s.slot k).readerCount - 1 }) (by rw [hf]; rfl) rfl hrel,
      endCount_of_not_refusal (by rw [hf]; rfl)]
  · have hrel : (s.withoutAnswered n (pre ++ post)).releaseRequest q = s.withoutAnswered n (pre ++ post) := by
      rw [releaseRequest_eq, hc, hk]
      rfl
    obtain ⟨a, e, hf⟩ | ⟨a, hf⟩ := hf
    all_goals rw [h.exec_of_stores (by rw [hf]; rfl) rfl hrel, endCount_of_not_refusal (by rw [hf]; rfl)]
  · have hrel : (s.withoutAnswered n (pre ++ post)).releaseRequest q = s.withoutAnswered n (pre ++ post) := by
      rw [releaseRequest_eq, hc, hk]
      rfl
    rw [h.exec_of_stores (by rw [hf]; rfl) rfl hrel, hf]
    rfl

end Sys2Proof.Machine
end

section
/-! PROOF. A save's beginning and its early ends (9.3, 9.4): its list with the pins set, and what giving them up leaves. -/

namespace Sys2Proof.Machine

variable {s t : State}

/-! ### Early ends (R169) -/

theorem spoilTarget_idleSave (x : Snapshot) : x.spoilTarget.idleSave = { x with
    savePhase := .idle, saveEpoch := none, saveList := [], profileSet := [], target := none, sequence := none, writePos := 0,
    check := none, surveyA := if x.target = some .bankA then .invalid else x.surveyA,
    surveyB := if x.target = some .bankB then .invalid else x.surveyB } := by
  cases h : x.target with
  | none => simp [Snapshot.spoilTarget, Snapshot.idleSave, h]
  | some b => cases b <;> simp [Snapshot.spoilTarget, Snapshot.idleSave, Snapshot.putSurvey, h]

/-- What a save's early end writes over the stores that giving up the pins left. -/
theorem saveEnded_of_pinsGivenUp {u : State} {f : Nat → Bool} {y : Snapshot} (k : FailKind) (h : s.Settled u f)
    (hp : s.PinsGivenUp (s.snap.saveList.map SaveItem.copy) u)
    (hy : y = { s.snap.spoilTarget.idleSave with last := .saveFailed k s.snap.target s.snap.writePos }) :
    s.SaveEnded (((u.setSnap y).setFlash { u.flash with op := none }).raise (.saveFailed k)) k where
  snap := by
    rw [spoilTarget_idleSave] at hy
    exact hy
  pins := ⟨hp.copies, hp.rows, hp.list, hp.slots, hp.counts, hp.links, hp.watchCounts⟩
  op := rfl
  raised := by
    change { (u.eventSet.withDetail (.saveFailed k)) with set := u.eventSet.set ||| 0x008#12 } = _
    rw [h.events]
    rfl
  pending := h.outside.pending
  session := h.outside.session
  epoch := h.outside.epoch
  staged := h.outside.staged
  markerCount := h.outside.markerCount
  switchRecord := h.outside.switchRecord
  engine := h.engine
  opState := h.outside.opState
  params := h.outside.params
  freeTick := h.outside.freeTick
  ports := ⟨h.outside.ports.host, h.outside.ports.service, h.outside.ports.hostMask, h.outside.ports.serviceMask⟩

theorem saveEnded_endSave (k : FailKind) (s : State) : s.SaveEnded (s.endSave k) k :=
  saveEnded_of_pinsGivenUp k (settled_clearSnapPins _ s) (pinsGivenUp_clearSnapPins _ s) rfl

theorem State.PinsGivenUp.unpinned {cs : List Nat} (h : s.PinsGivenUp cs t) {c : Nat} (hc : c ∈ cs) : (t.copy c).snapPin = false := by
  rw [h.copies, if_pos hc]
  split <;> rfl

theorem State.SaveEnded.unpinned {k : FailKind} (h : s.SaveEnded t k) : ∀ i ∈ s.snap.saveList, (t.copy i.copy).snapPin = false :=
  fun _ hi => h.pins.unpinned (List.mem_map_of_mem hi)

theorem endSave_flash (k : FailKind) (s : State) : (s.endSave k).flash = { s.flash with op := none } := by
  obtain ⟨-, -, -, -, hflash, -⟩ := endSave_fields k s
  exact hflash

/-- Settles O21: by the save phase. -/
theorem abortSaveByPhase : Obligations.AbortSaveByPhase := by
  intro p seq s h
  have hx := exec_plain (args := []) seq h (by decide) rfl (by decide) rfl rfl
  refine ⟨fun hi => ?_, fun hh => ?_, fun hr => ⟨s.endSave .aborted, ?_, saveEnded_endSave _ s, (saveEnded_endSave _ s).unpinned,
    endSave_flash _ s⟩⟩
  · have hp : s.perform p .abortSave [] = (s, { code := .done, data := [s.abortWord 0] }) := by
      change s.takeAbortSave = _
      rw [State.takeAbortSave, hi]
    rw [hp, State.abortWord, hi] at hx
    exact hx
  · have hp : s.perform p .abortSave [] = (s, { code := .done, data := [s.abortWord 2] }) := by
      change s.takeAbortSave = _
      rw [State.takeAbortSave, hh]
    rw [hp, State.abortWord, hh] at hx
    exact hx
  · have hp : s.perform p .abortSave [] = (s.endSave .aborted, { code := .done, data := [s.abortWord 1] }) := by
      change s.takeAbortSave = _
      rw [State.takeAbortSave]
      obtain hr | hr | hr := hr
      all_goals rw [hr]
    rw [hp] at hx
    exact hx

namespace State.SameStores

theorem setOpState (s : State) (o : OpState) : s.SameStores (s.setOpState o) :=
  ⟨rfl, rfl, rfl, rfl, rfl, rfl, rfl, rfl, rfl, rfl, rfl, rfl, rfl, rfl, rfl, rfl, rfl, ⟨rfl, rfl, rfl, rfl⟩⟩

theorem setSnap (s : State) (x : Snapshot) : s.SameStores (s.setSnap x) :=
  ⟨rfl, rfl, rfl, rfl, rfl, rfl, rfl, rfl, rfl, rfl, rfl, rfl, rfl, rfl, rfl, rfl, rfl, ⟨rfl, rfl, rfl, rfl⟩⟩

theorem setFlash (s : State) (f : Flash) : s.SameStores (s.setFlash f) :=
  ⟨rfl, rfl, rfl, rfl, rfl, rfl, rfl, rfl, rfl, rfl, rfl, rfl, rfl, rfl, rfl, rfl, rfl, ⟨rfl, rfl, rfl, rfl⟩⟩

theorem setEventSet (s : State) (e : EventSet) : s.SameStores (s.setEventSet e) :=
  ⟨rfl, rfl, rfl, rfl, rfl, rfl, rfl, rfl, rfl, rfl, rfl, rfl, rfl, rfl, rfl, rfl, rfl, ⟨rfl, rfl, rfl, rfl⟩⟩

theorem trans {u : State} (h : s.SameStores t) (k : t.SameStores u) : s.SameStores u :=
  ⟨k.rows.trans h.rows, k.index.trans h.index, k.copies.trans h.copies, k.free.trans h.free, k.superseded.trans h.superseded,
    k.armed.trans h.armed, k.slots.trans h.slots, k.session.trans h.session, k.epoch.trans h.epoch, k.staged.trans h.staged,
    k.markerCount.trans h.markerCount, k.switchRecord.trans h.switchRecord, k.links.trans h.links, k.engine.trans h.engine,
    k.params.trans h.params, k.pending.trans h.pending, k.freeTick.trans h.freeTick, h.ports.trans k.ports⟩

theorem restoreFails (k : FailKind) (s : State) : s.SameStores (s.restoreFails k) :=
  (((setOpState s _).trans (setSnap _ _)).trans (setFlash _ _)).trans (setEventSet _ _)

end State.SameStores

theorem restoreFailed_restoreFails (k : FailKind) (s : State) :
    s.RestoreFailed (s.restoreFails k) k s.snap.triedA s.snap.triedB where
  cold h := by
    change originState s.snap.origin = _
    rw [h]
    rfl
  held h := by
    change originState s.snap.origin = _
    rw [h]
    rfl
  idle := ⟨rfl, rfl, rfl, rfl, rfl, rfl, rfl, rfl⟩
  last := rfl
  op := rfl
  epoch := rfl
  links := rfl
  beside := State.SameBesideRestore.restoreFails k s

theorem exec_flashAbsent (h : s.flash.op = some .identify) :
    exec .flashAbsent s = .next (if s.saving then s.endSave .flashAbsent else s.restoreFails .flashAbsent) :=
  congrArg Host.Outcome.next (if_pos h)

theorem exec_eraseTimeout {b : Bank} (h : s.flash.op = some (.erase b)) : exec .eraseTimeout s = .next (s.endSave .eraseTimeout) := by
  change execEraseTimeout s = _
  rw [execEraseTimeout, h]

theorem exec_programTimeout {b : Bank} {g : Nat} (h : s.flash.op = some (.program b g)) :
    exec .programTimeout s = .next (s.endSave .programTimeout) := by
  change execProgramTimeout s = _
  rw [execProgramTimeout, h]

/-- Settles O42: by the operation waited for. -/
theorem flashFailuresEndTheirOperation : Obligations.FlashFailuresEndTheirOperation := by
  intro s i k
  refine ⟨fun hs hi => ⟨s.endSave k, ?_, saveEnded_endSave k s, (saveEnded_endSave k s).unpinned, endSave_flash k s⟩,
    fun hs hop => ⟨s.restoreFails .flashAbsent, ?_, restoreFailed_restoreFails _ s, rfl, rfl, State.SameStores.restoreFails _ s⟩⟩
  · obtain ⟨rfl, rfl, hop⟩ | ⟨rfl, rfl, b, hop⟩ | ⟨rfl, rfl, b, g, hop⟩ := hi
    · rw [exec_flashAbsent hop, hs]
      rfl
    · exact exec_eraseTimeout hop
    · exact exec_programTimeout hop
  · rw [exec_flashAbsent hop, hs]
    rfl

/-! ### The beginning of a save (R163) -/

theorem setSnapPins_copy (cs : List Nat) (s : State) (c : Nat) : (State.forEach State.setSnapPin cs s).copy c =
    if c ∈ cs then { s.copy c with snapPin := true } else s.copy c := by
  induction cs generalizing s with
  | nil => rfl
  | cons d cs ih =>
    rw [State.forEach, ih, State.setSnapPin, State.copy_putCopy]
    by_cases hd : c = d
    · subst hd
      simp
    · simp [hd]

theorem setSnapPins_keep {α : Type} (g : State → α) (hg : ∀ (u : State) c x, g (u.putCopy c x) = g u) (cs : List Nat) (s : State) :
    g (State.forEach State.setSnapPin cs s) = g s := forEach_keep g (fun _ _ => hg _ _ _) cs s

theorem mem_saveItems {i : SaveItem} :
    i ∈ s.saveItems ↔ (s.row i.row).visibleAt s.epoch = true ∧ i.copy = ((s.row i.row).live).getD 0 := by
  simp only [State.saveItems, List.mem_map, List.mem_filter, orZero_eq_getD]
  constructor
  · rintro ⟨r, ⟨-, hv⟩, rfl⟩
    exact ⟨hv, rfl⟩
  · rintro ⟨hv, hc⟩
    refine ⟨i.row, ⟨mem_keys_of_ne (d := Row.free) fun hf => ?_, hv⟩, by rw [← hc]⟩
    have hf' : s.row i.row = Row.free := hf
    rw [hf'] at hv
    cases hv

theorem mem_activeSlots {k : Nat} : k ∈ s.activeSlots ↔ (s.slot k).state = .active := by
  simp only [State.activeSlots, List.mem_filter, decide_eq_true_eq, and_iff_right_iff_imp]
  intro h
  refine mem_keys_of_ne (d := Slot.free) fun hf => ?_
  have hf' : s.slot k = Slot.free := hf
  rw [hf'] at h
  cases h

theorem Table.keys_pairwise {α : Type} {t : Table α} (h : Table.rising t = true) : t.keys.Pairwise (· < ·) := by
  induction t with
  | nil => exact List.Pairwise.nil
  | cons e t ih =>
    obtain ⟨hfrom, hrest⟩ := Table.rising_cons.1 h
    refine List.pairwise_cons.2 ⟨fun j hj => ?_, ih hrest⟩
    obtain ⟨x, hx, rfl⟩ := List.mem_map.1 hj
    exact hfrom x hx

theorem Table.rising_of_wf {α : Type} [DecidableEq α] {d : α} {t : Table α} (h : Table.wf d t = true) : Table.rising t = true := by
  rw [Table.wf, Bool.and_eq_true] at h
  exact h.1

/-- Settles O20: the list and the pins of a save that begins, and what it is refused with. -/
theorem saveBegins : Obligations.SaveBegins := by
  intro p seq s h
  have hx := exec_plain (args := []) seq h (by decide) rfl (by decide) rfl rfl
  refine ⟨fun hs => ?_, fun hs hw => ?_, fun hs hw => ⟨s.beginSave, ?_, ?_⟩⟩
  · have hp : s.perform p .save [] = (s, .bare .saveActive) := if_pos hs
    rw [hp] at hx
    exact hx
  · have hp : s.perform p .save [] = (s, .bare .notReady) := by
      change s.takeSave = _
      rw [State.takeSave, hs, hw]
      rfl
    rw [hp] at hx
    exact hx
  · have hp : s.perform p .save [] = (s.beginSave, { code := .accepted, data :=
        [numWord s.epoch, packWord [(s.saveItems.length, 0), (s.activeSlots.length, 16)]] }) := by
      change s.takeSave = _
      rw [State.takeSave, hs, hw]
      rfl
    rw [hp] at hx
    exact hx
  · have hkeep {α : Type} (g : State → α) (hg : ∀ (u : State) c x, g (u.putCopy c x) = g u) :
        g (State.forEach State.setSnapPin (s.saveItems.map SaveItem.copy) s) = g s := setSnapPins_keep g hg _ s
    have hcopy (c : Nat) : s.beginSave.copy c = if c ∈ s.saveItems.map SaveItem.copy then { s.copy c with snapPin := true } else s.copy c :=
      setSnapPins_copy _ s c
    obtain ⟨hflash, hop, hepoch, hsession, hstaged, -⟩ := beginSave_fields s
    refine ⟨?_, fun i => mem_saveItems, fun k => mem_activeSlots, fun hk => ⟨?_, ?_⟩, fun i hi => ?_, fun c => ?_, fun c hc => ?_, hflash,
      fun r => congrFun (hkeep State.row (fun _ _ _ => rfl)) r, hkeep State.slots (fun _ _ _ => rfl), hepoch, hop, hsession, hstaged,
      hkeep State.links (fun _ _ _ => rfl), hkeep State.eventSet (fun _ _ _ => rfl), ?_⟩
    · have hsnap : s.beginSave.snap = { (State.forEach State.setSnapPin (s.saveItems.map SaveItem.copy) s).snap with
        savePhase := .erasing, saveEpoch := some s.epoch, saveList := s.saveItems, profileSet := s.activeSlots, target := none,
        sequence := none, writePos := 0, check := some crc32Start } := rfl
      rw [hsnap, hkeep State.snap (fun _ _ _ => rfl)]
      rfl
    · exact List.pairwise_map.2 (((Table.keys_pairwise (Table.rising_of_wf hk.rowTable.1)).filter _).imp id)
    · exact (Table.keys_pairwise (Table.rising_of_wf hk.slotTable.1)).filter _
    · have hm : i.copy ∈ s.saveItems.map SaveItem.copy := List.mem_map_of_mem hi
      rw [hcopy, if_pos hm]
    · rw [hcopy]
      split
      · exact .inr rfl
      · exact .inl rfl
    · rw [hcopy, if_neg]
      intro hm
      obtain ⟨i, hi, he⟩ := List.mem_map.1 hm
      exact hc i hi he
    · exact ⟨hkeep State.host (fun _ _ _ => rfl), hkeep State.service (fun _ _ _ => rfl), hkeep State.hostMask (fun _ _ _ => rfl),
        hkeep State.serviceMask (fun _ _ _ => rfl)⟩

end Sys2Proof.Machine
end

section
/-! PROOF. Erases and programs (9.2, 9.3): the bytes they leave in the flash, and the page of a save that each begins next. -/

namespace Sys2Proof.Machine

variable {s t u : State}

/-! ### Flash bytes (R159, R162) -/

theorem readByte_writeBytes {a : Nat} {vs : List Byte} {cells : List Host.Cell} (h : a + vs.length ≤ Config.flashBytes) (k : Nat) :
    readByte (writeBytes a vs cells) k = if a ≤ k ∧ k < a + vs.length then vs.getD (k - a) 0#8 else readByte cells k := by
  induction vs generalizing a cells with
  | nil => rw [if_neg (by simp), writeBytes]
  | cons v vs ih =>
    rw [List.length_cons] at h
    have ha : a < Config.flashBytes := by omega
    rw [writeBytes, ih (by omega), readByte_writeByte, List.length_cons]
    by_cases hk : k = a
    · subst hk
      rw [if_neg (by omega), if_pos ⟨rfl, ha⟩, if_pos (by omega), Nat.sub_self, List.getD_cons_zero]
    · rw [if_neg (c := k = a ∧ a < Config.flashBytes) (fun hc => hk hc.1)]
      by_cases hin : a + 1 ≤ k ∧ k < a + 1 + vs.length
      · obtain ⟨j, rfl⟩ : ∃ j, k = a + 1 + j := ⟨k - (a + 1), by omega⟩
        rw [if_pos hin, if_pos (by omega), show a + 1 + j - (a + 1) = j by omega, show a + 1 + j - a = j + 1 by omega,
          List.getD_cons_succ]
      · rw [if_neg hin, if_neg (by omega)]

theorem readBytes_eq {cells : List Host.Cell} {a : Nat} {vs : List Byte}
    (h : ∀ i, i < vs.length → readByte cells (a + i) = vs.getD i 0#8) : readBytes cells a vs.length = vs := by
  induction vs generalizing a with
  | nil => rfl
  | cons v vs ih =>
    have hv : readByte cells a = v := h 0 (Nat.succ_pos _)
    have hrest : readBytes cells (a + 1) vs.length = vs := ih fun i hi => by
      have hi' := h (i + 1) (Nat.succ_lt_succ hi)
      rwa [List.getD_cons_succ, show a + (i + 1) = a + 1 + i by omega] at hi'
    rw [List.length_cons, readBytes, hv, hrest]

theorem pageAddress_le (b : Bank) {page : Nat} (h : page < 512) : pageAddress b page + 256 ≤ Config.flashBytes := by
  cases b
  · change 0 + page * 256 + 256 ≤ 262144
    omega
  · change 131072 + page * 256 + 256 ≤ 262144
    omega

/-- A page programmed whole reads back as what was programmed. -/
theorem readPage_writeBytes {b : Bank} {page : Nat} {bytes : List Byte} (h : page < 512) (hl : bytes.length = 256) (cells : List Host.Cell) :
    readPage (writeBytes (pageAddress b page) bytes cells) b page = bytes := by
  have hroom : pageAddress b page + bytes.length ≤ Config.flashBytes := hl ▸ pageAddress_le b h
  have hread := readBytes_eq (cells := writeBytes (pageAddress b page) bytes cells) (a := pageAddress b page) (vs := bytes)
    fun i hi => by rw [readByte_writeBytes hroom, if_pos ⟨Nat.le_add_right _ _, by omega⟩, Nat.add_sub_cancel_left]
  rw [hl] at hread
  exact hread

/-! ### The next page of a save (R165 to R167) -/

/-- `t` is `s` with a page of a save begun. -/
def State.StartsPage (s t : State) : Prop :=
  ∃ ph bk page bytes, t = (s.setSnap { s.snap with savePhase := ph }).beginProgram bk page bytes

theorem nextRecordPage_starts (page : Nat) (s : State) : s.StartsPage (s.nextRecordPage page) := by
  unfold State.nextRecordPage
  split
  · exact ⟨_, _, _, _, rfl⟩
  · exact ⟨_, _, _, _, rfl⟩

theorem nextProfilePage_starts (page : Nat) (s : State) : s.StartsPage (s.nextProfilePage page) := by
  unfold State.nextProfilePage
  split
  · exact nextRecordPage_starts page s
  · exact ⟨_, _, _, _, rfl⟩

theorem State.SameStores.beginProgram (s : State) (bk : Bank) (page : Nat) (bytes : List Byte) :
    s.SameStores (s.beginProgram bk page bytes) := setFlash s _

namespace State.StartsPage

theorem snap (h : s.StartsPage t) : t.snap = { s.snap with savePhase := t.snap.savePhase } := by
  obtain ⟨ph, bk, page, bytes, rfl⟩ := h
  rfl

theorem cells (h : s.StartsPage t) : t.flash.cells = s.flash.cells := by
  obtain ⟨ph, bk, page, bytes, rfl⟩ := h
  rfl

theorem opState (h : s.StartsPage t) : t.opState = s.opState := by
  obtain ⟨ph, bk, page, bytes, rfl⟩ := h
  rfl

theorem eventSet (h : s.StartsPage t) : t.eventSet = s.eventSet := by
  obtain ⟨ph, bk, page, bytes, rfl⟩ := h
  rfl

theorem stores (h : s.StartsPage t) : s.SameStores t := by
  obtain ⟨ph, bk, page, bytes, rfl⟩ := h
  exact (State.SameStores.setSnap s _).trans (.beginProgram _ _ _ _)

end State.StartsPage

theorem header_eq_headerWith (x : Snapshot) : x.header = x.headerWith (x.check.getD 0xFFFFFFFF#32) := by
  simp only [Snapshot.header, Snapshot.headerWith, orZero_eq_getD]
  rfl

theorem bank_of_target {x : Snapshot} {b : Bank} (h : x.target = some b) : x.bank = b := by simp [Snapshot.bank, h]

theorem nextRecordPage_records {b : Bank} (hb : s.snap.target = some b) (page : Nat) (h : s.snap.saveList.drop s.snap.writePos ≠ []) :
    (s.nextRecordPage page).PageBegun .records b page
      (fillTo 256 (s.recordBytes ((s.snap.saveList.drop s.snap.writePos).take 4))) := by
  have hne : s.snap.nextItems ≠ [] := by simpa [Snapshot.nextItems] using h
  rw [State.nextRecordPage, if_neg hne, bank_of_target hb]
  exact ⟨rfl, rfl, rfl⟩

theorem nextRecordPage_header {b : Bank} (hb : s.snap.target = some b) (page : Nat) (h : s.snap.saveList.drop s.snap.writePos = []) :
    (s.nextRecordPage page).PageBegun .header b 0 (headerPage (s.snap.headerWith (s.snap.check.getD 0xFFFFFFFF#32))) := by
  have he : s.snap.nextItems = [] := by rw [Snapshot.nextItems, h, List.take_nil]
  rw [State.nextRecordPage, if_pos he, State.enterHeader, bank_of_target hb, header_eq_headerWith]
  exact ⟨rfl, rfl, rfl⟩

theorem nextProfilePage_profiles {b : Bank} (hb : s.snap.target = some b) (page : Nat)
    (h : s.snap.profileSet.drop (2 * (page - 1)) ≠ []) : (s.nextProfilePage page).PageBegun .profiles b page
      (fillTo 256 (s.profileBytes ((s.snap.profileSet.drop (2 * (page - 1))).take 2))) := by
  have hne : s.snap.profilesOn page ≠ [] := by simpa [Snapshot.profilesOn] using h
  rw [State.nextProfilePage, if_neg hne, bank_of_target hb]
  exact ⟨rfl, rfl, rfl⟩

theorem nextProfilePage_done {page : Nat} (h : s.snap.profileSet.drop (2 * (page - 1)) = []) :
    s.nextProfilePage page = s.nextRecordPage page := by
  rw [State.nextProfilePage, if_pos]
  rw [Snapshot.profilesOn, h, List.take_nil]

theorem nextProfilePage_records {b : Bank} (hb : s.snap.target = some b) {page : Nat} (h : s.snap.profileSet.drop (2 * (page - 1)) = [])
    (h' : s.snap.saveList.drop s.snap.writePos ≠ []) : (s.nextProfilePage page).PageBegun .records b page
      (fillTo 256 (s.recordBytes ((s.snap.saveList.drop s.snap.writePos).take 4))) := by
  rw [nextProfilePage_done h]
  exact nextRecordPage_records hb page h'

theorem nextProfilePage_header {b : Bank} (hb : s.snap.target = some b) {page : Nat} (h : s.snap.profileSet.drop (2 * (page - 1)) = [])
    (h' : s.snap.saveList.drop s.snap.writePos = []) : (s.nextProfilePage page).PageBegun .header b 0
      (headerPage (s.snap.headerWith (s.snap.check.getD 0xFFFFFFFF#32))) := by
  rw [nextProfilePage_done h]
  exact nextRecordPage_header hb page h'

/-! ### An erase and a program (R162, R164 to R167) -/

theorem exec_bankEraseDone {b : Bank} (hd : s.flash.device = some (.erase b)) (ho : s.flash.op = some (.erase b)) :
    exec .bankEraseDone s = .next (((s.setFlash { cells := eraseBank b s.flash.cells, device := none, op := none }).setSnap
      { s.snap with savePhase := .profiles }).nextProfilePage 1) := by
  change execBankEraseDone s = _
  rw [execBankEraseDone, Flash.settled, hd, ho]
  rfl

/-- The flash's cells as a program leaves them, bytes changed from outside included. -/
def State.programmed (s : State) (b : Bank) (page : Nat) (bytes : List Byte) (changes : List Host.Cell) : List Host.Cell :=
  applyChanges changes (writeBytes (pageAddress b page) bytes s.flash.cells)

/-- The state as a program leaves it to the save that waited for it, its read-back apart. -/
def State.flashWritten (s : State) (b : Bank) (page : Nat) (bytes : List Byte) (changes : List Host.Cell) : State :=
  s.setFlash { cells := s.programmed b page bytes changes, device := none, op := none }

section
variable {b : Bank} {page : Nat} {bytes : List Byte} {changes : List Host.Cell} (hd : s.flash.device = some (.program b page bytes))
  (ho : s.flash.op = some (.program b page))
include hd ho

theorem exec_pageProgramDone_matched (h : readPage (s.programmed b page bytes changes) b page = bytes) :
    exec (.pageProgramDone changes) s = .next ((s.flashWritten b page bytes changes).pageMatched
      page) := by
  change execPageProgramDone changes s = _
  rw [execPageProgramDone, Flash.settled, hd, ho]
  exact congrArg _ (if_pos h)

theorem exec_pageProgramDone_mismatched (h : readPage (s.programmed b page bytes changes) b page ≠ bytes) :
    exec (.pageProgramDone changes) s = .next ((s.setFlash { cells := s.programmed b page bytes changes, device := none, op := s.flash.op }).endSave
      .verifyMismatch) := by
  change execPageProgramDone changes s = _
  rw [execPageProgramDone, Flash.settled, hd, ho]
  exact congrArg _ (if_neg h)

end

theorem State.SaveEnded.of_setFlash {f : Flash} {k : FailKind} (h : (s.setFlash f).SaveEnded t k) : s.SaveEnded t k :=
  ⟨h.snap, ⟨h.pins.copies, h.pins.rows, h.pins.list, h.pins.slots, h.pins.counts, h.pins.links, h.pins.watchCounts⟩, h.op, h.raised,
    h.pending, h.session, h.epoch, h.staged, h.markerCount, h.switchRecord, h.engine, h.opState, h.params, h.freeTick,
    ⟨h.ports.host, h.ports.service, h.ports.hostMask, h.ports.serviceMask⟩⟩

theorem State.SameStores.saveCompletes (s : State) : s.SameStores s.saveCompletes := (setSnap s _).trans (setEventSet _ _)

theorem putSurvey_valid_idleSave (x : Snapshot) (b : Bank) (h : BankHeader) (r : LastResult) :
    { (x.putSurvey b (.valid h)).idleSave with last := r } = { x with
      savePhase := .idle, saveEpoch := none, saveList := [], profileSet := [], target := none, sequence := none, writePos := 0,
      check := none, surveyA := if b = .bankA then .valid h else x.surveyA,
      surveyB := if b = .bankB then .valid h else x.surveyB, last := r } := by
  cases b <;> simp [Snapshot.putSurvey, Snapshot.idleSave]

theorem pageMatched_profiles (page : Nat) (h : s.snap.savePhase = .profiles) : s.pageMatched page = s.profilePageMatched page := by
  rw [State.pageMatched, h]

theorem pageMatched_records (page : Nat) (h : s.snap.savePhase = .records) : s.pageMatched page = s.recordPageMatched page := by
  rw [State.pageMatched, h]

theorem pageMatched_header (page : Nat) (h : s.snap.savePhase = .header) : s.pageMatched page = s.saveCompletes := by
  rw [State.pageMatched, h]

theorem pageMatched_epoch_opState (page : Nat) (s : State) :
    (s.pageMatched page).epoch = s.epoch ∧ (s.pageMatched page).opState = s.opState := by
  rw [State.pageMatched]
  cases s.snap.savePhase with
  | idle => exact ⟨rfl, rfl⟩
  | erasing => exact ⟨rfl, rfl⟩
  | profiles => exact ⟨(profilePageMatched_moves page s).epoch, (profilePageMatched_moves page s).opState⟩
  | records => exact ⟨(recordPageMatched_moves page s).epoch, (recordPageMatched_moves page s).opState⟩
  | header => exact ⟨rfl, rfl⟩

/-- Settles O46: the bytes first, then the page begun or the end of the save. -/
theorem flashWritesLandAndLeadOn : Obligations.FlashWritesLandAndLeadOn := by
  intro s b
  refine ⟨fun hd ho hs hb => ⟨_, exec_bankEraseDone hd ho, ?_⟩, fun page bytes changes hd ho hp hl => ?_⟩
  · have hb' : (((s.setFlash { cells := eraseBank b s.flash.cells, device := none, op := none }).setSnap
      { s.snap with savePhase := .profiles }).snap).target = some b := hb
    have hstart := nextProfilePage_starts 1 ((s.setFlash { cells := eraseBank b s.flash.cells, device := none, op := none }).setSnap
      { s.snap with savePhase := .profiles })
    refine ⟨fun a => ?_, hstart.snap, fun h => nextProfilePage_profiles hb' 1 h, fun h h' => nextProfilePage_records (page := 1) hb' h h',
      fun h h' => nextProfilePage_header (page := 1) hb' h h', hstart.opState, hstart.eventSet, ((State.SameStores.setFlash s _).trans (.setSnap _ _)).trans hstart.stores⟩
    · rw [hstart.cells]
      exact readByte_eraseBank b s.flash.cells a
  · have hbytes (a : Nat) : readByte (s.programmed b page bytes []) a =
        if pageAddress b page ≤ a ∧ a < pageAddress b page + 256 then bytes.getD (a - pageAddress b page) 0#8
        else readByte s.flash.cells a := by
      have hroom : pageAddress b page + bytes.length ≤ Config.flashBytes := hl ▸ pageAddress_le b hp
      have hread := readByte_writeBytes hroom (cells := s.flash.cells) a
      rw [hl] at hread
      exact hread
    by_cases hm : readPage (s.programmed b page bytes changes) b page = bytes
    · obtain ⟨hepoch, hop⟩ := pageMatched_epoch_opState page
        (s.flashWritten b page bytes changes)
      have hports := (State.SameBesideRestore.pageMatched page
        (s.flashWritten b page bytes changes)).ports
      refine ⟨_, exec_pageProgramDone_matched hd ho hm, hepoch, hop, ⟨hports.host, hports.service, hports.hostMask, hports.serviceMask⟩,
        fun hc => ⟨fun a => ?_, ?_⟩, fun _ hph hb => ?_, fun hne => absurd hm hne⟩
      · subst hc
        rw [cells_pageMatched]
        exact hbytes a
      · subst hc
        exact readPage_writeBytes hp hl _
      · refine ⟨_, rfl, ?_⟩
        rw [pageMatched_header page (s := s.flashWritten b page bytes changes) hph]
        refine ⟨?_, rfl, rfl, rfl, (State.SameStores.setFlash s _).trans (.saveCompletes _)⟩
        rw [← header_eq_headerWith, ← bank_of_target hb]
        exact putSurvey_valid_idleSave s.snap s.snap.bank s.snap.header _
    · have hended := saveEnded_endSave .verifyMismatch
        (s.setFlash { cells := s.programmed b page bytes changes, device := none, op := s.flash.op })
      have hend := hended.of_setFlash
      refine ⟨_, exec_pageProgramDone_mismatched hd ho hm, hend.epoch, hend.opState, hend.ports, fun hc => ⟨fun a => ?_, ?_⟩,
        fun h _ _ => absurd h hm, fun _ => ⟨hend, hend.unpinned⟩⟩
      · subst hc
        rw [cells_endSave]
        exact hbytes a
      · subst hc
        exact readPage_writeBytes hp hl _

/-! ### A page that reads back right (R165, R166) -/

theorem check32_bits (v : Word) (bs : List Byte) : crc32From v bs = (bs.flatMap bitsOf).foldl
    (fun (r : Word) (b : Bool) => if r.getLsbD 31 = b then r <<< 1 else (r <<< 1) ^^^ 0x04C11DB7#32) v :=
  foldl_crcBit_bitsDown 0x04C11DB7#32 v bs

/-- A record page that matched has its pins given up and the write position moved, before the next page is begun. -/
def State.recordsWritten (s : State) : State :=
  let u := (s.extendCheck (s.recordBytes s.snap.nextItems)).clearListedPins s.snap.nextItems
  u.setSnap { u.snap with writePos := u.snap.writePos + s.snap.nextItems.length }

theorem recordPageMatched_eq (page : Nat) (s : State) : s.recordPageMatched page = s.recordsWritten.nextRecordPage (page + 1) := rfl

theorem recordsWritten_settled (s : State) : (s.extendCheck (s.recordBytes s.snap.nextItems)).Settled
    ((s.extendCheck (s.recordBytes s.snap.nextItems)).clearListedPins s.snap.nextItems)
    (fun c => decide (c ∈ s.snap.nextItems.map SaveItem.copy) && (s.copy c).lastSnapPin) := settled_clearSnapPins _ _

theorem recordsWritten_snap {v : Word} (hv : s.snap.check = some v) : s.recordsWritten.snap = { s.snap with
    check := some (crc32From v (s.recordBytes s.snap.nextItems)),
    writePos := s.snap.writePos + s.snap.nextItems.length } := by
  have h := (recordsWritten_settled s).outside.snap
  change { ((s.extendCheck (s.recordBytes s.snap.nextItems)).clearListedPins s.snap.nextItems).snap with
    writePos := ((s.extendCheck (s.recordBytes s.snap.nextItems)).clearListedPins s.snap.nextItems).snap.writePos +
      s.snap.nextItems.length } = _
  rw [h, State.extendCheck, hv]
  rfl

/-- What follows at the snapshot unit and the flash interface leaves what was given up. -/
theorem State.PinsGivenUp.of_same {cs : List Nat} (h : s.PinsGivenUp cs t) (k : t.SameStores u) : s.PinsGivenUp cs u := by
  have hrow : u.row = t.row := funext fun r => by simp only [State.row, k.rows]
  have hcopy : u.copy = t.copy := funext fun c => by simp only [State.copy, k.copies]
  have hslot : u.slot = t.slot := funext fun j => by simp only [State.slot, k.slots]
  have hlink : u.link = t.link := funext fun n => by simp only [State.link, k.links]
  obtain ⟨h1, h2, h3, h4, h5, h6, h7⟩ := h
  refine ⟨by rwa [hcopy], fun r => ?_, by rwa [k.superseded], by rwa [hslot], by rwa [k.free, hslot], by rwa [hlink], by rwa [hlink]⟩
  rw [State.RowSettled, hrow, hcopy, k.index]
  exact h2 r

theorem profilePageMatched_eq {v : Word} (hv : s.snap.check = some v) (page : Nat) : s.profilePageMatched page =
    (s.setSnap { s.snap with check := some (crc32From v
      (s.profileBytes ((s.snap.profileSet.drop (2 * (page - 1))).take 2))) }).nextProfilePage (page + 1) := by
  rw [State.profilePageMatched, State.extendCheck, hv]
  rfl

theorem recordsWritten_stores (s : State) :
    ((s.extendCheck (s.recordBytes s.snap.nextItems)).clearListedPins s.snap.nextItems).SameStores s.recordsWritten :=
  State.SameStores.setSnap _ _

theorem recordsWritten_pins (s : State) : s.PinsGivenUp (s.snap.nextItems.map SaveItem.copy) s.recordsWritten := by
  have h := (pinsGivenUp_clearSnapPins (s.snap.nextItems.map SaveItem.copy) (s.extendCheck (s.recordBytes s.snap.nextItems))).of_same
    (recordsWritten_stores s)
  exact ⟨h.copies, h.rows, h.list, h.slots, h.counts, h.links, h.watchCounts⟩

theorem recordsWritten_eventSet (s : State) : s.recordsWritten.eventSet = s.eventSet := (recordsWritten_settled s).events

/-- Settles O47: by the phase of the save, and what is left to write. -/
theorem savePagesLeadOn : Obligations.SavePagesLeadOn := by
  refine ⟨check32_bits, fun b page bytes changes v s hd ho hb hpage hm hv hph => ⟨_, exec_pageProgramDone_matched hd ho hm, ?_⟩⟩
  have hports := (State.SameBesideRestore.pageMatched page
    (s.flashWritten b page bytes changes)).ports
  obtain ⟨hepoch, hop⟩ := pageMatched_epoch_opState page
    (s.flashWritten b page bytes changes)
  have hsame : s.SameStores (s.flashWritten b page bytes changes) := State.SameStores.setFlash s _
  have hports' : s.SamePorts ((s.flashWritten b page bytes changes).pageMatched page) :=
    ⟨hports.host, hports.service, hports.hostMask, hports.serviceMask⟩
  obtain hph | hph := hph
  · rw [pageMatched_profiles page (s := s.flashWritten b page bytes changes) hph] at hports' hepoch hop ⊢
    have hmoves := profilePageMatched_moves page
      (s.flashWritten b page bytes changes)
    rw [profilePageMatched_eq (s := s.flashWritten b page bytes changes) hv] at hports' hepoch hop hmoves ⊢
    have hstart := nextProfilePage_starts (page + 1)
      ((s.flashWritten b page bytes changes).setSnap
        { s.snap with check := some (crc32From v (s.profileBytes ((s.snap.profileSet.drop (2 * (page - 1))).take 2))) })
    have hb' : ((s.flashWritten b page bytes changes).setSnap
        { s.snap with check := some (crc32From v
          (s.profileBytes ((s.snap.profileSet.drop (2 * (page - 1))).take 2))) }).snap.target = some b := hb
    refine ⟨hepoch, hop, hstart.eventSet, hmoves.session, hmoves.staged, hports', fun w _ hw => ?_,
      fun _ _ _ h => absurd (hph.symm.trans h) (by decide)⟩
    subst hw
    exact ⟨hstart.snap, (hsame.trans (.setSnap _ _)).trans hstart.stores, fun h => nextProfilePage_profiles hb' (page + 1) h,
      fun h h' => nextProfilePage_records (page := page + 1) hb' h h', fun h h' => nextProfilePage_header (page := page + 1) hb' h h'⟩
  · rw [pageMatched_records page (s := s.flashWritten b page bytes changes) hph] at hports' hepoch hop ⊢
    have hmoves := recordPageMatched_moves page
      (s.flashWritten b page bytes changes)
    rw [recordPageMatched_eq] at hports' hepoch hop hmoves ⊢
    have hsnap := recordsWritten_snap (s := s.flashWritten b page bytes changes) hv
    have hpins := recordsWritten_pins (s.flashWritten b page bytes changes)
    have hevents := recordsWritten_eventSet (s.flashWritten b page bytes changes)
    generalize (s.flashWritten b page bytes changes).recordsWritten = y at *
    have hstart := nextRecordPage_starts (page + 1) y
    refine ⟨hepoch, hop, hstart.eventSet.trans hevents, hmoves.session, hmoves.staged, hports',
      fun _ h => absurd (hph.symm.trans h) (by decide), fun w l l' _ hl hl' hw => ?_⟩
    have hpins' := hpins.of_same hstart.stores
    have hrest : y.snap.saveList.drop y.snap.writePos = l' := by
      rw [hsnap, hl', hl]
      rfl
    have hcheck : y.snap.headerWith (y.snap.check.getD 0xFFFFFFFF#32) = s.snap.headerWith w := by
      rw [hsnap, hw, hl]
      rfl
    have hb' : y.snap.target = some b := by
      rw [hsnap]
      exact hb
    have hbytes : y.recordBytes = (y.nextRecordPage (page + 1)).recordBytes := by
      obtain ⟨ph, bk, pg, bs, he⟩ := hstart
      rw [he]
      rfl
    refine ⟨?_, ?_, fun h => ?_, fun h => ?_⟩
    · rw [hstart.snap, hsnap, hw, hl]
      rfl
    · rw [hl]
      exact ⟨hpins'.copies, hpins'.rows, hpins'.list, hpins'.slots, hpins'.counts, hpins'.links, hpins'.watchCounts⟩
    · have hbegun := nextRecordPage_records hb' (page + 1) (by rwa [hrest])
      rw [hrest, hbytes] at hbegun
      exact hbegun
    · have hbegun := nextRecordPage_header hb' (page + 1) (by rwa [hrest])
      rw [hcheck] at hbegun
      exact hbegun

end Sys2Proof.Machine
end

section
/-! PROOF. The banks a restore tries (9.5): what the event leaves in which a bank is begun, ended with success, or discarded. -/

namespace Sys2Proof.Machine

variable {s t u : State} {b : Bank} {g : BankHeader}

/-! ### The links at the end of a load (R123) -/

/-- A pass over the links that changes each of them by `f` alone. -/
theorem forEach_link {step : Nat → State → State} {f : Link → Link}
    (hf : ∀ n (s : State) k, (step n s).link k = if k = n then f (s.link n) else s.link k) {ns : List Nat} (hn : ns.Nodup) (s : State)
    (k : Nat) : (State.forEach step ns s).link k = if k ∈ ns then f (s.link k) else s.link k := by
  induction ns generalizing s with
  | nil => rfl
  | cons n ns ih =>
    obtain ⟨hnot, hrest⟩ := List.nodup_cons.1 hn
    rw [State.forEach, ih hrest, hf]
    by_cases hk : k = n
    · subst hk
      rw [if_neg hnot, if_pos rfl, if_pos List.mem_cons_self]
    · simp [hk]

/-- What a link controller that is UP or QUIET takes when a load ends. -/
def Link.resyncUp (l : Link) : Link := if l.state = .down then l else l.setResync

theorem allLinks_nodup : allLinks.Nodup := by decide

theorem resyncUpLinks_link (s : State) (n : LinkId) : s.resyncUpLinks.link n = (s.link n).resyncUp := by
  refine (forEach_link (f := Link.resyncUp) (fun m u k => ?_) allLinks_nodup s n).trans (if_pos (mem_allLinks n))
  by_cases hd : (u.link m).state = .down
  · rw [if_pos hd, Link.resyncUp, if_pos hd]
    split
    next h => rw [h]
    next => rfl
  · rw [if_neg hd, Link.resyncUp, if_neg hd, State.link_putLink]

theorem resyncUpLinks_keep {α : Type} (f : State → α) (hf : ∀ (u : State) n l, f (u.putLink n l) = f u) (s : State) :
    f s.resyncUpLinks = f s :=
  forEach_keep f (fun n u => by
    split
    · rfl
    · exact hf _ _ _) _ s

/-! ### The end with success (R175) -/

/-- A part of the state that the end of a load leaves, but for the epoch, the operating state, the unit's fields and the events. -/
theorem restoreSucceeds_keep {α : Type} (f : State → α) (hl : ∀ (u : State) n l, f (u.putLink n l) = f u)
    (he : ∀ (u : State) x, f (u.setEpoch x) = f u) (ho : ∀ (u : State) x, f (u.setOpState x) = f u)
    (hs : ∀ (u : State) x, f (u.setSnap x) = f u) (hfl : ∀ (u : State) x, f (u.setFlash x) = f u)
    (hev : ∀ (u : State) x, f (u.setEventSet x) = f u) (b : Bank) (g : BankHeader) (s : State) : f (s.restoreSucceeds b g) = f s := by
  unfold State.restoreSucceeds
  dsimp only
  rw [kickAll_keep f hl, State.raise, hev, hfl, hs, resyncUpLinks_keep f hl, ho, he]

/-- The state in which a load's end with success has set the flags of the links. -/
def State.loadServed (s : State) : State := ((s.setEpoch (orZero s.snap.targetEpoch)).setOpState .serving).resyncUpLinks

theorem loadServed_keep {α : Type} (f : State → α) (hl : ∀ (u : State) n l, f (u.putLink n l) = f u) (s : State) :
    f s.loadServed = f ((s.setEpoch (orZero s.snap.targetEpoch)).setOpState .serving) := resyncUpLinks_keep f hl _

/-- What the end with success writes at the unit, the flash interface and the event set. -/
def State.loadReported (y : Snapshot) (t : State) : State :=
  ((t.setSnap y).setFlash { (t.setSnap y).flash with op := none }).raise .restoreDone

theorem restoreSucceeds_eq (b : Bank) (g : BankHeader) (s : State) : s.restoreSucceeds b g = (s.loadServed.loadReported
    { s.loadServed.snap.idleRestore with
      last := .restoreDone b g.sequence g.savedEpoch (orZero s.snap.targetEpoch) g.profileCount g.recordCount }).kickAll := by
  unfold State.restoreSucceeds State.loadReported State.loadServed
  rfl

section
variable (y : Snapshot) (t : State)

theorem loadReported_epoch : (t.loadReported y).epoch = t.epoch := rfl
theorem loadReported_opState : (t.loadReported y).opState = t.opState := rfl
theorem loadReported_snap : (t.loadReported y).snap = y := rfl
theorem loadReported_flash : (t.loadReported y).flash = { t.flash with op := none } := rfl
theorem loadReported_eventSet : (t.loadReported y).eventSet = { t.eventSet with set := t.eventSet.set ||| 0x010#12 } := rfl
theorem loadReported_link (n : Nat) : (t.loadReported y).link n = t.link n := rfl

end

theorem restoreSucceeds_epoch (b : Bank) (g : BankHeader) (s : State) : (s.restoreSucceeds b g).epoch = orZero s.snap.targetEpoch := by
  have hkeep : s.loadServed.epoch = orZero s.snap.targetEpoch := loadServed_keep State.epoch (fun _ _ _ => rfl) s
  rw [restoreSucceeds_eq, kickAll_keep State.epoch (fun _ _ _ => rfl), loadReported_epoch, hkeep]

theorem restoreSucceeds_opState (b : Bank) (g : BankHeader) (s : State) : (s.restoreSucceeds b g).opState = .serving := by
  have hkeep : s.loadServed.opState = .serving := loadServed_keep State.opState (fun _ _ _ => rfl) s
  rw [restoreSucceeds_eq, kickAll_keep State.opState (fun _ _ _ => rfl), loadReported_opState, hkeep]

theorem restoreSucceeds_snap (b : Bank) (g : BankHeader) (s : State) : (s.restoreSucceeds b g).snap = { s.snap.idleRestore with
    last := .restoreDone b g.sequence g.savedEpoch (orZero s.snap.targetEpoch) g.profileCount g.recordCount } := by
  have hkeep : s.loadServed.snap = s.snap := loadServed_keep State.snap (fun _ _ _ => rfl) s
  rw [restoreSucceeds_eq, kickAll_keep State.snap (fun _ _ _ => rfl), loadReported_snap, hkeep]

theorem restoreSucceeds_flash (b : Bank) (g : BankHeader) (s : State) :
    (s.restoreSucceeds b g).flash = { s.flash with op := none } := by
  have hkeep : s.loadServed.flash = s.flash := loadServed_keep State.flash (fun _ _ _ => rfl) s
  rw [restoreSucceeds_eq, kickAll_keep State.flash (fun _ _ _ => rfl), loadReported_flash, hkeep]

theorem restoreSucceeds_eventSet (b : Bank) (g : BankHeader) (s : State) :
    (s.restoreSucceeds b g).eventSet = { s.eventSet with set := s.eventSet.set ||| 0x010#12 } := by
  have hkeep : s.loadServed.eventSet = s.eventSet := loadServed_keep State.eventSet (fun _ _ _ => rfl) s
  rw [restoreSucceeds_eq, kickAll_keep State.eventSet (fun _ _ _ => rfl), loadReported_eventSet, hkeep]

theorem restoreSucceeds_link (b : Bank) (g : BankHeader) (s : State) (n : LinkId) :
    SameButSending (s.link n).resyncUp ((s.restoreSucceeds b g).link n) := by
  rw [restoreSucceeds_eq]
  exact kickAll_link_of ((loadReported_link _ _ _).trans (resyncUpLinks_link _ n))

theorem restored_restoreSucceeds (b : Bank) (g : BankHeader) (s : State) :
    s.Restored (s.restoreSucceeds b g) b g (orZero s.snap.targetEpoch) where
  epoch := restoreSucceeds_epoch b g s
  opState := restoreSucceeds_opState b g s
  idle := by
    rw [restoreSucceeds_snap]
    exact ⟨rfl, rfl, rfl, rfl, rfl, rfl, rfl, rfl⟩
  last := by rw [restoreSucceeds_snap]
  op := by rw [restoreSucceeds_flash]
  admitted n hn := by
    have h := restoreSucceeds_link b g s n
    rw [Link.resyncUp, if_neg hn] at h
    obtain ⟨hnotices, hflag, hnumber, hcount, htimer⟩ := h.queues
    obtain ⟨hstate, -⟩ := h.controller
    exact ⟨hstate, hflag, hnumber, hnotices, hcount, htimer⟩
  down n hn := by
    have h := restoreSucceeds_link b g s n
    rw [Link.resyncUp, if_pos hn] at h
    obtain ⟨hnotices, hflag, -⟩ := h.queues
    obtain ⟨hstate, -⟩ := h.controller
    exact ⟨hstate.trans hn, hflag, hnotices⟩
  beside := .restoreSucceeds b g s

/-! ### The stores discarded (R174) -/

theorem checkArm_keep {α : Type} (f : State → α) (hf : ∀ (u : State) x, f (u.setLowArmed x) = f u) (s : State) : f s.checkArm = f s := by
  unfold State.checkArm
  split
  · exact hf _ _
  · rfl

/-- A part of the state outside the stores. -/
theorem emptyStores_keep {α : Type} (f : State → α) (h1 : ∀ (u : State) x, f (u.setRows x) = f u)
    (h2 : ∀ (u : State) x, f (u.setSpanIndex x) = f u) (h3 : ∀ (u : State) x, f (u.setCopies x) = f u)
    (h4 : ∀ (u : State) x, f (u.setSuperseded x) = f u) (h5 : ∀ (u : State) x, f (u.setSlots x) = f u)
    (h6 : ∀ (u : State) x, f (u.setFreeCount x) = f u) (h7 : ∀ (u : State) x, f (u.setLowArmed x) = f u) (s : State) :
    f s.emptyStores = f s := by
  rw [State.emptyStores, checkArm_keep f h7, h6, h5, h4, h3, h2, h1]

theorem storesEmpty_emptyStores (s : State) : s.emptyStores.StoresEmpty where
  rows := checkArm_keep State.rows (fun _ _ => rfl) _
  index := checkArm_keep State.spanIndex (fun _ _ => rfl) _
  copies := checkArm_keep State.copies (fun _ _ => rfl) _
  free := checkArm_keep State.freeCount (fun _ _ => rfl) _
  superseded := checkArm_keep State.superseded (fun _ _ => rfl) _
  slots := checkArm_keep State.slots (fun _ _ => rfl) _
  armed h := by
    have hparams : s.emptyStores.params = s.params := checkArm_keep State.params (fun _ _ => rfl) _
    rw [hparams] at h
    rw [State.emptyStores, checkArm_lowArmed]
    exact if_pos h

/-- What leaves the stores leaves them empty. -/
theorem State.StoresEmpty.of_keep (h : s.StoresEmpty) (ht : ∀ {α : Type} (f : State → α) (_ : ∀ (u : State) n l, f (u.putLink n l) = f u)
    (_ : ∀ (u : State) x, f (u.setEpoch x) = f u) (_ : ∀ (u : State) x, f (u.setOpState x) = f u)
    (_ : ∀ (u : State) x, f (u.setSnap x) = f u) (_ : ∀ (u : State) x, f (u.setFlash x) = f u)
    (_ : ∀ (u : State) x, f (u.setEventSet x) = f u), f t = f s) : t.StoresEmpty where
  rows := (ht State.rows (fun _ _ _ => rfl) (fun _ _ => rfl) (fun _ _ => rfl) (fun _ _ => rfl) (fun _ _ => rfl) (fun _ _ => rfl)).trans h.rows
  index := (ht State.spanIndex (fun _ _ _ => rfl) (fun _ _ => rfl) (fun _ _ => rfl) (fun _ _ => rfl) (fun _ _ => rfl)
    (fun _ _ => rfl)).trans h.index
  copies := (ht State.copies (fun _ _ _ => rfl) (fun _ _ => rfl) (fun _ _ => rfl) (fun _ _ => rfl) (fun _ _ => rfl)
    (fun _ _ => rfl)).trans h.copies
  free := (ht State.freeCount (fun _ _ _ => rfl) (fun _ _ => rfl) (fun _ _ => rfl) (fun _ _ => rfl) (fun _ _ => rfl)
    (fun _ _ => rfl)).trans h.free
  superseded := (ht State.superseded (fun _ _ _ => rfl) (fun _ _ => rfl) (fun _ _ => rfl) (fun _ _ => rfl) (fun _ _ => rfl)
    (fun _ _ => rfl)).trans h.superseded
  slots := (ht State.slots (fun _ _ _ => rfl) (fun _ _ => rfl) (fun _ _ => rfl) (fun _ _ => rfl) (fun _ _ => rfl)
    (fun _ _ => rfl)).trans h.slots
  armed hp := by
    rw [ht State.params (fun _ _ _ => rfl) (fun _ _ => rfl) (fun _ _ => rfl) (fun _ _ => rfl) (fun _ _ => rfl) (fun _ _ => rfl)] at hp
    exact (ht State.lowArmed (fun _ _ _ => rfl) (fun _ _ => rfl) (fun _ _ => rfl) (fun _ _ => rfl) (fun _ _ => rfl)
      (fun _ _ => rfl)).trans (h.armed hp)

end Sys2Proof.Machine
end

section
/-! PROOF. The banks a restore tries (9.5), continued: what the event leaves in which a bank is begun, ended with success, or
discarded. -/

namespace Sys2Proof.Machine

variable {s t u w : State} {b : Bank} {g : BankHeader}

/-! ### A bank's header decides (R173, R102) -/

theorem loadable_iff : g.loadable = true ↔ g.Passes := by
  simp only [BankHeader.loadable, Bool.and_eq_true, decide_eq_true_eq]
  exact ⟨fun ⟨⟨h1, h2⟩, h3⟩ => ⟨h1, h2, h3⟩, fun ⟨h1, h2, h3⟩ => ⟨⟨h1, h2⟩, h3⟩⟩

theorem pages_pos_iff : 0 < g.pages ↔ 0 < g.profileCount + g.recordCount := by
  simp only [BankHeader.pages, profilePages, recordPages]
  omega

theorem tryBank_begins (fuel : Nat) (hp : g.Passes) (hn : 0 < g.profileCount + g.recordCount) (s : State) :
    State.tryBank fuel b g s = (s.beginLoading b g).beginRead b 1 := by
  rw [tryBank_eq, if_pos ⟨loadable_iff.2 hp, pages_pos_iff.2 hn⟩]

theorem tryBank_succeeds (fuel : Nat) (hp : g.Passes) (hn : g.profileCount + g.recordCount = 0) (hc : g.bodyCheck = 0xFFFFFFFF#32)
    (s : State) : State.tryBank fuel b g s = (s.beginLoading b g).restoreSucceeds b g := by
  rw [tryBank_eq, if_neg (fun h => by have := pages_pos_iff.1 h.2; omega), if_pos ⟨loadable_iff.2 hp, hc⟩]

theorem tryBank_fails (fuel : Nat) (hf : g.failsAtOnce) (s : State) :
    State.tryBank fuel b g s = (s.beginLoading b g).emptyStores.afterDiscard fuel := by
  rw [tryBank_eq, if_neg, if_neg]
  · rintro ⟨hl, hc⟩
    exact hf.elim (fun hn => hn (loadable_iff.1 hl)) (fun hn => hn.2 hc)
  · rintro ⟨hl, hp⟩
    exact hf.elim (fun hn => hn (loadable_iff.1 hl)) (fun hn => by have := pages_pos_iff.1 hp; omega)

/-! ### The state in which a bank's loading begins -/

/-- What nothing before the end of a restore touches, besides what no event of it touches. -/
structure State.RestoreRuns (s w : State) : Prop where
  origin : w.snap.origin = s.snap.origin
  last : w.snap.last = s.snap.last
  epoch : w.epoch = s.epoch
  opState : w.opState = s.opState
  links : w.links = s.links
  beside : s.SameBesideRestore w

namespace State.RestoreRuns

theorem refl (s : State) : s.RestoreRuns s := ⟨rfl, rfl, rfl, rfl, rfl, .refl s⟩

theorem trans (h : s.RestoreRuns t) (k : t.RestoreRuns u) : s.RestoreRuns u :=
  ⟨k.origin.trans h.origin, k.last.trans h.last, k.epoch.trans h.epoch, k.opState.trans h.opState, k.links.trans h.links,
    h.beside.trans k.beside⟩

theorem loadBegun (h : s.RestoreRuns w) {ta tb : Bool} (k : w.LoadBegun t b g ta tb) : s.LoadBegun t b g ta tb :=
  ⟨k.phase, k.loading, k.triedA, k.triedB, h.epoch ▸ k.targetEpoch, k.check, k.readPos, k.op, k.origin.trans h.origin,
    k.last.trans h.last, k.epoch.trans h.epoch, k.opState.trans h.opState, k.links.trans h.links, h.beside.trans k.beside⟩

theorem restored (h : s.RestoreRuns w) {e : Nat} (k : w.Restored t b g e) : s.Restored t b g e := by
  have hlink (n : Nat) : w.link n = s.link n := by simp only [State.link, h.links]
  exact ⟨k.epoch, k.opState, k.idle, k.last, k.op, fun n => hlink n ▸ k.admitted n, fun n => hlink n ▸ k.down n,
    h.beside.trans k.beside⟩

theorem restoreFailed (h : s.RestoreRuns w) {k : FailKind} {ta tb : Bool} (hf : w.RestoreFailed t k ta tb) :
    s.RestoreFailed t k ta tb :=
  ⟨fun ho => hf.cold (h.origin.trans ho), fun ho => hf.held (h.origin.trans ho), hf.idle, hf.last, hf.op, hf.epoch.trans h.epoch,
    hf.links.trans h.links, h.beside.trans hf.beside⟩

end State.RestoreRuns

/-- A part of the state that the beginning of a bank's loading leaves. -/
theorem beginLoading_keep {α : Type} (f : State → α) (hslots : ∀ (u : State) x, f (u.setSlots x) = f u)
    (hsnap : ∀ (u : State) x, f (u.setSnap x) = f u) (b : Bank) (g : BankHeader) (s : State) : f (s.beginLoading b g) = f s := by
  unfold State.beginLoading
  dsimp only
  rw [hsnap]
  split
  · exact hslots _ _
  · rfl

theorem beginLoading_snap (b : Bank) (g : BankHeader) (s : State) : (s.beginLoading b g).snap = { s.snap.markTried b with
    restorePhase := .loading, loading := some b, targetEpoch := targetEpochOf s.epoch g.savedEpoch
    check := some crc32Start, readPos := some 0 } := by
  unfold State.beginLoading
  dsimp only
  split <;> rfl

theorem beginLoading_slots (b : Bank) (g : BankHeader) (s : State) (h : s.slots = [] ∨ s.snap.triedA = false ∧ s.snap.triedB = false) :
    (s.beginLoading b g).slots = [] := by
  unfold State.beginLoading
  dsimp only
  split
  · rfl
  · next hc => exact h.resolve_right hc

theorem restoreRuns_beginLoading (b : Bank) (g : BankHeader) (s : State) : s.RestoreRuns (s.beginLoading b g) where
  origin := by
    rw [beginLoading_snap]
    cases b <;> rfl
  last := by
    rw [beginLoading_snap]
    cases b <;> rfl
  epoch := beginLoading_keep State.epoch (fun _ _ => rfl) (fun _ _ => rfl) b g s
  opState := beginLoading_keep State.opState (fun _ _ => rfl) (fun _ _ => rfl) b g s
  links := beginLoading_keep State.links (fun _ _ => rfl) (fun _ _ => rfl) b g s
  beside := .beginLoading b g s

theorem restoreRuns_emptyStores (s : State) : s.RestoreRuns s.emptyStores := by
  have h := StoresOnly.emptyStores s
  exact ⟨congrArg Snapshot.origin h.snap, congrArg Snapshot.last h.snap, h.epoch, h.opState,
    emptyStores_keep State.links (fun _ _ => rfl) (fun _ _ => rfl) (fun _ _ => rfl) (fun _ _ => rfl) (fun _ _ => rfl) (fun _ _ => rfl)
      (fun _ _ => rfl) s, .emptyStores s⟩

theorem emptyStores_eventSet (s : State) : s.emptyStores.eventSet = s.eventSet :=
  emptyStores_keep State.eventSet (fun _ _ => rfl) (fun _ _ => rfl) (fun _ _ => rfl) (fun _ _ => rfl) (fun _ _ => rfl) (fun _ _ => rfl)
    (fun _ _ => rfl) s

/-- A bank's first page is read. -/
theorem loadBegun_beginRead (hp : g.Passes) (b : Bank) (s : State) : s.LoadBegun ((s.beginLoading b g).beginRead b 1) b g
    (s.snap.markTried b).triedA (s.snap.markTried b).triedB := by
  have hruns := restoreRuns_beginLoading b g s
  have hsnap : ((s.beginLoading b g).beginRead b 1).snap = { s.snap.markTried b with
    restorePhase := .loading, loading := some b, targetEpoch := targetEpochOf s.epoch g.savedEpoch
    check := some crc32Start, readPos := some 0 } := beginLoading_snap b g s
  refine ⟨by rw [hsnap], by rw [hsnap], by rw [hsnap], by rw [hsnap], ?_, by rw [hsnap]; rfl, by rw [hsnap], rfl, hruns.origin, hruns.last,
    hruns.epoch, hruns.opState, hruns.links, hruns.beside.trans (.setFlash _ _)⟩
  rw [hsnap]
  exact targetEpochOf_loadable s.epoch (loadable_iff.2 hp)

/-- A bank without entries whose check value is right ends the restore at once. -/
theorem restored_beginLoading (hp : g.Passes) (b : Bank) (s : State) :
    s.Restored ((s.beginLoading b g).restoreSucceeds b g) b g (max s.epoch g.savedEpoch + 1) := by
  have h := (restoreRuns_beginLoading b g s).restored (restored_restoreSucceeds b g (s.beginLoading b g))
  have htarget : (s.beginLoading b g).snap.targetEpoch = some (max s.epoch g.savedEpoch + 1) := by
    rw [beginLoading_targetEpoch]
    exact targetEpochOf_loadable s.epoch (loadable_iff.2 hp)
  rw [htarget] at h
  exact h

/-! ### The other bank (R174) -/

theorem tried_markTried (x : Snapshot) (b c : Bank) : (x.markTried b).tried c = (decide (c = b) || x.tried c) := by
  cases b <;> cases c <;> rfl

theorem untried_eq_none {x : Snapshot} (h : ∀ b g, x.survey b = .valid g → x.tried b = true) : x.untried = none := by
  have hA (g : BankHeader) (hv : x.surveyA = .valid g) : x.triedA = true := h .bankA g hv
  have hB (g : BankHeader) (hv : x.surveyB = .valid g) : x.triedB = true := h .bankB g hv
  unfold Snapshot.untried
  cases ha : x.surveyA with
  | unknown => cases hb : x.surveyB with
    | unknown => rfl
    | invalid => rfl
    | valid g => simp [hB g hb]
  | invalid => cases hb : x.surveyB with
    | unknown => rfl
    | invalid => rfl
    | valid g => simp [hB g hb]
  | valid g => cases hb : x.surveyB with
    | unknown => simp [hA g ha]
    | invalid => simp [hA g ha]
    | valid g' => simp [hA g ha, hB g' hb]

theorem untried_eq_some {x : Snapshot} {c : Bank} (hv : x.survey b = .valid g) (ht : x.tried b = false) (hc : c ≠ b)
    (hother : x.tried c = true) : x.untried = some (b, g) := by
  unfold Snapshot.untried
  cases b with
  | bankA =>
    have hv' : x.surveyA = .valid g := hv
    have ht' : x.triedA = false := ht
    rw [hv', ht']
    cases x.surveyB <;> rfl
  | bankB =>
    have hv' : x.surveyB = .valid g := hv
    have ht' : x.triedB = false := ht
    have hA : x.triedA = true := by
      cases c with
      | bankA => exact hother
      | bankB => exact absurd rfl hc
    rw [hv', ht', hA]
    cases x.surveyA <;> rfl

theorem survey_beginLoading (b c : Bank) (g : BankHeader) (s : State) : (s.beginLoading b g).snap.survey c = s.snap.survey c := by
  rw [beginLoading_snap]
  cases b <;> cases c <;> rfl

theorem tried_beginLoading (b c : Bank) (g : BankHeader) (s : State) :
    (s.beginLoading b g).snap.tried c = (decide (c = b) || s.snap.tried c) := by
  rw [beginLoading_snap, ← tried_markTried]
  cases c <;> rfl

theorem afterDiscard_none (fuel : Nat) (h : s.snap.untried = none) : s.afterDiscard fuel = s.restoreFails .corrupt := by
  unfold State.afterDiscard
  rw [h]
  cases fuel <;> rfl

theorem afterDiscard_some (fuel : Nat) (h : s.snap.untried = some (b, g)) : s.afterDiscard (fuel + 1) = State.tryBank fuel b g s := by
  unfold State.afterDiscard
  rw [h]

/-- The last bank tried, from stores that are empty: begun, ended with success, or the end of the restore. -/
theorem tryBank_last (fuel : Nat) (he : w.StoresEmpty) (hA : (w.snap.markTried b).triedA = true)
    (hB : (w.snap.markTried b).triedB = true) :
    (g.Passes → 0 < g.profileCount + g.recordCount → w.LoadBegun (State.tryBank fuel b g w) b g true true ∧
      (State.tryBank fuel b g w).StoresEmpty ∧ (State.tryBank fuel b g w).eventSet = w.eventSet) ∧
    (g.Passes → g.profileCount + g.recordCount = 0 → g.bodyCheck = 0xFFFFFFFF#32 →
      w.Restored (State.tryBank fuel b g w) b g (max w.epoch g.savedEpoch + 1) ∧ (State.tryBank fuel b g w).StoresEmpty ∧
      (State.tryBank fuel b g w).eventSet = { w.eventSet with set := w.eventSet.set ||| 0x010#12 }) ∧
    (g.failsAtOnce → w.RestoreFailed (State.tryBank fuel b g w) .corrupt true true ∧ (State.tryBank fuel b g w).StoresEmpty ∧
      (State.tryBank fuel b g w).eventSet = w.eventSet.restoreFailedWith .corrupt) := by
  have hevents : (w.beginLoading b g).eventSet = w.eventSet := beginLoading_keep State.eventSet (fun _ _ => rfl) (fun _ _ => rfl) b g w
  have hempty : (w.beginLoading b g).StoresEmpty := by
    refine ⟨?_, ?_, ?_, ?_, ?_, beginLoading_slots b g w (.inl he.slots), fun hp => ?_⟩
    · exact (beginLoading_keep State.rows (fun _ _ => rfl) (fun _ _ => rfl) b g w).trans he.rows
    · exact (beginLoading_keep State.spanIndex (fun _ _ => rfl) (fun _ _ => rfl) b g w).trans he.index
    · exact (beginLoading_keep State.copies (fun _ _ => rfl) (fun _ _ => rfl) b g w).trans he.copies
    · exact (beginLoading_keep State.freeCount (fun _ _ => rfl) (fun _ _ => rfl) b g w).trans he.free
    · exact (beginLoading_keep State.superseded (fun _ _ => rfl) (fun _ _ => rfl) b g w).trans he.superseded
    · rw [beginLoading_keep State.params (fun _ _ => rfl) (fun _ _ => rfl) b g w] at hp
      exact (beginLoading_keep State.lowArmed (fun _ _ => rfl) (fun _ _ => rfl) b g w).trans (he.armed hp)
  refine ⟨fun hp hn => ?_, fun hp hn hc => ?_, fun hf => ?_⟩
  · have hbegun := loadBegun_beginRead hp b w
    rw [hA, hB] at hbegun
    rw [tryBank_begins fuel hp hn]
    exact ⟨hbegun, hempty.of_keep (fun _ _ _ _ _ hfl _ => hfl _ _), hevents⟩
  · rw [tryBank_succeeds fuel hp hn hc]
    refine ⟨restored_beginLoading hp b w, hempty.of_keep (fun f h1 h2 h3 h4 h5 h6 => restoreSucceeds_keep f h1 h2 h3 h4 h5 h6 b g _), ?_⟩
    rw [restoreSucceeds_eventSet, hevents]
  · have hsnap : (w.beginLoading b g).emptyStores.snap = (w.beginLoading b g).snap := (StoresOnly.emptyStores _).snap
    have hnone : (w.beginLoading b g).emptyStores.snap.untried = none := untried_eq_none fun c _ _ => by
      rw [hsnap, beginLoading_snap]
      cases c
      · exact hA
      · exact hB
    have hfailed := restoreFailed_restoreFails .corrupt (w.beginLoading b g).emptyStores
    rw [hsnap, beginLoading_snap] at hfailed
    change State.RestoreFailed _ _ .corrupt (w.snap.markTried b).triedA (w.snap.markTried b).triedB at hfailed
    rw [hA, hB] at hfailed
    rw [tryBank_fails fuel hf, afterDiscard_none fuel hnone]
    refine ⟨((restoreRuns_beginLoading b g w).trans (restoreRuns_emptyStores _)).restoreFailed hfailed,
      (storesEmpty_emptyStores (w.beginLoading b g)).of_keep (fun _ _ _ h3 h4 h5 h6 => ?_), ?_⟩
    · rw [State.restoreFails, State.raise, h6, h5, h4, h3]
    · change ((w.beginLoading b g).emptyStores.eventSet).restoreFailedWith .corrupt = _
      rw [emptyStores_eventSet, hevents]

end Sys2Proof.Machine
end

section
/-! PROOF. Pages of entries (9.5): the next page, the end of the restore, or the other bank. -/

namespace Sys2Proof.Machine

variable {s t u v w : State} {b : Bank} {g : BankHeader}

/-! ### What no end of a restore touches in the flash and the survey -/

/-- The flash's bytes, what runs in it, and the survey. -/
def State.surveyed (s : State) : (List Host.Cell × Option DeviceOp) × (Survey × Survey) :=
  ((s.flash.cells, s.flash.device), (s.snap.surveyA, s.snap.surveyB))

theorem cells_of_surveyed (h : t.surveyed = s.surveyed) : t.flash.cells = s.flash.cells := congrArg (fun x => x.1.1) h

theorem device_of_surveyed (h : t.surveyed = s.surveyed) : t.flash.device = s.flash.device := congrArg (fun x => x.1.2) h

theorem surveys_of_surveyed (h : t.surveyed = s.surveyed) : t.snap.surveyA = s.snap.surveyA ∧ t.snap.surveyB = s.snap.surveyB :=
  ⟨congrArg (fun x => x.2.1) h, congrArg (fun x => x.2.2) h⟩

theorem surveyed_beginLoading (b : Bank) (g : BankHeader) (s : State) : (s.beginLoading b g).surveyed = s.surveyed := by
  have hflash : (s.beginLoading b g).flash = s.flash := beginLoading_keep State.flash (fun _ _ => rfl) (fun _ _ => rfl) b g s
  rw [State.surveyed, hflash, beginLoading_snap]
  cases b <;> rfl

theorem surveyed_of_storesOnly (h : StoresOnly s t) : t.surveyed = s.surveyed := by rw [State.surveyed, h.flash, h.snap]; rfl

theorem surveyed_restoreSucceeds (b : Bank) (g : BankHeader) (s : State) : (s.restoreSucceeds b g).surveyed = s.surveyed := by
  rw [State.surveyed, restoreSucceeds_flash, restoreSucceeds_snap]
  rfl

theorem surveyed_tryBank_of {fuel : Nat} (hdiscard : ∀ s : State, (s.afterDiscard fuel).surveyed = s.surveyed) (b : Bank) (g : BankHeader)
    (s : State) : (State.tryBank fuel b g s).surveyed = s.surveyed := by
  rw [tryBank_eq]
  split
  · exact surveyed_beginLoading b g s
  · split
    · exact (surveyed_restoreSucceeds _ _ _).trans (surveyed_beginLoading b g s)
    · exact (hdiscard _).trans ((surveyed_of_storesOnly (.emptyStores _)).trans (surveyed_beginLoading b g s))

theorem surveyed_afterDiscard (fuel : Nat) (s : State) : (s.afterDiscard fuel).surveyed = s.surveyed := by
  induction fuel generalizing s with
  | zero => rfl
  | succ n ih =>
    cases hu : s.snap.untried with
    | none =>
      rw [afterDiscard_none _ hu]
      rfl
    | some x => rw [afterDiscard_some n (b := x.1) (g := x.2) hu, surveyed_tryBank_of ih]

theorem surveyed_tryBank (fuel : Nat) (b : Bank) (g : BankHeader) (s : State) : (State.tryBank fuel b g s).surveyed = s.surveyed :=
  surveyed_tryBank_of (surveyed_afterDiscard fuel) b g s

theorem surveyed_loadFails (s : State) : s.loadFails.surveyed = s.surveyed := by
  rw [loadFails_eq, surveyed_afterDiscard, surveyed_of_storesOnly (.emptyStores s)]

/-! ### A bank that failed, discarded (R174) -/

/-- The last bank tried by the event that has left `t`: begun, ended with success, or the end of the restore, the events being `e` but
for those that its end raises. -/
structure State.LastBankTried (s t : State) (b : Bank) (g : BankHeader) (e : EventSet) : Prop where
  begins : g.Passes → 0 < g.profileCount + g.recordCount → s.LoadBegun t b g true true ∧ t.StoresEmpty ∧ t.eventSet = e
  succeeds : g.Passes → g.profileCount + g.recordCount = 0 → g.bodyCheck = 0xFFFFFFFF#32 →
    s.Restored t b g (max s.epoch g.savedEpoch + 1) ∧ t.StoresEmpty ∧ t.eventSet = { e with set := e.set ||| 0x010#12 }
  fails : g.failsAtOnce → s.RestoreFailed t .corrupt true true ∧ t.StoresEmpty ∧ t.eventSet = e.restoreFailedWith .corrupt

theorem State.LastBankTried.of_runs {e : EventSet} (h : s.RestoreRuns w) (k : w.LastBankTried t b g e) : s.LastBankTried t b g e where
  begins hp hn := (k.begins hp hn).imp_left h.loadBegun
  succeeds hp hn hc := by
    have hs := k.succeeds hp hn hc
    rw [h.epoch] at hs
    exact hs.imp_left h.restored
  fails hf := (k.fails hf).imp_left h.restoreFailed

theorem tried_markTried_self {x : Snapshot} {c : Bank} (hc : c ≠ b) (h : x.tried c = true) :
    (x.markTried b).triedA = true ∧ (x.markTried b).triedB = true := by
  cases b <;> cases c
  · exact absurd rfl hc
  · exact ⟨rfl, h⟩
  · exact ⟨h, rfl⟩
  · exact absurd rfl hc

/-- Everything discarded, and a bank not yet tried tried. -/
theorem lastBankTried_afterDiscard (fuel : Nat) (s : State) {c : Bank} (hv : s.snap.survey b = .valid g) (ht : s.snap.tried b = false)
    (hc : c ≠ b) (hother : s.snap.tried c = true) :
    s.LastBankTried (s.emptyStores.afterDiscard (fuel + 1)) b g s.eventSet := by
  have hsnap : s.emptyStores.snap = s.snap := (StoresOnly.emptyStores s).snap
  rw [afterDiscard_some fuel (untried_eq_some (hsnap ▸ hv) (hsnap ▸ ht) hc (hsnap ▸ hother))]
  obtain ⟨hA, hB⟩ := tried_markTried_self hc (show s.emptyStores.snap.tried c = true from hsnap ▸ hother)
  obtain ⟨h1, h2, h3⟩ := tryBank_last (g := g) fuel (storesEmpty_emptyStores s) hA hB
  rw [emptyStores_eventSet] at h1 h2 h3
  exact State.LastBankTried.of_runs (restoreRuns_emptyStores s) ⟨h1, h2, h3⟩

/-- Everything discarded, and no bank left to try. -/
theorem restoreFailed_afterDiscard (fuel : Nat) (s : State) (h : ∀ b g, s.snap.survey b = .valid g → s.snap.tried b = true) :
    s.RestoreFailed (s.emptyStores.afterDiscard fuel) .corrupt s.snap.triedA s.snap.triedB ∧
      (s.emptyStores.afterDiscard fuel).StoresEmpty ∧
      (s.emptyStores.afterDiscard fuel).eventSet = s.eventSet.restoreFailedWith .corrupt := by
  have hsnap : s.emptyStores.snap = s.snap := (StoresOnly.emptyStores s).snap
  have hfailed := (restoreRuns_emptyStores s).restoreFailed (restoreFailed_restoreFails .corrupt s.emptyStores)
  rw [hsnap] at hfailed
  rw [afterDiscard_none fuel (untried_eq_none (hsnap.symm ▸ h))]
  refine ⟨hfailed, (storesEmpty_emptyStores s).of_keep (fun _ _ _ h3 h4 h5 h6 => ?_), ?_⟩
  · rw [State.restoreFails, State.raise, h6, h5, h4, h3]
  · change s.emptyStores.eventSet.restoreFailedWith .corrupt = _
    rw [emptyStores_eventSet]

/-! ### A page loaded (R173) -/

/-- A part of the state that neither the check value nor an entry's loading changes. -/
theorem loadEntries_keep {α : Type} (f : State → α) (hsnap : ∀ (u : State) x, f (u.setSnap x) = f u)
    {load : List Byte → State → Option State} (hl : ∀ {en s t}, load en s = some t → f t = f s) (ens : List (List Byte)) (s : State) :
    f (State.loadEntries load ens s).1 = f s := by
  induction ens generalizing s with
  | nil => rfl
  | cons en ens ih =>
    unfold State.loadEntries
    split
    · next t ht => rw [ih, hl ht, State.extendCheck, hsnap]
    · rfl

theorem loadProfile_links {e : Nat} {entry : List Byte} (h : s.loadProfile e entry = some t) : t.links = s.links := by
  unfold State.loadProfile at h
  dsimp only at h
  split at h
  · exact Option.some.inj h ▸ rfl
  · cases h

theorem loadRecord_links {e : Nat} {entry : List Byte} (h : s.loadRecord e entry = some t) : t.links = s.links := by
  unfold State.loadRecord at h
  dsimp only at h
  split at h
  · split at h
    · obtain rfl := Option.some.inj h
      simp
    · cases h
  all_goals cases h

theorem loadPage_links (h : BankHeader) (i : Nat) (page : List Byte) (s : State) : (s.loadPage h i page).1.links = s.links := by
  unfold State.loadPage
  dsimp only
  split
  · exact loadEntries_keep State.links (fun _ _ => rfl) loadProfile_links _ s
  · exact loadEntries_keep State.links (fun _ _ => rfl) loadRecord_links _ s

theorem restoreRuns_loadPage {ok : Bool} {h : BankHeader} {i : Nat} {page : List Byte} (hl : s.loadPage h i page = (v, ok)) :
    s.RestoreRuns v ∧ (∃ c, v.snap = { s.snap with check := c }) ∧ v.surveyed = s.surveyed ∧ v.flash = s.flash := by
  obtain rfl : v = (s.loadPage h i page).1 := by rw [hl]
  obtain ⟨c, hstores⟩ := LoadsOnly.loadPage h i page s
  have hsnap : (s.loadPage h i page).1.snap = { s.snap with check := c } := hstores.snap
  refine ⟨⟨by rw [hsnap], by rw [hsnap], hstores.epoch, hstores.opState, loadPage_links h i page s, .loadPage h i page s⟩, ⟨c, hsnap⟩, ?_,
    hstores.flash⟩
  rw [State.surveyed, hstores.flash, hsnap]
  rfl

/-- The read position after a page. -/
def State.pageRead (i : Nat) (s : State) : State := s.setSnap { s.snap with readPos := some (i + 1) }

section
variable {i : Nat} {page : List Byte} (hl : s.snap.loadingHeader = some (b, g)) (hi : s.snap.readPos = some i)
include hl hi

theorem pageLoaded_refused (hv : s.loadPage g i page = (v, false)) : s.pageLoaded page = v.loadFails := by
  unfold State.pageLoaded
  rw [hl]
  dsimp only
  rw [hi]
  exact (if_pos (congrArg Prod.snd hv)).trans (by rw [show s.loadPage g (orZero (some i)) page = (v, false) from hv])

theorem pageLoaded_passed (hv : s.loadPage g i page = (v, true)) : s.pageLoaded page =
    if i + 1 < g.pages then (v.pageRead i).beginRead b (i + 2)
    else if v.snap.check = some g.bodyCheck then (v.pageRead i).restoreSucceeds b g else (v.pageRead i).loadFails := by
  unfold State.pageLoaded
  rw [hl]
  dsimp only
  rw [hi, show s.loadPage g (orZero (some i)) page = (v, true) from hv]
  rfl

end

/-- The state in which a page read from the flash is looked at. -/
def State.pageTaken (s : State) (changes : List Host.Cell) : State :=
  s.setFlash { s.flash with cells := applyChanges changes s.flash.cells, op := none }

theorem exec_pageReadDone_page {changes : List Host.Cell} {i : Nat} (h : s.flash.op = some (.read b (i + 1))) :
    exec (.pageReadDone changes) s = .next ((s.pageTaken changes).pageLoaded
      (readPage (s.pageTaken changes).flash.cells b (i + 1))) := by
  change execPageReadDone changes s = _
  rw [execPageReadDone, h]
  rfl

end Sys2Proof.Machine
end

section
/-! PROOF. The statement about pages of entries (9.5). -/

namespace Sys2Proof.Machine

variable {s t u v w : State} {b : Bank} {g : BankHeader}

theorem restoreRuns_setFlash (s : State) (f : Flash) : s.RestoreRuns (s.setFlash f) := ⟨rfl, rfl, rfl, rfl, rfl, .setFlash s f⟩

theorem restoreRuns_pageRead (i : Nat) (s : State) : s.RestoreRuns (s.pageRead i) := ⟨rfl, rfl, rfl, rfl, rfl, .setSnap s _⟩

/-- What a bank's loading says of the banks, the same in both states. -/
structure State.SameBanks (s w : State) : Prop where
  survey : ∀ c, w.snap.survey c = s.snap.survey c
  tried : ∀ c, w.snap.tried c = s.snap.tried c
  target : w.snap.targetEpoch = s.snap.targetEpoch

theorem sameBanks_of_snap (h : ∃ c p, w.snap = { s.snap with check := c, readPos := p }) : s.SameBanks w := by
  obtain ⟨c, p, h⟩ := h
  refine ⟨fun d => ?_, fun d => ?_, ?_⟩
  · rw [h]
    cases d <;> rfl
  · rw [h]
    cases d <;> rfl
  · rw [h]

/-- A failed bank's discard, seen from the state in which the page was read. -/
theorem loadFails_ends (hr : s.RestoreRuns w) (hb : s.SameBanks w) :
    ((∀ b g, s.snap.survey b = .valid g → s.snap.tried b = true) →
      s.RestoreFailed w.loadFails .corrupt s.snap.triedA s.snap.triedB ∧ w.loadFails.StoresEmpty ∧
      w.loadFails.eventSet = w.eventSet.restoreFailedWith .corrupt) ∧
    (∀ b c g, b ≠ c → s.snap.tried c = true → s.snap.survey b = .valid g → s.snap.tried b = false →
      s.LastBankTried w.loadFails b g w.eventSet) := by
  rw [loadFails_eq]
  refine ⟨fun h => ?_, fun b c g hne hc hv ht => ?_⟩
  · have hend := restoreFailed_afterDiscard 2 w fun b g hv => (hb.tried b).trans (h b g ((hb.survey b).symm.trans hv))
    rw [show w.snap.triedA = s.snap.triedA from hb.tried .bankA, show w.snap.triedB = s.snap.triedB from hb.tried .bankB] at hend
    exact hend.imp_left hr.restoreFailed
  · exact (lastBankTried_afterDiscard 1 w ((hb.survey b).trans hv) ((hb.tried b).trans ht) (fun h => hne h.symm)
      ((hb.tried c).trans hc)).of_runs hr

/-- Settles O44: by whether the entries loaded, the pages left, and the check value. -/
theorem bankPagesLoad : Obligations.BankPagesLoad := by
  intro changes bk h i ok s u v hop hload hpos hu hv
  obtain rfl : u = s.pageTaken changes := hu
  have hrun := exec_pageReadDone_page (changes := changes) hop
  obtain ⟨hruns', ⟨c, hsnap⟩, hsurv, hflash⟩ := restoreRuns_loadPage hv
  have hruns : s.RestoreRuns v := (restoreRuns_setFlash s _).trans hruns'
  have hbanks : s.SameBanks v := sameBanks_of_snap ⟨c, s.snap.readPos, hsnap⟩
  have hbanksRead : s.SameBanks (v.pageRead i) := sameBanks_of_snap ⟨c, some (i + 1), by
    change { v.snap with readPos := some (i + 1) } = _
    rw [hsnap]
    rfl⟩
  have hsurvRead : (v.pageRead i).surveyed = v.surveyed := rfl
  refine ⟨_, hrun, ?_⟩
  cases ok with
  | false =>
    obtain ⟨hnone, hother⟩ := loadFails_ends hruns hbanks
    have hsame := (surveyed_loadFails v).trans hsurv
    rw [pageLoaded_refused (s := s.pageTaken changes) (v := v) hload hpos hv]
    refine ⟨cells_of_surveyed hsame, (device_of_surveyed hsame).trans rfl, (fun h => nomatch h), (fun h => nomatch h),
      fun _ => ⟨hnone, fun b g hne ht hv hnt => ?_⟩⟩
    have hlast := hother b bk g hne ht hv hnt
    exact ⟨hlast.begins, hlast.succeeds, hlast.fails⟩
  | true =>
    rw [pageLoaded_passed (s := s.pageTaken changes) (v := v) hload hpos hv]
    by_cases hmore : i + 1 < h.pages
    · rw [if_pos hmore]
      have hbegun : s.RestoreRuns ((v.pageRead i).beginRead bk (i + 2)) :=
        (hruns.trans (restoreRuns_pageRead i v)).trans (restoreRuns_setFlash _ _)
      refine ⟨cells_of_surveyed (t := v) hsurv, (device_of_surveyed (t := v) hsurv).trans rfl,
        fun _ _ => ⟨rfl, hbegun.epoch, hbegun.opState, hbegun.links, hbegun.beside⟩, fun _ hp => by omega, fun hf => ?_⟩
      exact hf.elim (fun h => by cases h) (fun hp => by omega)
    · rw [if_neg hmore]
      by_cases hc : v.snap.check = some h.bodyCheck
      · rw [if_pos hc]
        have hsame := ((surveyed_restoreSucceeds bk h (v.pageRead i)).trans hsurvRead).trans hsurv
        have hkeep {α : Type} (f : State → α) (h1 : ∀ (u : State) n l, f (u.putLink n l) = f u)
            (h2 : ∀ (u : State) x, f (u.setEpoch x) = f u) (h3 : ∀ (u : State) x, f (u.setOpState x) = f u)
            (h4 : ∀ (u : State) x, f (u.setSnap x) = f u) (h5 : ∀ (u : State) x, f (u.setFlash x) = f u)
            (h6 : ∀ (u : State) x, f (u.setEventSet x) = f u) : f ((v.pageRead i).restoreSucceeds bk h) = f v :=
          (restoreSucceeds_keep f h1 h2 h3 h4 h5 h6 bk h _).trans (h4 _ _)
        have hrest := (hruns.trans (restoreRuns_pageRead i v)).restored (restored_restoreSucceeds bk h (v.pageRead i))
        rw [hbanksRead.target, orZero_eq_getD] at hrest
        refine ⟨cells_of_surveyed hsame, (device_of_surveyed hsame).trans rfl, fun _ hm => absurd hm hmore, fun _ _ _ =>
          ⟨hrest, ?_, ?_, ?_, ?_, ?_, ?_, ?_, restoreSucceeds_eventSet bk h _⟩,
          fun hf => hf.elim (fun h => by cases h) (fun hn => absurd hc hn.2)⟩
        · exact hkeep State.rows (fun _ _ _ => rfl) (fun _ _ => rfl) (fun _ _ => rfl) (fun _ _ => rfl) (fun _ _ => rfl) (fun _ _ => rfl)
        · exact hkeep State.spanIndex (fun _ _ _ => rfl) (fun _ _ => rfl) (fun _ _ => rfl) (fun _ _ => rfl) (fun _ _ => rfl)
            (fun _ _ => rfl)
        · exact hkeep State.copies (fun _ _ _ => rfl) (fun _ _ => rfl) (fun _ _ => rfl) (fun _ _ => rfl) (fun _ _ => rfl) (fun _ _ => rfl)
        · exact hkeep State.freeCount (fun _ _ _ => rfl) (fun _ _ => rfl) (fun _ _ => rfl) (fun _ _ => rfl) (fun _ _ => rfl)
            (fun _ _ => rfl)
        · exact hkeep State.superseded (fun _ _ _ => rfl) (fun _ _ => rfl) (fun _ _ => rfl) (fun _ _ => rfl) (fun _ _ => rfl)
            (fun _ _ => rfl)
        · exact hkeep State.slots (fun _ _ _ => rfl) (fun _ _ => rfl) (fun _ _ => rfl) (fun _ _ => rfl) (fun _ _ => rfl) (fun _ _ => rfl)
        · exact hkeep State.lowArmed (fun _ _ _ => rfl) (fun _ _ => rfl) (fun _ _ => rfl) (fun _ _ => rfl) (fun _ _ => rfl)
            (fun _ _ => rfl)
      · rw [if_neg hc]
        obtain ⟨hnone, hother⟩ := loadFails_ends (hruns.trans (restoreRuns_pageRead i v)) hbanksRead
        have hsame := ((surveyed_loadFails (v.pageRead i)).trans hsurvRead).trans hsurv
        refine ⟨cells_of_surveyed hsame, (device_of_surveyed hsame).trans rfl, fun _ hm => absurd hm hmore,
          fun _ _ hc' => absurd hc' hc, fun _ => ⟨hnone, fun b g hne ht hv hnt => ?_⟩⟩
        have hlast := hother b bk g hne ht hv hnt
        exact ⟨hlast.begins, hlast.succeeds, hlast.fails⟩

end Sys2Proof.Machine
end

section
/-! PROOF. Identification and header reads (9.3, 9.5): the choice of a save's target and of a restore's bank. -/

namespace Sys2Proof.Machine

variable {s t u w : State} {bk other : Bank} {h : BankHeader}

/-! ### The choice (R160, R164) -/

/-- The survey is the header `o` when there is one, and not valid otherwise. -/
def Survey.Shows (v : Survey) (o : Option BankHeader) : Prop := ∀ h, v = .valid h ↔ o = some h

theorem Survey.Shows.of_none {v : Survey} (hv : v.Shows none) : v = .unknown ∨ v = .invalid := by
  cases v with
  | unknown => exact .inl rfl
  | invalid => exact .inr rfl
  | valid h => exact nomatch (hv h).1 rfl

theorem Survey.Shows.of_some {v : Survey} (hv : v.Shows (some h)) : v = .valid h := (hv h).2 rfl

theorem shows_surveyOfPage (page : List Byte) : (surveyOfPage page).Shows (headerOfPage page) := by
  intro h
  unfold surveyOfPage
  cases headerOfPage page <;> simp

theorem chooseTarget_eq {va vb : Survey} {a b : Option BankHeader} {tgt : Bank} {q : Nat} (ha : va.Shows a) (hb : vb.Shows b)
    (hc : a = none ∧ b = none ∧ tgt = .bankA ∧ q = 1 ∨
      (∃ x, a = some x ∧ b = none ∧ tgt = .bankB ∧ q = x.sequence + 1) ∨
      (∃ y, a = none ∧ b = some y ∧ tgt = .bankA ∧ q = y.sequence + 1) ∨
      (∃ x y, a = some x ∧ b = some y ∧ x.sequence < y.sequence ∧ tgt = .bankA ∧ q = y.sequence + 1) ∨
      (∃ x y, a = some x ∧ b = some y ∧ y.sequence ≤ x.sequence ∧ tgt = .bankB ∧ q = x.sequence + 1)) :
    chooseTarget va vb = (tgt, q) := by
  obtain ⟨rfl, rfl, rfl, rfl⟩ | ⟨x, rfl, rfl, rfl, rfl⟩ | ⟨y, rfl, rfl, rfl, rfl⟩ | ⟨x, y, rfl, rfl, hlt, rfl, rfl⟩ |
    ⟨x, y, rfl, rfl, hle, rfl, rfl⟩ := hc
  · obtain rfl | rfl := ha.of_none
    all_goals
      obtain rfl | rfl := hb.of_none
      all_goals rfl
  · obtain rfl := ha.of_some
    obtain rfl | rfl := hb.of_none
    all_goals rfl
  · obtain rfl := hb.of_some
    obtain rfl | rfl := ha.of_none
    all_goals rfl
  · obtain rfl := ha.of_some
    obtain rfl := hb.of_some
    exact if_pos hlt
  · obtain rfl := ha.of_some
    obtain rfl := hb.of_some
    exact if_neg (Nat.not_lt.2 hle)

theorem newestValid_none {va vb : Survey} (ha : va.Shows none) (hb : vb.Shows none) : newestValid va vb = none := by
  obtain rfl | rfl := ha.of_none
  all_goals
    obtain rfl | rfl := hb.of_none
    all_goals rfl

theorem newestValid_bankA {va vb : Survey} {o : Option BankHeader} (ha : va.Shows (some h)) (hb : vb.Shows o)
    (ho : ∀ y, o = some y → y.sequence ≤ h.sequence) : newestValid va vb = some (.bankA, h) := by
  obtain rfl := ha.of_some
  cases o with
  | none =>
    obtain rfl | rfl := hb.of_none
    all_goals rfl
  | some y =>
    obtain rfl := hb.of_some
    exact if_neg (Nat.not_lt.2 (ho y rfl))

theorem newestValid_bankB {va vb : Survey} {o : Option BankHeader} (ha : va.Shows o) (hb : vb.Shows (some h))
    (ho : ∀ x, o = some x → x.sequence < h.sequence) : newestValid va vb = some (.bankB, h) := by
  obtain rfl := hb.of_some
  cases o with
  | none =>
    obtain rfl | rfl := ha.of_none
    all_goals rfl
  | some x =>
    obtain rfl := ha.of_some
    exact if_pos (ho x rfl)

/-! ### Both headers read -/

/-- The state in which bank B's header, read as `vb`, lets the unit choose. -/
def State.headersRead (s : State) (cells : List Host.Cell) (vb : Survey) : State :=
  (s.setFlash { s.flash with cells := cells, op := none }).setSnap { s.snap with surveyB := vb }

theorem exec_pageReadDone_headerA {changes : List Host.Cell} (ho : s.flash.op = some (.read .bankA 0)) :
    exec (.pageReadDone changes) s = .next ((((s.setFlash { s.flash with
      cells := applyChanges changes s.flash.cells, op := none }).setSnap { s.snap with
        surveyA := surveyOfPage (readPage (applyChanges changes s.flash.cells) .bankA 0) }).beginRead .bankB 0)) := by
  change execPageReadDone changes s = _
  rw [execPageReadDone, ho]
  rfl

theorem exec_pageReadDone_headerB {changes : List Host.Cell} {vb : Survey} (ho : s.flash.op = some (.read .bankB 0))
    (hv : vb = surveyOfPage (readPage (applyChanges changes s.flash.cells) .bankB 0)) :
    exec (.pageReadDone changes) s = .next (if s.saving then (s.headersRead (applyChanges changes s.flash.cells) vb).chooseAndErase
      else (s.headersRead (applyChanges changes s.flash.cells) vb).selectBank) := by
  subst hv
  change execPageReadDone changes s = _
  rw [execPageReadDone, ho]
  rfl

theorem exec_identificationDone (ho : s.flash.op = some .identify) :
    exec .identificationDone s = .next ((s.setFlash s.flash.settled).beginRead .bankA 0) := congrArg Host.Outcome.next (if_pos ho)

theorem settled_device (f : Flash) : f.settled.device = none := by
  unfold Flash.settled
  cases hd : f.device with
  | none => exact hd
  | some d => rfl

theorem settled_cells {f : Flash} (h : f.device = none) : f.settled.cells = f.cells := by
  unfold Flash.settled
  rw [h]

theorem restoreRuns_headersRead (s : State) (cells : List Host.Cell) (vb : Survey) : s.RestoreRuns (s.headersRead cells vb) :=
  ⟨rfl, rfl, rfl, rfl, rfl, (State.SameBesideRestore.setFlash s _).trans (.setSnap _ _)⟩

theorem chooseAndErase_erases {tgt : Bank} {q : Nat} (hc : chooseTarget s.snap.surveyA s.snap.surveyB = (tgt, q)) (hq : q ≤ 4294967295) :
    s.chooseAndErase = (s.setSnap { s.snap with target := some tgt, sequence := some q }).beginErase tgt := by
  unfold State.chooseAndErase
  rw [hc]
  exact if_neg (Nat.not_lt.2 hq)

theorem chooseAndErase_aborts {tgt : Bank} {q : Nat} (hc : chooseTarget s.snap.surveyA s.snap.surveyB = (tgt, q)) (hq : 4294967295 < q) :
    s.chooseAndErase = s.endSave .aborted := by
  unfold State.chooseAndErase
  rw [hc]
  exact if_pos hq

theorem selectBank_none (hn : newestValid s.snap.surveyA s.snap.surveyB = none) : s.selectBank = s.restoreFails .noSnapshot := by
  unfold State.selectBank
  rw [hn]

theorem selectBank_some (hn : newestValid s.snap.surveyA s.snap.surveyB = some (bk, h)) : s.selectBank = State.tryBank 1 bk h s := by
  unfold State.selectBank
  rw [hn]

theorem surveyed_selectBank (s : State) : s.selectBank.surveyed = s.surveyed := by
  cases hn : newestValid s.snap.surveyA s.snap.surveyB with
  | none =>
    rw [selectBank_none hn]
    rfl
  | some x => rw [selectBank_some (bk := x.1) (h := x.2) hn, surveyed_tryBank]

/-- Both headers read while a save runs: the erase of the target, or the end for want of a sequence number. -/
theorem chooseAndErase_cells (s : State) (ht : s.snap.target = none) : s.chooseAndErase.flash.cells = s.flash.cells ∧
    s.chooseAndErase.snap.surveyA = s.snap.surveyA ∧ s.chooseAndErase.snap.surveyB = s.snap.surveyB := by
  obtain hc | ⟨b, q, hc⟩ := chooseAndErase_cases s
  · have hend := (saveEnded_endSave .aborted s).snap
    rw [hc, cells_endSave, hend, ht]
    exact ⟨rfl, rfl, rfl⟩
  · rw [hc]
    exact ⟨rfl, rfl, rfl⟩

/-! ### The newest bank begun by a restore (R172 to R174) -/

section
variable {o : Option BankHeader} (hA : s.snap.triedA = false) (hB : s.snap.triedB = false)
include hA hB

theorem markTried_first (bk : Bank) : (s.snap.markTried bk).triedA = decide (bk = .bankA) ∧
    (s.snap.markTried bk).triedB = decide (bk = .bankB) := by
  cases bk
  · exact ⟨rfl, hB⟩
  · exact ⟨hA, rfl⟩

theorem tried_first (c : Bank) : s.snap.tried c = false := by
  cases c
  · exact hA
  · exact hB

/-- The first bank of a restore with entries has its first page read, the slots freed. -/
theorem firstBank_begins (hp : h.Passes) (hn : 0 < h.profileCount + h.recordCount) (fuel : Nat) :
    s.LoadBegun (State.tryBank fuel bk h s) bk h (decide (bk = .bankA)) (decide (bk = .bankB)) ∧
      (State.tryBank fuel bk h s).slots = [] ∧ (State.tryBank fuel bk h s).rows = s.rows ∧
      (State.tryBank fuel bk h s).spanIndex = s.spanIndex ∧ (State.tryBank fuel bk h s).copies = s.copies ∧
      (State.tryBank fuel bk h s).freeCount = s.freeCount ∧ (State.tryBank fuel bk h s).eventSet = s.eventSet := by
  have hbegun := loadBegun_beginRead hp bk s
  obtain ⟨htA, htB⟩ := markTried_first hA hB bk
  rw [htA, htB] at hbegun
  rw [tryBank_begins fuel hp hn]
  exact ⟨hbegun, beginLoading_slots bk h s (.inr ⟨hA, hB⟩), beginLoading_keep State.rows (fun _ _ => rfl) (fun _ _ => rfl) bk h s,
    beginLoading_keep State.spanIndex (fun _ _ => rfl) (fun _ _ => rfl) bk h s,
    beginLoading_keep State.copies (fun _ _ => rfl) (fun _ _ => rfl) bk h s,
    beginLoading_keep State.freeCount (fun _ _ => rfl) (fun _ _ => rfl) bk h s,
    beginLoading_keep State.eventSet (fun _ _ => rfl) (fun _ _ => rfl) bk h s⟩

/-- The first bank of a restore without entries, its check value right, ends the restore. -/
theorem firstBank_succeeds (hp : h.Passes) (hn : h.profileCount + h.recordCount = 0) (hc : h.bodyCheck = 0xFFFFFFFF#32) (fuel : Nat) :
    s.Restored (State.tryBank fuel bk h s) bk h (max s.epoch h.savedEpoch + 1) ∧
      (State.tryBank fuel bk h s).slots = [] ∧ (State.tryBank fuel bk h s).rows = s.rows ∧
      (State.tryBank fuel bk h s).spanIndex = s.spanIndex ∧ (State.tryBank fuel bk h s).copies = s.copies ∧
      (State.tryBank fuel bk h s).eventSet = { s.eventSet with set := s.eventSet.set ||| 0x010#12 } := by
  have hkeep {α : Type} (f : State → α) (h1 : ∀ (u : State) n l, f (u.putLink n l) = f u)
      (h2 : ∀ (u : State) x, f (u.setEpoch x) = f u) (h3 : ∀ (u : State) x, f (u.setOpState x) = f u)
      (h4 : ∀ (u : State) x, f (u.setSnap x) = f u) (h5 : ∀ (u : State) x, f (u.setFlash x) = f u)
      (h6 : ∀ (u : State) x, f (u.setEventSet x) = f u) : f ((s.beginLoading bk h).restoreSucceeds bk h) = f (s.beginLoading bk h) :=
    restoreSucceeds_keep f h1 h2 h3 h4 h5 h6 bk h _
  rw [tryBank_succeeds fuel hp hn hc]
  refine ⟨restored_beginLoading hp bk s, ?_, ?_, ?_, ?_, ?_⟩
  · exact (hkeep State.slots (fun _ _ _ => rfl) (fun _ _ => rfl) (fun _ _ => rfl) (fun _ _ => rfl) (fun _ _ => rfl)
      (fun _ _ => rfl)).trans (beginLoading_slots bk h s (.inr ⟨hA, hB⟩))
  · exact (hkeep State.rows (fun _ _ _ => rfl) (fun _ _ => rfl) (fun _ _ => rfl) (fun _ _ => rfl) (fun _ _ => rfl)
      (fun _ _ => rfl)).trans (beginLoading_keep State.rows (fun _ _ => rfl) (fun _ _ => rfl) bk h s)
  · exact (hkeep State.spanIndex (fun _ _ _ => rfl) (fun _ _ => rfl) (fun _ _ => rfl) (fun _ _ => rfl) (fun _ _ => rfl)
      (fun _ _ => rfl)).trans (beginLoading_keep State.spanIndex (fun _ _ => rfl) (fun _ _ => rfl) bk h s)
  · exact (hkeep State.copies (fun _ _ _ => rfl) (fun _ _ => rfl) (fun _ _ => rfl) (fun _ _ => rfl) (fun _ _ => rfl)
      (fun _ _ => rfl)).trans (beginLoading_keep State.copies (fun _ _ => rfl) (fun _ _ => rfl) bk h s)
  · rw [restoreSucceeds_eventSet, beginLoading_keep State.eventSet (fun _ _ => rfl) (fun _ _ => rfl) bk h s]

/-- The first bank of a restore that fails at once: the other bank if it is valid, or the end. -/
theorem firstBank_fails (hf : h.failsAtOnce) (hne : other ≠ bk) (ho : (s.snap.survey other).Shows o)  (fuel : Nat) :
    (o = none → s.RestoreFailed (State.tryBank (fuel + 1) bk h s) .corrupt (decide (bk = .bankA)) (decide (bk = .bankB)) ∧
      (State.tryBank (fuel + 1) bk h s).StoresEmpty ∧
      (State.tryBank (fuel + 1) bk h s).eventSet = s.eventSet.restoreFailedWith .corrupt) ∧
    (∀ g, o = some g → s.LastBankTried (State.tryBank (fuel + 1) bk h s) other g s.eventSet) := by
  have hevents : (s.beginLoading bk h).eventSet = s.eventSet := beginLoading_keep State.eventSet (fun _ _ => rfl) (fun _ _ => rfl) bk h s
  have hruns := restoreRuns_beginLoading bk h s
  rw [tryBank_fails (fuel + 1) hf]
  refine ⟨fun hnone => ?_, fun g hsome => ?_⟩
  · have hend := restoreFailed_afterDiscard (fuel + 1) (s.beginLoading bk h) fun c g hv => by
      rw [survey_beginLoading] at hv
      rw [tried_beginLoading]
      by_cases hc : c = bk
      · simp [hc]
      · obtain rfl : c = other := by cases c <;> cases bk <;> cases other <;> simp_all
        rw [hnone] at ho
        exact nomatch (ho g).1 hv
    obtain ⟨htA, htB⟩ := markTried_first hA hB bk
    rw [beginLoading_snap, hevents] at hend
    change State.RestoreFailed _ _ .corrupt (s.snap.markTried bk).triedA (s.snap.markTried bk).triedB ∧ _ at hend
    rw [htA, htB] at hend
    exact hend.imp_left hruns.restoreFailed
  · subst hsome
    have hlast := lastBankTried_afterDiscard (b := other) (g := g) fuel (s.beginLoading bk h) (c := bk)
      ((survey_beginLoading bk other h s).trans ho.of_some)
      (by rw [tried_beginLoading, tried_first hA hB, Bool.or_false]; exact decide_eq_false hne) (fun hc => hne hc.symm)
      (by rw [tried_beginLoading]; simp)
    rw [hevents] at hlast
    exact hlast.of_runs hruns

end

/-- Settles O43: by the operation waited for, and what the two headers show. -/
theorem flashReadsLeadOn : Obligations.FlashReadsLeadOn := by
  intro s changes cells hcells
  subst hcells
  refine ⟨fun ho => ⟨_, exec_identificationDone ho, rfl, settled_device _, fun hd => settled_cells hd, rfl, rfl, rfl,
    (State.SameStores.setFlash s _).trans (.setFlash _ _)⟩, fun ho => ⟨_, exec_pageReadDone_headerA ho, rfl, ?_, rfl, rfl,
    ((State.SameStores.setFlash s _).trans (.setSnap _ _)).trans (.setFlash _ _)⟩, fun a b vb ho htarget ha hb hvb => ?_⟩
  · unfold surveyOfPage
    cases headerOfPage (readPage (applyChanges changes s.flash.cells) .bankA 0) <;> rfl
  have hpage : vb = surveyOfPage (readPage (applyChanges changes s.flash.cells) .bankB 0) := by
    rw [hvb, hb]
    unfold surveyOfPage
    cases headerOfPage (readPage (applyChanges changes s.flash.cells) .bankB 0) <;> rfl
  have hshowsA : s.snap.surveyA.Shows a := ha
  have hshowsB : vb.Shows b := by
    rw [hpage, hb]
    exact shows_surveyOfPage _
  have hrun := exec_pageReadDone_headerB ho hpage
  clear hvb hpage hb
  cases hs : s.saving with
  | true =>
    rw [hs] at hrun
    obtain ⟨hcells, hsA, hsB⟩ := chooseAndErase_cells (s.headersRead (applyChanges changes s.flash.cells) vb) htarget
    refine ⟨_, hrun, hcells, hsA, hsB, fun tgt q _ hc => ⟨fun hq => ?_, fun hq => ?_⟩, fun h => (by cases h), fun _ _ _ _ h => (by cases h)⟩
    · have hchoose : chooseTarget (s.headersRead (applyChanges changes s.flash.cells) vb).snap.surveyA
          (s.headersRead (applyChanges changes s.flash.cells) vb).snap.surveyB = (tgt, q) := chooseTarget_eq hshowsA hshowsB hc
      rw [if_pos rfl, chooseAndErase_erases hchoose hq]
      exact ⟨rfl, rfl, rfl, rfl, rfl, ((State.SameStores.setFlash s _).trans (.setSnap _ _)).trans ((State.SameStores.setSnap _ _).trans
        (.setFlash _ _))⟩
    · have hchoose : chooseTarget (s.headersRead (applyChanges changes s.flash.cells) vb).snap.surveyA
          (s.headersRead (applyChanges changes s.flash.cells) vb).snap.surveyB = (tgt, q) := chooseTarget_eq hshowsA hshowsB hc
      rw [if_pos rfl, chooseAndErase_aborts hchoose hq]
      have hend := saveEnded_endSave .aborted (s.headersRead (applyChanges changes s.flash.cells) vb)
      have hend' : (s.setSnap { s.snap with surveyB := vb }).SaveEnded
          ((s.headersRead (applyChanges changes s.flash.cells) vb).endSave .aborted) .aborted :=
        State.SaveEnded.of_setFlash (f := { s.flash with cells := applyChanges changes s.flash.cells, op := none }) hend
      exact ⟨hend', by rw [endSave_flash]; rfl, hend.unpinned⟩
  | false =>
    rw [hs] at hrun
    have hsurv := surveyed_selectBank (s.headersRead (applyChanges changes s.flash.cells) vb)
    have hruns := restoreRuns_headersRead s (applyChanges changes s.flash.cells) vb
    obtain ⟨hsA, hsB⟩ := surveys_of_surveyed hsurv
    refine ⟨_, hrun, cells_of_surveyed hsurv, hsA, hsB, fun _ _ h => (by cases h), fun _ hna hnb => ?_,
      fun bk other h o _ htA htB hc => ?_⟩
    · subst hna hnb
      rw [if_neg (by decide), selectBank_none (s := s.headersRead _ vb) (newestValid_none hshowsA hshowsB)]
      exact ⟨hruns.restoreFailed (restoreFailed_restoreFails _ _), rfl,
        ((State.SameStores.setFlash s _).trans (.setSnap _ _)).trans (.restoreFails _ _)⟩
    · obtain ⟨hnew, hshows, hne⟩ : newestValid (s.headersRead (applyChanges changes s.flash.cells) vb).snap.surveyA
          (s.headersRead (applyChanges changes s.flash.cells) vb).snap.surveyB = some (bk, h) ∧
          ((s.headersRead (applyChanges changes s.flash.cells) vb).snap.survey other).Shows o ∧ other ≠ bk := by
        obtain ⟨rfl, rfl, rfl, rfl, ho⟩ | ⟨rfl, rfl, rfl, rfl, ho⟩ := hc
        · exact ⟨newestValid_bankA hshowsA hshowsB ho, hshowsB, by decide⟩
        · exact ⟨newestValid_bankB hshowsA hshowsB ho, hshowsA, by decide⟩
      rw [if_neg (by decide), selectBank_some hnew]
      refine ⟨fun hp hn => ?_, fun hp hn hck => ?_, fun hf => ?_⟩
      · exact (firstBank_begins (s := s.headersRead _ vb) htA htB hp hn 1).imp_left hruns.loadBegun
      · exact (firstBank_succeeds (s := s.headersRead _ vb) htA htB hp hn hck 1).imp_left hruns.restored
      · obtain ⟨hnone, hsome⟩ := firstBank_fails (s := s.headersRead _ vb) htA htB hf hne hshows 0
        refine ⟨fun ho => (hnone ho).imp_left hruns.restoreFailed, fun g ho => ?_⟩
        have hlast := (hsome g ho).of_runs hruns
        exact ⟨hlast.begins, hlast.succeeds, hlast.fails⟩

end Sys2Proof.Machine
end

section
/-! PROOF. Entries of a bank (9.5, 11.7): what loads and what does not. -/

namespace Sys2Proof.Machine

variable {s t u : State}

theorem loadOverlaps_iff {sp : Span} : s.loadOverlaps sp = true ↔
    ∃ q sp', (s.row q).span = some sp' ∧ sp.overlaps sp' = true := by
  unfold State.loadOverlaps
  rw [List.any_eq_true]
  constructor
  · rintro ⟨q, -, hq⟩
    unfold State.overlapsRow at hq
    cases hsp : (s.row q).span with
    | none => rw [hsp] at hq; cases hq
    | some sp' => rw [hsp] at hq; exact ⟨q, sp', hsp, hq⟩
  · rintro ⟨q, sp', hsp, hover⟩
    refine ⟨q, mem_keys_of_ne (d := Row.free) fun hfree => ?_, ?_⟩
    · have hrow : s.row q = Row.free := hfree
      rw [hrow] at hsp
      cases hsp
    · simp only [State.overlapsRow, hsp, hover]

/-- The row that a record entry becomes. -/
def Row.loaded (sp : Span) (e c : Nat) : Row := { Row.free with phase := .live, span := some sp, born := some e, live := some c }

/-- The live copy that a record entry becomes. -/
def Copy.loaded (r e : Nat) (b : Body) : Copy :=
  { Copy.free with state := .live, owner := some r, activated := some e, body := some b }

/-- The checks that a record entry has to pass, its body read and a copy at hand (R23, R42). -/
def State.RecordFits (s : State) (r : Nat) (sp : Span) (b : Body) : Prop :=
  r < 1024 ∧ (s.row r).phase = .free ∧ sp.valid = true ∧ s.loadOverlaps sp = false ∧ s.bodyValid sp.count b = true

theorem loadRecord_none_of_not_fits {entry : List Byte} (e : Nat)
    (h : ∀ b, entryBody entry = some b → ¬s.RecordFits (fieldAt entry 0 2) (entrySpan entry) b) : s.loadRecord e entry = none := by
  unfold State.loadRecord
  dsimp only
  cases hb : entryBody entry with
  | none => cases s.lowestFreeCopy <;> rfl
  | some b =>
    cases s.lowestFreeCopy with
    | none => rfl
    | some c => exact if_neg (h b hb)

theorem loadRecord_some_of_fits {entry : List Byte} {b : Body} {c : Nat} (e : Nat) (hb : entryBody entry = some b)
    (hc : s.lowestFreeCopy = some c) (h : s.RecordFits (fieldAt entry 0 2) (entrySpan entry) b) : s.loadRecord e entry =
      some ((s.claimRow (fieldAt entry 0 2) (entrySpan entry) (Row.loaded (entrySpan entry) e c)).allocCopy c
        (Copy.loaded (fieldAt entry 0 2) e b)) := by
  unfold State.loadRecord
  dsimp only
  rw [hb, hc]
  exact if_pos h

/-- Settles O45: the entries of a page, one entry's loading, and what each kind of entry must pass. -/
theorem bankEntriesLoad : Obligations.BankEntriesLoad := by
  refine ⟨fun h i page s => ⟨fun hi => ?_, fun j hi => ?_⟩, fun load s u entry rest hu => ⟨rfl, fun t ht => ?_, fun hn => ?_⟩,
    fun e entry s => ⟨fun hk hfree hp => ?_, fun hbad => ?_⟩, fun e r c entry sp b s hr hsp hb hc hrl hfree hv hover hbody => ?_,
    fun e entry s hbad => loadRecord_none_of_not_fits e fun b hb hfits => ?_⟩
  · unfold State.loadPage
    rw [orZero_eq_getD]
    exact if_pos hi
  · subst hi
    unfold State.loadPage
    rw [orZero_eq_getD]
    refine (if_neg (Nat.not_lt.2 (Nat.le_add_right _ _))).trans ?_
    rw [profilePages, Nat.add_sub_cancel_left]
    rfl
  · subst hu
    rw [State.loadEntries]
    unfold State.extendCheck
    rw [show load entry (s.setSnap { s.snap with check := some (crc32From (s.snap.check.getD crc32Start) entry) }) = some t from ht]
  · subst hu
    rw [State.loadEntries]
    unfold State.extendCheck
    rw [show load entry (s.setSnap { s.snap with check := some (crc32From (s.snap.check.getD crc32Start) entry) }) = none from hn]
  · exact if_pos ⟨hk, hfree, hp⟩
  · refine if_neg ?_
    rintro ⟨hk, hfree, hp⟩
    obtain hk' | hfree' | hp' := hbad
    · exact absurd hk (Nat.not_lt.2 hk')
    · exact hfree' hfree
    · exact absurd hp (by simp [hp'])
  · subst hr hsp
    have hno : s.loadOverlaps (entrySpan entry) = false := by
      rw [Bool.eq_false_iff, Ne, loadOverlaps_iff]
      rintro ⟨q, sp', hq, ho⟩
      rw [hover q sp' hq] at ho
      cases ho
    have hstores := (StoresOnly.claimRow (fieldAt entry 0 2) (entrySpan entry) (Row.loaded (entrySpan entry) e c) s).trans
      (StoresOnly.allocCopy c (Copy.loaded (fieldAt entry 0 2) e b) _)
    have hlow := allocCopy_low (s.claimRow (fieldAt entry 0 2) (entrySpan entry) (Row.loaded (entrySpan entry) e c)) c
      (Copy.loaded (fieldAt entry 0 2) e b)
    have hquiet := allocCopy_quiet (s.claimRow (fieldAt entry 0 2) (entrySpan entry) (Row.loaded (entrySpan entry) e c)) c
      (Copy.loaded (fieldAt entry 0 2) e b)
    rw [claimRow_freeCount, claimRow_params, claimRow_lowArmed, claimRow_eventSet] at hlow hquiet
    refine ⟨_, loadRecord_some_of_fits e hb (lowestFreeCopy_eq (c := c) ⟨hc.inRange, hc.isFree, hc.lower⟩)
      ⟨hrl, hfree, hv, hno, hbody⟩, fun k => ?_, fun k => ?_, fun k => ?_, by simp, by simp, fun hl ha => ?_, fun hq => ?_,
      hstores.epoch, hstores.opState, by simp, hstores.snap, hstores.flash, hstores.samePorts⟩
    · rw [allocCopy_row, claimRow_row]
      rfl
    · rw [allocCopy_copy, claimRow_copy]
      rfl
    · rw [allocCopy_slot, claimRow_slot]
      rfl
    · rw [allocCopy_freeCount, claimRow_freeCount] at hl
      exact hlow hl ha
    · rw [allocCopy_freeCount, claimRow_freeCount] at hq
      exact hquiet hq
  · obtain ⟨hr, hfree, hv, hno, hbody⟩ := hfits
    obtain hr' | hfree' | hv' | ⟨q, sp', hq, ho⟩ | hb' | ⟨b', hb', hbody'⟩ := hbad
    · exact absurd hr (Nat.not_lt.2 hr')
    · exact hfree' hfree
    · rw [hv'] at hv
      cases hv
    · rw [loadOverlaps_iff.2 ⟨q, sp', hq, ho⟩] at hno
      cases hno
    · rw [hb'] at hb
      cases hb
    · obtain rfl := Option.some.inj (hb'.symm.trans hb)
      rw [hbody] at hbody'
      cases hbody'

end Sys2Proof.Machine
end

section
/-! PROOF. The flash bank's formats (11.7): what is written reads back. -/

namespace Sys2Proof.Machine

/-! ### Values and bytes -/

@[simp] theorem length_bytesOf (v n : Nat) : (bytesOf v n).length = n := by
  induction n with
  | zero => rfl
  | succ n ih => rw [bytesOf, List.length_cons, ih]

theorem foldl_bytesOf (v n a : Nat) : (bytesOf v n).foldl (fun v b => v * 256 + b.toNat) a = a * 256 ^ n + v % 256 ^ n := by
  induction n generalizing a with
  | zero => simp [bytesOf, Nat.mod_one]
  | succ n ih =>
    have hbyte : (BitVec.ofNat 8 (v / 256 ^ n)).toNat = v / 256 ^ n % 256 := BitVec.toNat_ofNat ..
    rw [bytesOf, List.foldl_cons, ih, hbyte, Nat.pow_succ, Nat.mod_mul, Nat.add_mul]
    ring

theorem valueOf_bytesOf (v n : Nat) : valueOf (bytesOf v n) = v % 256 ^ n := by
  rw [valueOf, foldl_bytesOf, Nat.zero_mul, Nat.zero_add]

theorem toInt_signed16 {x : Int} (hl : -32768 ≤ x) (hh : x ≤ 32767) : (BitVec.ofNat 16 (signed16 x)).toInt = x := by
  rw [signed16, BitVec.ofNat_toNat, BitVec.setWidth_eq, BitVec.toInt_ofInt]
  exact Int.bmod_eq_of_le (by omega) (by omega)

theorem toInt_signed8 {x : Int} (hl : -128 ≤ x) (hh : x ≤ 127) : (BitVec.ofNat 8 (BitVec.ofInt 8 x).toNat).toInt = x := by
  rw [BitVec.ofNat_toNat, BitVec.setWidth_eq, BitVec.toInt_ofInt]
  exact Int.bmod_eq_of_le (by omega) (by omega)

theorem length_fillTo {n : Nat} {bs : List Byte} (h : bs.length ≤ n) : (fillTo n bs).length = n := by
  rw [fillTo, List.length_append, List.length_replicate]
  omega

theorem fillTo_eq (n : Nat) (bs : List Byte) : ∃ rest, fillTo n bs = bs ++ rest := ⟨_, rfl⟩

/-! ### Fields of a page -/

/-- A field past the first part of a page. -/
theorem fieldAt_append {as : List Byte} {i : Nat} (h : as.length ≤ i) (bs : List Byte) (n : Nat) :
    fieldAt (as ++ bs) i n = fieldAt bs (i - as.length) n := by
  rw [fieldAt, fieldAt, List.drop_append, List.drop_eq_nil_of_le h, List.nil_append]

theorem fieldAt_first (v n : Nat) (bs : List Byte) : fieldAt (bytesOf v n ++ bs) 0 n = v % 256 ^ n := by
  rw [fieldAt, List.drop_zero, List.take_left' (length_bytesOf v n), valueOf_bytesOf]

theorem fieldAt_next {i m : Nat} (h : m ≤ i) (v n : Nat) (bs : List Byte) : fieldAt (bytesOf v m ++ bs) i n = fieldAt bs (i - m) n := by
  rw [fieldAt_append (by simpa using h), length_bytesOf]

/-- A field in the `j`-th of several parts of one length, one after the other. -/
theorem fieldAt_flatMap {α : Type} {f : α → List Byte} {m : Nat} (hf : ∀ x, (f x).length = m) {xs : List α} {j : Nat} (hj : j < xs.length)
    (bs : List Byte) (i n : Nat) :
    fieldAt (xs.flatMap f ++ bs) (m * j + i) n = fieldAt (f xs[j] ++ ((xs.drop (j + 1)).flatMap f ++ bs)) i n := by
  induction xs generalizing j with
  | nil => cases hj
  | cons x xs ih =>
    cases j with
    | zero => simp
    | succ j =>
      have hle : (f x).length ≤ m * (j + 1) + i := by
        rw [hf, Nat.mul_succ]
        omega
      rw [List.flatMap_cons, List.append_assoc, fieldAt_append hle, hf, show m * (j + 1) + i - m = m * j + i by rw [Nat.mul_succ]; omega,
        ih (Nat.lt_of_succ_lt_succ hj)]
      rfl

theorem length_flatMap_of {α : Type} {f : α → List Byte} {m : Nat} (hf : ∀ x, (f x).length = m) (xs : List α) :
    (xs.flatMap f).length = m * xs.length := by
  induction xs with
  | nil => rfl
  | cons x xs ih =>
    rw [List.flatMap_cons, List.length_append, hf, ih, List.length_cons, Nat.mul_succ, Nat.add_comm]

/-! ### The header page (R160, R200) -/

theorem length_headerBytes (h : BankHeader) : (headerBytes h).length = 20 := by simp [headerBytes]

theorem length_headerPage (h : BankHeader) : (headerPage h).length = 256 := by
  refine length_fillTo ?_
  rw [List.length_append, length_headerBytes, length_bytesOf]
  decide

theorem take_headerPage (h : BankHeader) : (headerPage h).take 20 = headerBytes h := by
  rw [headerPage, fillTo, List.append_assoc, List.take_left' (length_headerBytes h)]

theorem headerOfPage_headerPage {h : BankHeader} (hs : h.sequence ≤ 4294967295) (he : h.savedEpoch ≤ 4294967295)
    (hp : h.profileCount ≤ 65535) (hr : h.recordCount ≤ 65535) : headerOfPage (headerPage h) = some h := by
  obtain ⟨rest, hrest⟩ := fillTo_eq Config.pageBytes (headerBytes h ++ bytesOf (crc32From crc32Start (headerBytes h)).toNat 4)
  have hpage : headerPage h = bytesOf Config.magic.toNat 4 ++ (bytesOf h.sequence 4 ++ (bytesOf h.savedEpoch 4 ++ (bytesOf h.profileCount 2
      ++ (bytesOf h.recordCount 2 ++ (bytesOf h.bodyCheck.toNat 4 ++ (bytesOf (crc32From crc32Start (headerBytes h)).toNat 4
      ++ rest)))))) := by
    rw [headerPage, hrest]
    simp only [headerBytes, List.append_assoc]
  have hcheck : (crc32From crc32Start (headerBytes h)).toNat < 256 ^ 4 := (crc32From crc32Start (headerBytes h)).isLt
  have hbody : h.bodyCheck.toNat < 256 ^ 4 := h.bodyCheck.isLt
  have hmagic : Config.magic.toNat < 256 ^ 4 := Config.magic.isLt
  rw [headerOfPage, take_headerPage, hpage, fieldAt_first]
  simp only [fieldAt_next, fieldAt_first, Nat.reduceLeDiff, Nat.reduceSub]
  rw [Nat.mod_eq_of_lt hmagic, Nat.mod_eq_of_lt hcheck, Nat.mod_eq_of_lt hbody, Nat.mod_eq_of_lt (a := h.sequence) (by omega),
    Nat.mod_eq_of_lt (a := h.savedEpoch) (by omega), Nat.mod_eq_of_lt (a := h.profileCount) (by omega),
    Nat.mod_eq_of_lt (a := h.recordCount) (by omega), if_pos ⟨rfl, rfl⟩, BitVec.ofNat_toNat, BitVec.setWidth_eq]

/-! ### A profile entry -/

/-- A point's four bytes. -/
def pointBytes (x : Point) : List Byte := bytesOf x.input 2 ++ bytesOf (signed16 x.output) 2

theorem length_pointBytes (x : Point) : (pointBytes x).length = 4 := by simp [pointBytes]

theorem profileEntry_eq (k : Nat) (ps : List Point) : ∃ bs, profileEntry k ps =
    bytesOf k 1 ++ (bytesOf ps.length 1 ++ ([Config.erased, Config.erased] ++ (ps.flatMap pointBytes ++ bs))) := by
  obtain ⟨rest, hrest⟩ := fillTo_eq 128 (bytesOf k 1 ++ bytesOf ps.length 1 ++ [Config.erased, Config.erased] ++ ps.flatMap pointBytes)
  refine ⟨rest, hrest.trans ?_⟩
  simp only [List.append_assoc]

theorem valid_point {ps : List Point} (h : pointsValid ps = true) {x : Point} (hx : x ∈ ps) :
    x.input ≤ 4095 ∧ -32768 ≤ x.output ∧ x.output ≤ 32767 := by
  simp only [pointsValid, Bool.and_eq_true, List.all_eq_true, decide_eq_true_eq] at h
  obtain ⟨⟨-, hall⟩, -⟩ := h
  obtain ⟨⟨h1, h2⟩, h3⟩ := hall x hx
  exact ⟨h1, h2, h3⟩

theorem length_le_of_pointsValid {ps : List Point} (h : pointsValid ps = true) : ps.length ≤ 17 := by
  simp only [pointsValid, Bool.and_eq_true, decide_eq_true_eq] at h
  obtain ⟨⟨⟨-, hlen⟩, -⟩, -⟩ := h
  exact hlen

theorem entryPoints_profileEntry (k : Nat) {ps : List Point} (h : pointsValid ps = true) : entryPoints (profileEntry k ps) = ps := by
  obtain ⟨bs, hbs⟩ := profileEntry_eq k ps
  have hlen := length_le_of_pointsValid h
  have hcount : fieldAt (profileEntry k ps) 1 1 = ps.length := by
    rw [hbs, fieldAt_next (Nat.le_refl 1), Nat.sub_self, fieldAt_first]
    omega
  have hfield {j : Nat} (hj : j < ps.length) (i n : Nat) : fieldAt (profileEntry k ps) (4 + (4 * j + i)) n =
      fieldAt (pointBytes ps[j] ++ ((ps.drop (j + 1)).flatMap pointBytes ++ bs)) i n := by
    rw [hbs, fieldAt_next (by omega), fieldAt_next (by omega), fieldAt_append (by change 2 ≤ _; omega),
      show 4 + (4 * j + i) - 1 - 1 - [Config.erased, Config.erased].length = 4 * j + i by change _ - 1 - 1 - 2 = _; omega,
      fieldAt_flatMap length_pointBytes hj]
  rw [entryPoints, hcount]
  refine List.ext_getElem (by simp) fun j h1 hj => ?_
  obtain ⟨hin, hlo, hhi⟩ := valid_point h (List.getElem_mem hj)
  have hinput : fieldAt (profileEntry k ps) (4 + 4 * j) 2 = ps[j].input := by
    rw [show 4 + 4 * j = 4 + (4 * j + 0) by omega, hfield hj, pointBytes, List.append_assoc, fieldAt_first]
    omega
  have houtput : signedAt (profileEntry k ps) (6 + 4 * j) = ps[j].output := by
    have hlt : signed16 ps[j].output < 256 ^ 2 := (BitVec.ofInt 16 _).isLt
    rw [signedAt, show 6 + 4 * j = 4 + (4 * j + 2) by omega, hfield hj, pointBytes, List.append_assoc, fieldAt_next (Nat.le_refl 2),
      Nat.sub_self, fieldAt_first, Nat.mod_eq_of_lt hlt, toInt_signed16 hlo hhi]
  rw [List.getElem_map, List.getElem_range, hinput, houtput]

theorem length_profileEntry (k : Nat) {ps : List Point} (h : pointsValid ps = true) : (profileEntry k ps).length = 128 := by
  have hlen := length_le_of_pointsValid h
  have hpoints := length_flatMap_of length_pointBytes ps
  refine length_fillTo ?_
  change ((bytesOf k 1 ++ bytesOf ps.length 1 ++ [Config.erased, Config.erased]) ++ ps.flatMap pointBytes).length ≤ 128
  simp only [List.length_append, length_bytesOf, hpoints, List.length_cons, List.length_nil]
  omega

/-! ### A record entry -/

/-- A trim's two bytes. -/
def trimBytes (t : Trim) : List Byte := bytesOf t.offset 1 ++ bytesOf (BitVec.ofInt 8 t.delta).toNat 1

theorem length_trimBytes (t : Trim) : (trimBytes t).length = 2 := by simp [trimBytes]

theorem recordEntry_eq (r : Nat) (sp : Span) (b : Body) : ∃ bs, recordEntry r sp b =
    bytesOf r 2 ++ (bytesOf sp.first 2 ++ (bytesOf sp.count 2 ++ (bytesOf (signed16 b.pedestal) 2 ++ (bytesOf b.threshold 2 ++
      (bytesOf b.gain.code 1 ++ (bytesOf (flagBit b.enabled + 2 * flagBit b.profile.isSome) 1 ++ (bytesOf (orZero b.profile) 1 ++
      (bytesOf b.group 1 ++ (bytesOf b.trims.length 1 ++ ([Config.erased] ++ (b.trims.flatMap trimBytes ++ bs))))))))))) := by
  obtain ⟨rest, hrest⟩ := fillTo_eq 64 (fillTo 16 (bytesOf r 2 ++ bytesOf sp.first 2 ++ bytesOf sp.count 2 ++ bytesOf (signed16 b.pedestal) 2
    ++ bytesOf b.threshold 2 ++ bytesOf b.gain.code 1 ++ bytesOf (flagBit b.enabled + 2 * flagBit b.profile.isSome) 1
    ++ bytesOf (orZero b.profile) 1 ++ bytesOf b.group 1 ++ bytesOf b.trims.length 1) ++ b.trims.flatMap trimBytes)
  refine ⟨rest, hrest.trans ?_⟩
  rw [fillTo]
  simp only [List.append_assoc, List.length_append, length_bytesOf]
  rfl

theorem ofCode_gainCode (g : Gain) : Gain.ofCode g.code = some g := by cases g <;> rfl

theorem gainCode_lt (g : Gain) : g.code < 256 := by cases g <;> decide

/-- The ranges of a body's fields (R24). -/
structure Body.Ranged (b : Body) : Prop where
  low : -2048 ≤ b.pedestal
  high : b.pedestal ≤ 2047
  threshold : b.threshold ≤ 4095
  group : b.group ≤ 255
  count : b.trims.length ≤ 8
  trims : ∀ t ∈ b.trims, -128 ≤ t.delta ∧ t.delta ≤ 127

theorem ranged_of_inRange {b : Body} (h : b.inRange = true) : b.Ranged := by
  simp only [Body.inRange, Bool.and_eq_true, List.all_eq_true, decide_eq_true_eq] at h
  obtain ⟨⟨⟨⟨⟨h1, h2⟩, h3⟩, h4⟩, h5⟩, h6⟩ := h
  exact ⟨h1, h2, h3, h4, h5, h6⟩

theorem offset_lt_of_trimsOrdered {n : Nat} {ts : List Trim} (h : trimsOrdered n ts = true) : ∀ t ∈ ts, t.offset < n := by
  induction ts with
  | nil => exact fun t ht => nomatch ht
  | cons t ts ih =>
    cases ts with
    | nil =>
      rw [trimsOrdered, decide_eq_true_eq] at h
      exact fun u hu => by rwa [List.mem_singleton.1 hu]
    | cons u us =>
      rw [trimsOrdered, Bool.and_eq_true, Bool.and_eq_true, decide_eq_true_eq, decide_eq_true_eq] at h
      obtain ⟨⟨ht, -⟩, hrest⟩ := h
      exact fun w hw => (List.mem_cons.1 hw).elim (fun he => he ▸ ht) (ih hrest w)

section
variable {r : Nat} {sp : Span} {b : Body} (hb : b.Ranged)
include hb

theorem entryTrims_recordEntry (hts : ∀ t ∈ b.trims, t.offset < 256) : entryTrims (recordEntry r sp b) = b.trims := by
  obtain ⟨bs, hbs⟩ := recordEntry_eq r sp b
  have hlen := hb.count
  have hcount : fieldAt (recordEntry r sp b) 14 1 = b.trims.length := by
    rw [hbs]
    simp only [fieldAt_next, fieldAt_first, Nat.reduceLeDiff, Nat.reduceSub]
    omega
  have hfield {j : Nat} (hj : j < b.trims.length) (i n : Nat) : fieldAt (recordEntry r sp b) (16 + (2 * j + i)) n =
      fieldAt (trimBytes b.trims[j] ++ ((b.trims.drop (j + 1)).flatMap trimBytes ++ bs)) i n := by
    rw [hbs]
    iterate 10 rw [fieldAt_next (by omega)]
    rw [fieldAt_append (by change 1 ≤ _; omega), ← fieldAt_flatMap length_trimBytes hj]
    exact congrArg (fieldAt _ · n) (by change _ - 1 = _; omega)
  rw [entryTrims, hcount]
  refine List.ext_getElem (by simp) fun j h1 hj => ?_
  obtain ⟨hlo, hhi⟩ := hb.trims _ (List.getElem_mem hj)
  have hoff := hts _ (List.getElem_mem hj)
  have hoffset : fieldAt (recordEntry r sp b) (16 + 2 * j) 1 = b.trims[j].offset := by
    rw [show 16 + 2 * j = 16 + (2 * j + 0) by omega, hfield hj, trimBytes, List.append_assoc, fieldAt_first]
    omega
  have hdelta : (BitVec.ofNat 8 (fieldAt (recordEntry r sp b) (17 + 2 * j) 1)).toInt = b.trims[j].delta := by
    have hlt : (BitVec.ofInt 8 b.trims[j].delta).toNat < 256 ^ 1 := (BitVec.ofInt 8 _).isLt
    rw [show 17 + 2 * j = 16 + (2 * j + 1) by omega, hfield hj, trimBytes, List.append_assoc, fieldAt_next (Nat.le_refl 1),
      Nat.sub_self, fieldAt_first, Nat.mod_eq_of_lt hlt, toInt_signed8 hlo hhi]
  rw [List.getElem_map, List.getElem_range, hoffset, hdelta]

theorem length_recordEntry : (recordEntry r sp b).length = 64 := by
  have hlen := hb.count
  have htrims := length_flatMap_of length_trimBytes b.trims
  refine length_fillTo ?_
  rw [List.length_append, length_fillTo (by simp)]
  change 16 + (b.trims.flatMap trimBytes).length ≤ 64
  omega

theorem entryBody_recordEntry (hts : ∀ t ∈ b.trims, t.offset < 256) (hk : ∀ k, b.profile = some k → k < 32) :
    entryBody (recordEntry r sp b) = some b := by
  obtain ⟨bs, hbs⟩ := recordEntry_eq r sp b
  have htrims := entryTrims_recordEntry (r := r) (sp := sp) hb hts
  have hgain := gainCode_lt b.gain
  have hthreshold := hb.threshold
  have hgroup := hb.group
  have hped : signed16 b.pedestal < 256 ^ 2 := (BitVec.ofInt 16 _).isLt
  have hpedestal : signedAt (recordEntry r sp b) 6 = b.pedestal := by
    rw [signedAt, hbs]
    simp only [fieldAt_next, fieldAt_first, Nat.reduceLeDiff, Nat.reduceSub]
    rw [Nat.mod_eq_of_lt hped, toInt_signed16 (by have := hb.low; omega) (by have := hb.high; omega)]
  have hflags : flagBit b.enabled + 2 * flagBit b.profile.isSome < 4 := by
    cases b.enabled <;> cases b.profile.isSome <;> decide
  have hslot : orZero b.profile < 256 := by
    rw [orZero_eq_getD]
    cases hp : b.profile with
    | none => decide
    | some k => exact Nat.lt_trans (hk k hp) (by decide)
  have h10 : fieldAt (recordEntry r sp b) 10 1 = b.gain.code := by
    rw [hbs]
    simp only [fieldAt_next, fieldAt_first, Nat.reduceLeDiff, Nat.reduceSub]
    omega
  have h8 : fieldAt (recordEntry r sp b) 8 2 = b.threshold := by
    rw [hbs]
    simp only [fieldAt_next, fieldAt_first, Nat.reduceLeDiff, Nat.reduceSub]
    omega
  have h11 : fieldAt (recordEntry r sp b) 11 1 = flagBit b.enabled + 2 * flagBit b.profile.isSome := by
    rw [hbs]
    simp only [fieldAt_next, fieldAt_first, Nat.reduceLeDiff, Nat.reduceSub]
    omega
  have h12 : fieldAt (recordEntry r sp b) 12 1 = orZero b.profile := by
    rw [hbs]
    simp only [fieldAt_next, fieldAt_first, Nat.reduceLeDiff, Nat.reduceSub]
    omega
  have h13 : fieldAt (recordEntry r sp b) 13 1 = b.group := by
    rw [hbs]
    simp only [fieldAt_next, fieldAt_first, Nat.reduceLeDiff, Nat.reduceSub]
    omega
  have henabled : ((flagBit b.enabled + 2 * flagBit b.profile.isSome) % 2 == 1) = b.enabled := by
    cases b.enabled <;> cases b.profile.isSome <;> rfl
  have hprofile : (if 2 ≤ flagBit b.enabled + 2 * flagBit b.profile.isSome then some (orZero b.profile) else none) = b.profile := by
    rw [orZero_eq_getD]
    cases b.enabled <;> cases b.profile <;> rfl
  unfold entryBody
  rw [h10, ofCode_gainCode]
  dsimp only
  rw [h11, if_neg (by omega), hpedestal, h8, henabled, h12, hprofile, h13, htrims]

end

/-- Settles O51: the fields of header, profile entry and record entry, one after the other. -/
theorem savedBankReadsBack : Obligations.SavedBankReadsBack := by
  refine ⟨fun h hs he hp hr => ⟨headerOfPage_headerPage hs he hp hr, length_headerPage h⟩,
    fun k ps hk hp => ⟨?_, entryPoints_profileEntry k hp, length_profileEntry k hp⟩, fun r sp b hr hsp hb hto hk => ?_⟩
  · obtain ⟨bs, hbs⟩ := profileEntry_eq k ps
    rw [hbs, fieldAt_first]
    omega
  · have hranged := ranged_of_inRange hb
    simp only [Span.valid, Bool.and_eq_true, decide_eq_true_eq] at hsp
    obtain ⟨⟨⟨hfirst, -⟩, hcount⟩, -⟩ := hsp
    have hfirst' : sp.first < 16384 := hfirst
    have hcount' : sp.count ≤ 256 := hcount
    have hts (t : Trim) (ht : t ∈ b.trims) : t.offset < 256 :=
      Nat.lt_of_lt_of_le (offset_lt_of_trimsOrdered hto t ht) hcount'
    obtain ⟨bs, hbs⟩ := recordEntry_eq r sp b
    refine ⟨?_, ?_, entryBody_recordEntry hranged hts hk, length_recordEntry hranged⟩
    · rw [hbs, fieldAt_first]
      omega
    · rw [entrySpan, hbs]
      simp only [fieldAt_next, fieldAt_first, Nat.reduceLeDiff, Nat.reduceSub]
      rw [Nat.mod_eq_of_lt (by omega), Nat.mod_eq_of_lt (by omega)]

end Sys2Proof.Machine
end

section
/-! PROOF. The tables' counts over all their numbers, and the words of the read commands (10.6). -/

namespace Sys2Proof.Machine

variable {α : Type} {s : State}

/-! ### Tables counted (R191) -/

theorem Table.read_of_mem {d : α} {t : Table α} (h : Table.rising t = true) {e : Nat × α} (he : e ∈ t) : Table.read d t e.1 = e.2 := by
  induction t with
  | nil => cases he
  | cons x t ih =>
    obtain ⟨hfrom, hrest⟩ := Table.rising_cons.1 h
    obtain rfl | he := List.mem_cons.1 he
    · rw [Table.read, Table.find_cons, if_pos rfl]
      rfl
    · have hne : e.1 ≠ x.1 := fun hx => by
        have := hfrom e he
        omega
      have hread := ih hrest he
      rw [Table.read] at hread ⊢
      rw [Table.find_cons, if_neg hne, hread]

theorem Table.keys_nodup {t : Table α} (h : Table.rising t = true) : t.keys.Nodup :=
  (Table.keys_pairwise h).imp fun hlt => Nat.ne_of_lt hlt

/-- A table's numbers are those of the range that are listed. -/
theorem Table.keys_perm {t : Table α} (h : Table.rising t = true) {n : Nat} (hn : ∀ k ∈ t.keys, k < n) :
    t.keys.Perm ((List.range n).filter (fun k => decide (k ∈ t.keys))) :=
  (List.perm_ext_iff_of_nodup (Table.keys_nodup h) (List.nodup_range.filter _)).2 fun k => by
    rw [List.mem_filter, List.mem_range, decide_eq_true_eq]
    exact ⟨fun hk => ⟨hn k hk, hk⟩, fun hk => hk.2⟩

theorem Table.count_eq_countP_keys {d : α} {t : Table α} (h : Table.rising t = true) (p : α → Bool) :
    Table.count p t = t.keys.countP (fun k => p (Table.read d t k)) := by
  rw [Table.keys, List.countP_map, Table.count]
  exact List.countP_congr fun e he => by simp only [Function.comp, Table.read_of_mem (d := d) h he]

/-- A count over what a table lists is one over every number, as long as unlisted numbers do not count. -/
theorem Table.count_eq_countP_range {d : α} {t : Table α} (h : Table.rising t = true) {n : Nat} (hn : ∀ k ∈ t.keys, k < n) {p : α → Bool}
    (hd : p d = false) : Table.count p t = (List.range n).countP (fun k => p (Table.read d t k)) := by
  rw [Table.count_eq_countP_keys (d := d) h, (Table.keys_perm h hn).countP_eq, List.countP_filter]
  refine List.countP_congr fun k _ => ?_
  rw [Bool.and_eq_true, decide_eq_true_eq, and_iff_left_iff_imp]
  exact fun hp => mem_keys_of_ne (d := d) fun hk => by rw [hk, hd] at hp; cases hp

theorem sum_map_filter {f : Nat → Nat} {p : Nat → Bool} {l : List Nat} (h : ∀ x ∈ l, p x = false → f x = 0) :
    ((l.filter p).map f).sum = (l.map f).sum := by
  induction l with
  | nil => rfl
  | cons x l ih =>
    have hrest := ih fun y hy => h y (List.mem_cons_of_mem _ hy)
    cases hp : p x with
    | true => rw [List.filter_cons_of_pos hp, List.map_cons, List.map_cons, List.sum_cons, List.sum_cons, hrest]
    | false =>
      rw [List.filter_cons_of_neg (by simp [hp]), List.map_cons, List.sum_cons, h x List.mem_cons_self hp, Nat.zero_add, hrest]

theorem Table.sum_keys {d : α} {t : Table α} (h : Table.rising t = true) {n : Nat} (hn : ∀ k ∈ t.keys, k < n) {f : α → Nat} (hd : f d = 0) :
    (t.keys.map (fun k => f (Table.read d t k))).sum = ((List.range n).map (fun k => f (Table.read d t k))).sum := by
  rw [((Table.keys_perm h hn).map _).sum_eq]
  refine sum_map_filter fun k _ hk => ?_
  have hread : Table.read d t k = d := by
    by_contra hne
    exact of_decide_eq_false hk (mem_keys_of_ne hne)
  rw [hread, hd]

/-- What is not counted among all numbers is what the complement counts. -/
theorem sub_countP_range (n : Nat) (p : Nat → Bool) : n - (List.range n).countP (fun k => !p k) = (List.range n).countP p := by
  have h := List.length_eq_countP_add_countP p (l := List.range n)
  rw [List.length_range] at h
  have hnot : (List.range n).countP (fun k => !p k) = (List.range n).countP (fun k => decide (¬p k = true)) :=
    List.countP_congr fun k _ => by simp
  omega

/-- The count of the unlisted default, made by taking the others off. -/
theorem Table.sub_count_eq {d : α} {t : Table α} (h : Table.rising t = true) {n : Nat} (hn : ∀ k ∈ t.keys, k < n) {p q : α → Bool}
    (hq : ∀ x, q x = !p x) (hd : p d = true) : n - Table.count q t = (List.range n).countP (fun k => p (Table.read d t k)) := by
  have hqd : q d = false := by rw [hq, hd]; rfl
  rw [Table.count_eq_countP_range (d := d) h hn hqd]
  simp only [hq]
  exact sub_countP_range n _

theorem rowCount_eq (h : s.StoresKept) (ph : Phase) : s.rowCount ph = (List.range 1024).countP (fun r => decide ((s.row r).phase = ph)) := by
  have hr := Table.rising_of_wf h.rowTable.1
  unfold State.rowCount
  split
  · next hph =>
    subst hph
    exact Table.sub_count_eq (d := Row.free) (n := Config.rows) (p := fun x => decide (x.phase = .free)) hr h.rowTable.2 (fun _ => decide_not) (decide_eq_true rfl)
  · next hph =>
    exact Table.count_eq_countP_range (d := Row.free) hr h.rowTable.2 (decide_eq_false fun he => hph he.symm)

theorem copyCount_eq (h : s.StoresKept) (st : CopyState) :
    s.copyCount st = (List.range 2560).countP (fun c => decide ((s.copy c).state = st)) := by
  have hr := Table.rising_of_wf h.copyTable.1
  unfold State.copyCount
  split
  · next hst =>
    subst hst
    exact Table.sub_count_eq (d := Copy.free) (n := Config.copies) (p := fun x => decide (x.state = .free)) hr h.copyTable.2 (fun _ => decide_not) (decide_eq_true rfl)
  · next hst =>
    exact Table.count_eq_countP_range (d := Copy.free) hr h.copyTable.2 (decide_eq_false fun he => hst he.symm)

theorem slotCount_eq (h : s.StoresKept) (st : SlotState) :
    s.slotCount st = (List.range 32).countP (fun k => decide ((s.slot k).state = st)) := by
  have hr := Table.rising_of_wf h.slotTable.1
  unfold State.slotCount
  split
  · next hst =>
    subst hst
    exact Table.sub_count_eq (d := Slot.free) (n := Config.slots) (p := fun x => decide (x.state = .free)) hr h.slotTable.2 (fun _ => decide_not) (decide_eq_true rfl)
  · next hst =>
    exact Table.count_eq_countP_range (d := Slot.free) hr h.slotTable.2 (decide_eq_false fun he => hst he.symm)

theorem totalPins_eq (h : s.StoresKept) : s.totalPins =
    ((List.range 2560).map (fun c => (s.copy c).fetchPins + if (s.copy c).snapPin then 1 else 0)).sum :=
  Table.sum_keys (d := Copy.free) (f := fun x => x.fetchPins + if x.snapPin then 1 else 0) (Table.rising_of_wf h.copyTable.1) h.copyTable.2
    rfl

theorem totalReaders_eq (h : s.StoresKept) : s.totalReaders = ((List.range 32).map (fun k => (s.slot k).readerCount)).sum :=
  Table.sum_keys (d := Slot.free) (f := fun x => x.readerCount) (Table.rising_of_wf h.slotTable.1) h.slotTable.2 rfl

/-! ### Fields of a word -/

theorem getLsbD_packWord_cons (v lo : Nat) (fs : List (Nat × Nat)) {i : Nat} (hi : i < 32) :
    (packWord ((v, lo) :: fs)).getLsbD i = (decide (lo ≤ i) && v.testBit (i - lo) || (packWord fs).getLsbD i) := by
  have hlt : i - lo < 32 := by omega
  have hle : (!decide (i < lo)) = decide (lo ≤ i) := by
    rw [← decide_not]
    exact decide_eq_decide.2 Nat.not_lt
  rw [packWord, BitVec.getLsbD_or, BitVec.getLsbD_shiftLeft, BitVec.getLsbD_ofNat]
  simp only [hi, hlt, decide_true, Bool.true_and, hle]

theorem getLsbD_packWord_nil (i : Nat) : (packWord []).getLsbD i = false := BitVec.getLsbD_zero

theorem testBit_flagBit (b : Bool) (i : Nat) : (flagBit b).testBit i = (b && decide (i = 0)) := by
  cases b
  · simp [flagBit]
  · cases i <;> simp [flagBit, Nat.testBit_succ]

theorem signed16_eq_emod (x : Int) : (signed16 x : Int) = x % 65536 := by
  rw [signed16, BitVec.toNat_ofInt]
  omega

theorem bitsAt_eq_of_bits {w : Word} {lo len v : Nat} (hv : v < 2 ^ len)
    (h : ∀ i, i < len → w.getLsbD (lo + i) = v.testBit i) : bitsAt w lo len = v := by
  have heq : w.extractLsb' lo len = BitVec.ofNat len v := BitVec.eq_of_getLsbD_eq fun i hi => by
    rw [BitVec.getLsbD_extractLsb', BitVec.getLsbD_ofNat, h i hi]
  rw [bitsAt, heq, BitVec.toNat_ofNat, Nat.mod_eq_of_lt hv]

theorem phaseCode_lt (ph : Phase) : ph.code < 8 := by cases ph <;> decide

/-! ### READ_ROW -/

/-- The first word of READ_ROW. -/
def rowWord (r : Nat) (x : Row) : Word :=
  packWord [(r, 0), (x.phase.code, 16), (flagBit x.span.isSome, 24), (flagBit x.born.isSome, 25),
    (flagBit x.dies.isSome, 26), (flagBit x.live.isSome, 27), (flagBit x.staged.isSome, 28), (flagBit x.draft.isSome, 29)]

theorem rowWord_bit (r : Nat) (x : Row) {i : Nat} (hi : i < 32) : (rowWord r x).getLsbD i = (r.testBit i ||
    (decide (16 ≤ i) && x.phase.code.testBit (i - 16) || (decide (i = 24) && x.span.isSome || (decide (i = 25) && x.born.isSome ||
    (decide (i = 26) && x.dies.isSome || (decide (i = 27) && x.live.isSome || (decide (i = 28) && x.staged.isSome ||
    decide (i = 29) && x.draft.isSome))))))) := by
  have hflag (b : Bool) (lo : Nat) : (decide (lo ≤ i) && (flagBit b).testBit (i - lo)) = (decide (i = lo) && b) := by
    rw [testBit_flagBit]
    by_cases hl : lo ≤ i
    · have he : decide (i - lo = 0) = decide (i = lo) := decide_eq_decide.2 (by omega)
      rw [decide_eq_true hl, Bool.true_and, he, Bool.and_comm]
    · rw [decide_eq_false hl, decide_eq_false (show ¬i = lo by omega), Bool.false_and, Bool.false_and]
  rw [rowWord]
  simp only [getLsbD_packWord_cons _ _ _ hi, getLsbD_packWord_nil, hflag, Nat.zero_le, decide_true, Bool.true_and, Nat.sub_zero,
    Bool.or_false]

theorem testBit_false_of_lt {v i j : Nat} (h : v < 2 ^ j) (hj : j ≤ i) : v.testBit i = false :=
  Nat.testBit_lt_two_pow (Nat.lt_of_lt_of_le h (Nat.pow_le_pow_right (by decide) hj))

theorem rowWord_fields {r : Nat} (hr : r < 1024) (x : Row) :
    bitsAt (rowWord r x) 0 16 = r ∧ bitsAt (rowWord r x) 16 3 = x.phase.code ∧
    (rowWord r x).getLsbD 24 = x.span.isSome ∧ (rowWord r x).getLsbD 25 = x.born.isSome ∧
    (rowWord r x).getLsbD 26 = x.dies.isSome ∧ (rowWord r x).getLsbD 27 = x.live.isSome ∧
    (rowWord r x).getLsbD 28 = x.staged.isSome ∧ (rowWord r x).getLsbD 29 = x.draft.isSome := by
  have hrow {i : Nat} (hi : 10 ≤ i) : r.testBit i = false := testBit_false_of_lt (j := 10) hr hi
  have hph {i : Nat} (hi : 3 ≤ i) : x.phase.code.testBit i = false := testBit_false_of_lt (j := 3) (phaseCode_lt _) hi
  refine ⟨bitsAt_eq_of_bits (by omega) fun i hi => ?_, bitsAt_eq_of_bits (phaseCode_lt _) fun i hi => ?_, ?_, ?_, ?_, ?_, ?_, ?_⟩
  · rw [rowWord_bit r x (by omega), Nat.zero_add]
    simp [show ¬16 ≤ i by omega, show i ≠ 24 by omega, show i ≠ 25 by omega, show i ≠ 26 by omega, show i ≠ 27 by omega,
      show i ≠ 28 by omega, show i ≠ 29 by omega]
  · rw [rowWord_bit r x (by omega), hrow (by omega), Nat.add_sub_cancel_left]
    simp [show 16 + i ≠ 24 by omega, show 16 + i ≠ 25 by omega, show 16 + i ≠ 26 by omega, show 16 + i ≠ 27 by omega,
      show 16 + i ≠ 28 by omega, show 16 + i ≠ 29 by omega]
  all_goals
    rw [rowWord_bit r x (by decide), hrow (by decide), hph (by decide)]
    simp

theorem watchBits_eq_sum (ns : List Nat) : watchBits ns = (ns.map (fun n => 2 ^ n)).sum := by
  induction ns with
  | nil => rfl
  | cons n ns ih => rw [watchBits, ih, List.map_cons, List.sum_cons]

end Sys2Proof.Machine
end

section
/-! PROOF. The read commands' statement (10.6). -/

namespace Sys2Proof.Machine

variable {s : State} {p : Port}

/-- READ_STATUS's words in 11.6's order, absent sources giving 0. -/
theorem statusWords_eq (s : State) : s.statusWords = s.statusPublication ++ (s.statusSwitch ++ (s.statusStores ++
    (s.snap.statusWords ++ s.statusEvents))) := by
  simp only [State.statusWords, List.append_assoc]

theorem packWord_zeros : packWord [(0, 0), (0, 16)] = 0#32 := by decide

theorem exec_read {k : CmdKind} (seq : Half) {w : Word} {r : Reply} (h : s.Ready p k) (hk : k ≠ .query) (he : k.isEdit = false)
    (hl : lengthOk k [w] = true) (hg : rangeOk k [w] = true) (hp : s.perform p k [w] = (s, r)) :
    exec (commandOf p seq [w] k) s = .next (s.respond p seq r) := by
  rw [exec_plain (args := [w]) seq h hk he (Nat.le_of_ble_eq_true rfl) hl hg, hp]

theorem head_dropWhile {α : Type} {q : α → Bool} {l : List α} {x : α} (h : (l.dropWhile q).head? = some x) : q x = false := by
  have hnot := List.head?_dropWhile_not q l
  rw [h] at hnot
  simpa using hnot

/-- Settles O3: the fields of a word, the codes, the counts, and each read command's words. -/
theorem readsAnswerAndChangeNothing : Obligations.ReadsAnswerAndChangeNothing := by
  refine ⟨getLsbD_packWord_nil, fun v lo fs i hi => getLsbD_packWord_cons v lo fs hi, fun n => BitVec.toNat_ofNat n 32, signed16_eq_emod,
    rfl, rfl, rfl, rfl, rfl, rfl, rfl, rfl, rfl, rfl, rfl, rfl, rfl, rfl, rfl, rfl, rfl, fun _ => rfl, rfl,
    fun p seq w s => ⟨fun h => ?_, fun h => ⟨rowCount_eq h, copyCount_eq h, slotCount_eq h, totalPins_eq h, totalReaders_eq h⟩,
      fun h hr => ⟨rowWord (bitsAt w 0 16) (s.row (bitsAt w 0 16)), ?_, rowWord_fields hr _⟩, fun h hc => ?_, fun h hk => ?_,
      fun h hc => ?_⟩⟩
  · have hx := exec_plain (args := []) seq h (by decide) rfl (by decide) rfl rfl
    refine hx.trans (congrArg (fun ws => Host.Outcome.next (s.respond p seq { code := .done, data := ws })) ?_)
    rw [statusWords_eq]
    unfold State.statusPublication State.statusSwitch State.statusStores Snapshot.statusWords State.statusEvents
    -- The survey's words are given in another order of cases, so its two banks are taken apart too.
    cases s.superseded with
    | nil =>
      simp only [List.append_assoc, List.cons_append, List.nil_append, List.length_nil, List.headD_nil, List.isEmpty_nil, Bool.not_true,
        Bool.false_eq_true, if_false, packWord_zeros]
      cases s.snap.surveyA <;> cases s.snap.surveyB <;> rfl
    | cons c cs =>
      simp only [List.append_assoc, List.cons_append, List.nil_append, List.headD_cons, List.isEmpty_cons, Bool.not_false, if_true]
      cases s.snap.surveyA <;> cases s.snap.surveyB <;> rfl
  · refine exec_read seq h (by decide) rfl rfl (decide_eq_true hr) ?_
    change (s, s.readRow (bitsAt w 0 16)) = _
    unfold State.readRow
    dsimp only
    rw [watchBits_eq_sum]
    rfl
  · refine exec_read seq h (by decide) rfl rfl (decide_eq_true hc) ?_
    change (s, s.readCopy (bitsAt w 0 16)) = _
    unfold State.readCopy
    rfl
  · refine exec_read seq h (by decide) rfl rfl (decide_eq_true hk) ?_
    change (s, s.readProfile (bitsAt w 0 16)) = _
    unfold State.readProfile
    rfl
  · refine ⟨s.spanIndex.takeWhile (fun it => decide (it.first < bitsAt w 0 16)), s.spansFrom (bitsAt w 0 16),
      (s.spanIndex.dropWhile (fun it => decide (it.first < bitsAt w 0 16))).drop 16, ?_,
      fun it hit => ?_, fun it hit => ?_, List.length_take_le _ _, fun hlt => ?_, ?_⟩
    · rw [State.spansFrom, List.append_assoc, List.take_append_drop, List.takeWhile_append_dropWhile]
    · have hlt := List.mem_takeWhile_imp hit
      exact of_decide_eq_true hlt
    · rw [State.spansFrom, List.take_append_drop] at hit
      have hnot := head_dropWhile hit
      exact Nat.not_lt.1 (of_decide_eq_false hnot)
    · rw [State.spansFrom, List.length_take] at hlt
      exact List.drop_eq_nil_of_le (by omega)
    · refine exec_read seq h (by decide) rfl rfl (decide_eq_true hc) ?_
      change (s, s.listSpans (bitsAt w 0 16)) = _
      unfold State.listSpans
      rfl

end Sys2Proof.Machine
end

section
/-! PROOF. CLEAR_ALL (10.5): its refusals in their order, and what it leaves. -/

namespace Sys2Proof.Machine

variable {s : State} {p : Port}

/-- No pin stands just when the pins of all copies add up to none (R40). -/
theorem totalPins_eq_zero : s.totalPins = 0 ↔ ∀ c, (s.copy c).fetchPins = 0 ∧ (s.copy c).snapPin = false := by
  unfold State.totalPins
  rw [List.sum_eq_zero_iff_forall_eq_nat]
  constructor
  · intro h c
    by_cases hc : s.copy c = Copy.free
    · rw [hc]; exact ⟨rfl, rfl⟩
    · have hz := h _ (List.mem_map.2 ⟨c, mem_keys_of_ne hc, rfl⟩)
      cases hp : (s.copy c).snapPin <;> simp_all
  · rintro h v hv
    obtain ⟨c, -, rfl⟩ := List.mem_map.1 hv
    simp [h c]

theorem clearLinks_keep {α : Type} (g : State → α) (hg : ∀ (u : State) n l, g (u.putLink n l) = g u) (s : State) :
    g s.clearLinks = g s := forEach_keep g (fun _ _ => hg _ _ _) _ s

theorem clearLinks_link (s : State) (n : LinkId) : s.clearLinks.link n = (s.link n).cleared :=
  (forEach_link (fun _ _ _ => State.link_putLink ..) allLinks_nodup s n).trans (if_pos (mem_allLinks n))

/-- What a link controller keeps and loses at CLEAR_ALL (R190). -/
theorem Link.cleared_fields (l : Link) : l.cleared.notices = [] ∧ l.cleared.sendCount = 0 ∧ l.cleared.timer = .stopped ∧
    l.cleared.watchCount = 0 ∧ l.cleared.state = l.state ∧ l.cleared.errors = l.errors ∧ l.cleared.prompts = l.prompts ∧
    l.cleared.welcome = l.welcome ∧ l.cleared.resyncFlag = (if l.state = .down then l.resyncFlag else true) ∧
    l.cleared.resyncNumber = (if l.state = .down then l.resyncNumber else (l.resyncNumber + 1) % 65536) := by
  unfold Link.cleared
  dsimp only
  split <;> exact ⟨rfl, rfl, rfl, rfl, rfl, rfl, rfl, rfl, rfl, rfl⟩

/-- A part of the state that lies in the stores is, after CLEAR_ALL, as the emptying and the arming leave it. -/
theorem clearStores_keep {α : Type} (g : State → α) (hg : ∀ (u : State) n l, g (u.putLink n l) = g u) (s : State) :
    g s.clearStores = g ((s.emptyStores.setLowArmed true).setStaged none) :=
  (kickAll_keep g hg _).trans (clearLinks_keep g hg _)

theorem clearStores_link (s : State) (n : LinkId) : SameButSending (s.link n).cleared (s.clearStores.link n) := by
  refine kickAll_link_of ((clearLinks_link _ n).trans (congrArg Link.cleared ?_))
  exact emptyStores_keep (fun u => u.link n) (fun _ _ => rfl) (fun _ _ => rfl) (fun _ _ => rfl) (fun _ _ => rfl) (fun _ _ => rfl)
    (fun _ _ => rfl) (fun _ _ => rfl) s

/-- What the emptying of the stores does not reach, nor a frame boundary. -/
theorem clearStores_outside {α : Type} (g : State → α) (hg : ∀ (u : State) n l, g (u.putLink n l) = g u)
    (ha : ∀ (u : State) x, g (u.setLowArmed x) = g u) (hst : ∀ (u : State) x, g (u.setStaged x) = g u)
    (h1 : ∀ (u : State) x, g (u.setRows x) = g u) (h2 : ∀ (u : State) x, g (u.setSpanIndex x) = g u)
    (h3 : ∀ (u : State) x, g (u.setCopies x) = g u) (h4 : ∀ (u : State) x, g (u.setSuperseded x) = g u)
    (h5 : ∀ (u : State) x, g (u.setSlots x) = g u) (h6 : ∀ (u : State) x, g (u.setFreeCount x) = g u) (s : State) :
    g s.clearStores = g s := by
  rw [clearStores_keep g hg, hst, ha, emptyStores_keep g h1 h2 h3 h4 h5 h6 ha]

theorem clearStores_samePorts (s : State) : s.SamePorts s.clearStores := by
  constructor <;> exact clearStores_outside _ (fun _ _ _ => rfl) (fun _ _ => rfl) (fun _ _ => rfl) (fun _ _ => rfl) (fun _ _ => rfl)
    (fun _ _ => rfl) (fun _ _ => rfl) (fun _ _ => rfl) (fun _ _ => rfl) s

theorem clearStores_sameControl (s : State) : s.SameControl s.clearStores := by
  constructor <;> exact clearStores_outside _ (fun _ _ _ => rfl) (fun _ _ => rfl) (fun _ _ => rfl) (fun _ _ => rfl) (fun _ _ => rfl)
    (fun _ _ => rfl) (fun _ _ => rfl) (fun _ _ => rfl) (fun _ _ => rfl) s

/-- Settles O23: the refusal that stands first, and the stores, links and rest after the clearing. -/
theorem clearAllEmptiesStores : Obligations.ClearAllEmptiesStores := by
  intro p seq s hready
  have hexec : exec (.clearAll p seq []) s = _ := exec_plain (args := []) seq hready (by decide) rfl (Nat.zero_le _) rfl rfl
  have href {c : Code} (h : s.clearRefusal = some c) : exec (.clearAll p seq []) s = .next (s.answered p seq c []) := by
    rw [hexec]
    simp only [State.perform, State.takeClearAll, h]
    rfl
  refine ⟨fun hs => href ?_, fun hs ho => href ?_, fun hs ho hx => href ?_, fun hs ho hx hheld => href ?_,
    fun hs ho hx hpins hreads => ?_⟩
  · simp only [State.clearRefusal, hs, if_true]
  · simp [State.clearRefusal, hs, ho]
  · obtain ⟨y, hy⟩ := Option.ne_none_iff_exists'.1 hx
    simp [State.clearRefusal, hs, ho, hy]
  · have hne : s.totalPins ≠ 0 ∨ s.totalReaders ≠ 0 := by
      obtain ⟨c, hc⟩ | ⟨k, hk⟩ := hheld
      · refine .inl fun h => ?_
        obtain ⟨hf, hp⟩ := totalPins_eq_zero.1 h c
        simp [hf, hp] at hc
      · exact .inr fun h => by simp [totalReaders_eq_zero.1 h k] at hk
    simp [State.clearRefusal, hs, ho, hx, hne]
  · have hnone : s.clearRefusal = none := by
      simp [State.clearRefusal, hs, ho, hx, totalPins_eq_zero.2 hpins, totalReaders_eq_zero.2 hreads]
    have hstores {α : Type} (g : State → α) (hg : ∀ (u : State) n l, g (u.putLink n l) = g u) := clearStores_keep g hg s
    have hempty := storesEmpty_emptyStores s
    refine ⟨s.clearStores, ?_, fun r => ?_, (hstores State.spanIndex (fun _ _ _ => rfl)).trans hempty.index, fun c => ?_,
      (hstores State.freeCount (fun _ _ _ => rfl)).trans hempty.free,
      (hstores State.superseded (fun _ _ _ => rfl)).trans hempty.superseded, hstores State.lowArmed (fun _ _ _ => rfl), fun k => ?_,
      hstores State.staged (fun _ _ _ => rfl), fun n => ?_, ?_, ?_, clearStores_samePorts s, clearStores_sameControl s⟩
    · rw [hexec]
      simp only [State.perform, State.takeClearAll, hnone]
      rfl
    · rw [State.row, (hstores State.rows (fun _ _ _ => rfl)).trans hempty.rows]
      rfl
    · rw [State.copy, (hstores State.copies (fun _ _ _ => rfl)).trans hempty.copies]
      rfl
    · rw [State.slot, (hstores State.slots (fun _ _ _ => rfl)).trans hempty.slots]
      rfl
    · have h := clearStores_link s n
      obtain ⟨hnotices, hflag, hnumber, hcount, htimer⟩ := h.queues
      obtain ⟨hstate, -, herrors, -, -, hprompts, hwelcome⟩ := h.controller
      rw [hnotices, hflag, hnumber, hcount, htimer, hstate, herrors, hprompts, hwelcome, h.watchCount]
      exact Link.cleared_fields _
    · exact clearStores_outside State.eventSet (fun _ _ _ => rfl) (fun _ _ => rfl) (fun _ _ => rfl) (fun _ _ => rfl) (fun _ _ => rfl)
        (fun _ _ => rfl) (fun _ _ => rfl) (fun _ _ => rfl) (fun _ _ => rfl) s
    · exact (clearStores_outside State.session (fun _ _ _ => rfl) (fun _ _ => rfl) (fun _ _ => rfl) (fun _ _ => rfl) (fun _ _ => rfl)
        (fun _ _ => rfl) (fun _ _ => rfl) (fun _ _ => rfl) (fun _ _ => rfl) s).trans hx

end Sys2Proof.Machine
end

section
/-! SUPPORT. Copies freed in a row: what a whole list of freeings leaves in the pool and the profile table (R29, R39, R41, R48). -/

namespace Sys2Proof.Machine

variable {s t u : State} {cs ds : List Nat}

/-- The copies `cs` are freed, and the pool, the profile table, the detector and the superseded list show it. -/
structure State.Frees (s t : State) (cs : List Nat) : Prop where
  copy : ∀ c, t.copy c = if c ∈ cs then Copy.free else s.copy c
  free : t.freeCount = s.freeCount + cs.length
  armed : t.lowArmed = if cs ≠ [] ∧ s.params.poolWatermark ≤ t.freeCount then true else s.lowArmed
  references : cs.Nodup → ∀ k, t.slot k =
    { s.slot k with refCount := (s.slot k).refCount - cs.countP (fun c => decide ((s.copy c).profile = some k)) }
  superseded : t.superseded = s.superseded.filter (fun c => decide (c ∉ cs))
  params : t.params = s.params
  engine : t.engine = s.engine
  eventSet : t.eventSet = s.eventSet

namespace State.Frees

/-- An operation that reaches neither pool nor profile table. -/
theorem of_keep (hc : ∀ c, t.copy c = s.copy c) (hf : t.freeCount = s.freeCount) (ha : t.lowArmed = s.lowArmed)
    (hk : ∀ k, t.slot k = s.slot k) (hs : t.superseded = s.superseded) (hp : t.params = s.params) (he : t.engine = s.engine)
    (hv : t.eventSet = s.eventSet) : s.Frees t [] where
  copy c := (hc c).trans (if_neg List.not_mem_nil).symm
  free := hf
  armed := by simp [ha]
  references _ k := hk k
  superseded := by simp [hs]
  params := hp
  engine := he
  eventSet := hv

theorem refl (s : State) : s.Frees s [] := of_keep (fun _ => rfl) rfl rfl (fun _ => rfl) rfl rfl rfl rfl

theorem putRow (s : State) (r : Nat) (x : Row) : s.Frees (s.putRow r x) [] :=
  of_keep (fun _ => rfl) rfl rfl (fun _ => rfl) rfl rfl rfl rfl

theorem setSession (s : State) (x : Option Session) : s.Frees (s.setSession x) [] :=
  of_keep (fun _ => rfl) rfl rfl (fun _ => rfl) rfl rfl rfl rfl

theorem freeRow (s : State) (r : Nat) : s.Frees (s.freeRow r) [] :=
  of_keep (freeRow_copy s r) (freeRow_freeCount s r) (freeRow_lowArmed s r) (freeRow_slot s r) (by simp) (freeRow_params s r)
    (freeRow_engine s r) (by simp)

theorem freeCopy (s : State) (c : Nat) : s.Frees (s.freeCopy c) [c] where
  copy d := by simp
  free := freeCopy_freeCount s c
  armed := by simp [freeCopy_lowArmed]
  references _ k := by
    rw [freeCopy_slots]
    by_cases h : (s.copy c).profile = some k <;> simp [h]
  superseded := by simp
  params := freeCopy_params s c
  engine := freeCopy_engine s c
  eventSet := by simp

/-- What is freed after `cs` are freed. -/
theorem trans (h : s.Frees t cs) (k : t.Frees u ds) : s.Frees u (cs ++ ds) where
  copy c := by
    rw [k.copy, h.copy]
    by_cases hc : c ∈ cs <;> by_cases hd : c ∈ ds <;> simp [hc, hd]
  free := by rw [k.free, h.free, List.length_append, Nat.add_assoc]
  armed := by
    have hle : t.freeCount ≤ u.freeCount := by rw [k.free]; omega
    rw [k.armed, h.armed, h.params]
    by_cases hc : cs = []
    · subst hc; simp
    · by_cases hd : ds = []
      · subst hd
        have heq : u.freeCount = t.freeCount := k.free
        simp [hc, heq]
      · by_cases hw : s.params.poolWatermark ≤ u.freeCount
        · simp [hc, hd, hw]
        · have hw' : ¬ s.params.poolWatermark ≤ t.freeCount := fun h => hw (h.trans hle)
          simp [hc, hd, hw, hw']
  references hn j := by
    obtain ⟨hcs, hds, hdisj⟩ := List.nodup_append.1 hn
    have hcount : ds.countP (fun c => decide ((t.copy c).profile = some j)) =
        ds.countP (fun c => decide ((s.copy c).profile = some j)) :=
      List.countP_congr fun c hc => by rw [h.copy, if_neg (fun hc' => hdisj c hc' c hc rfl)]
    rw [k.references hds, h.references hcs, hcount, List.countP_append, Nat.sub_sub]
  superseded := by
    rw [k.superseded, h.superseded, List.filter_filter]
    exact List.filter_congr fun c _ => by simp [Bool.and_comm]
  params := k.params.trans h.params
  engine := k.engine.trans h.engine
  eventSet := k.eventSet.trans h.eventSet

theorem congr (h : s.Frees t cs) (hc : cs = ds) : s.Frees t ds := hc ▸ h

/-- A row's draft, when it has one. -/
theorem freeDraft (s : State) (r : Nat) : s.Frees (s.freeDraft r) (s.row r).draft.toList := by
  unfold State.freeDraft
  split
  next h => rw [h]; exact refl s
  next c h => rw [h]; exact (putRow s r _).trans (freeCopy _ c)

/-- A copy is freed at most. -/
theorem copy_cases (h : s.Frees t cs) (c : Nat) : t.copy c = s.copy c ∨ t.copy c = Copy.free := by
  rw [h.copy]
  split
  · exact .inr rfl
  · exact .inl rfl

theorem superseded_sublist (h : s.Frees t cs) : t.superseded.Sublist s.superseded := by
  rw [h.superseded]
  exact List.filter_sublist

end State.Frees

theorem Option.toList_append_filterMap {α β : Type} (f : α → Option β) (a : α) (l : List α) :
    (f a).toList ++ l.filterMap f = (a :: l).filterMap f := by
  cases h : f a <;> simp [h]

/-- Copies named by distinct rows, each its owner, are distinct. -/
theorem nodup_filterMap_of_owner {f : Nat → Option Nat} {l : List Nat} (hl : l.Nodup)
    (ho : ∀ r ∈ l, ∀ c, f r = some c → (s.copy c).owner = some r) : (l.filterMap f).Nodup := by
  induction l with
  | nil => exact List.nodup_nil
  | cons r l ih =>
    obtain ⟨hr, hl⟩ := List.nodup_cons.1 hl
    have hrest := ih hl fun q hq => ho q (List.mem_cons_of_mem _ hq)
    rw [List.filterMap_cons]
    cases hf : f r with
    | none => exact hrest
    | some c =>
      refine List.nodup_cons.2 ⟨fun hc => ?_, hrest⟩
      obtain ⟨q, hq, hfq⟩ := List.mem_filterMap.1 hc
      have h1 := ho r List.mem_cons_self c hf
      have h2 := ho q (List.mem_cons_of_mem _ hq) c hfq
      exact hr (Option.some.inj (h1.symm.trans h2) ▸ hq)

end Sys2Proof.Machine
end

section
/-! PROOF. RETIRE_GROUP (4.6): the rows that match, and the items of the change set. -/

namespace Sys2Proof.Machine

variable {s : State} {p : Port} {x : Session}

theorem exec_retireGroup_owner (seq : Half) {w : Word} (h : s.Ready p .retireGroup) (ho : s.Owns p x) :
    exec (.retireGroup p seq [w]) s =
      let u := (s.timerRestarted x).retireGroup (bitsAt w 0 8)
      .next (u.1.respond p seq u.2) :=
  exec_guarded (args := [w]) seq h ho rfl (Nat.le_of_ble_eq_true rfl) rfl rfl (fun _ => rfl)

/-! ### The rows that match (R72) -/

theorem groupMatches_iff {g r : Nat} : s.groupMatches g r = true ↔ ((s.row r).phase = .live ∨ (s.row r).phase = .newStaged) ∧
    (s.bodyOf ((((s.row r).draft.or (s.row r).staged).or (s.row r).live).getD 0)).group = g ∧ .retire r ∉ s.items := by
  simp only [State.groupMatches, State.newestBody, amendSource_eq, orZero_eq_getD, Bool.and_eq_true, Bool.or_eq_true,
    decide_eq_true_eq, Bool.not_eq_true', and_assoc]
  rw [← hasRetire_iff, Bool.not_eq_true]

theorem mem_groupRows {g r : Nat} : r ∈ s.groupRows g ↔ ((s.row r).phase = .live ∨ (s.row r).phase = .newStaged) ∧
    (s.bodyOf ((((s.row r).draft.or (s.row r).staged).or (s.row r).live).getD 0)).group = g ∧ .retire r ∉ s.items := by
  rw [State.groupRows, List.mem_filter, groupMatches_iff, and_iff_right_of_imp]
  rintro ⟨hp, -⟩
  refine mem_keys_of_ne (d := Row.free) fun h => ?_
  rw [State.row, h] at hp
  obtain h | h := hp <;> cases h

theorem groupRows_pairwise (h : s.StoresKept) (g : Nat) : (s.groupRows g).Pairwise (· < ·) :=
  (Table.keys_pairwise (Table.rising_of_wf h.rowTable.1)).filter _

/-! ### The change set (R73) -/

/-- A change set after the RETIRE of a row that is not NEW_DRAFT (R70). -/
def itemsRetired (items : List ChangeItem) (r : Nat) : List ChangeItem :=
  if .amend r ∈ items then items.map (fun i => if i = .amend r then .retire r else i) else items ++ [.retire r]

theorem map_retiredBy_nil (items : List ChangeItem) : items.map (ChangeItem.retiredBy []) = items := by
  refine (List.map_congr_left fun i _ => ?_).trans (List.map_id _)
  cases i <;> rfl

theorem retiredBy_cons (rs : List Nat) (r : Nat) (i : ChangeItem) :
    i.retiredBy (r :: rs) = (if i = .amend r then .retire r else i).retiredBy rs := by
  cases i with
  | amend q => by_cases h : q = r <;> simp [ChangeItem.retiredBy, h]
  | insert q | retire q | defineProfile q => simp [ChangeItem.retiredBy]

theorem foldl_itemsRetired {rs : List Nat} (hn : rs.Nodup) (items : List ChangeItem) : rs.foldl itemsRetired items =
    items.map (ChangeItem.retiredBy rs) ++ (rs.filter (fun r => !items.contains (.amend r))).map ChangeItem.retire := by
  induction rs generalizing items with
  | nil => simp [map_retiredBy_nil]
  | cons r rs ih =>
    obtain ⟨hr, hn⟩ := List.nodup_cons.1 hn
    rw [List.foldl_cons, ih hn]
    by_cases h : .amend r ∈ items
    · have hf : rs.filter (fun q => !(itemsRetired items r).contains (.amend q)) = rs.filter (fun q => !items.contains (.amend q)) := by
        refine List.filter_congr fun q hq => ?_
        have hqr : q ≠ r := fun h => hr (h ▸ hq)
        have hiff : ChangeItem.amend q ∈ itemsRetired items r ↔ .amend q ∈ items := by
          rw [itemsRetired, if_pos h, List.mem_map]
          constructor
          · rintro ⟨i, hi, he⟩
            split at he
            · cases he
            · exact he ▸ hi
          · exact fun hq => ⟨_, hq, if_neg (by simpa using hqr)⟩
        simp [hiff]
      rw [hf, List.filter_cons_of_neg (by simpa using h), itemsRetired, if_pos h, List.map_map]
      congr 1
      exact List.map_congr_left fun i _ => (retiredBy_cons rs r i).symm
    · have hf : rs.filter (fun q => !(itemsRetired items r).contains (.amend q)) = rs.filter (fun q => !items.contains (.amend q)) :=
        List.filter_congr fun q _ => by simp [itemsRetired, h]
      have hm : items.map (ChangeItem.retiredBy (r :: rs)) = items.map (ChangeItem.retiredBy rs) :=
        List.map_congr_left fun i hi => by
          have hne : i ≠ .amend r := fun he => h (he ▸ hi)
          rw [retiredBy_cons, if_neg hne]
      rw [hf, List.filter_cons_of_pos (by simpa using h), itemsRetired, if_neg h, hm]
      simp [ChangeItem.retiredBy]

/-- A map over the change set leaves its length, and each fresh row adds one item. -/
theorem length_foldl_itemsRetired {rs : List Nat} (hn : rs.Nodup) (items : List ChangeItem) : (rs.foldl itemsRetired items).length =
    items.length + (rs.filter (fun r => !items.contains (.amend r))).length := by
  rw [foldl_itemsRetired hn, List.length_append, List.length_map, List.length_map]

/-! ### The rows one after the other (R73) -/

/-- A row that RETIRE accepts without removing it: not NEW_DRAFT, its draft standing for an AMEND item. -/
def State.Retirable (s : State) (items : List ChangeItem) (r : Nat) : Prop :=
  (s.row r).phase ≠ .newDraft ∧ ((s.row r).draft.isSome = true ↔ .amend r ∈ items)

theorem retireEffect_of_retirable {r : Nat} (hx : s.session = some x) (h : s.Retirable x.items r) :
    s.retireEffect r = (s.freeDraft r).setSession (some { x with items := itemsRetired x.items r }) := by
  obtain ⟨hp, hd⟩ := h
  by_cases ha : .amend r ∈ x.items
  · rw [retireEffect_converted hx (retireOutcome_converted hp (items_eq hx ▸ ha)), itemsRetired, if_pos ha]
  · have hnone : (s.row r).draft = none := Option.not_isSome_iff_eq_none.1 fun h => ha (hd.1 h)
    rw [retireEffect_added hx (retireOutcome_added hp (items_eq hx ▸ ha)), itemsRetired, if_neg ha]
    simp only [State.freeDraft, hnone]

/-- What the rows of a RETIRE_GROUP leave, one retired after the other. -/
structure State.GroupRetired (s t : State) (x : Session) (rs : List Nat) : Prop where
  session : t.session = some { x with items := rs.foldl itemsRetired x.items }
  rows : ∀ r, t.row r = if r ∈ rs then { s.row r with draft := none } else s.row r
  frees : s.Frees t (rs.filterMap (fun r => (s.row r).draft))
  index : t.spanIndex = s.spanIndex
  links : ∀ n, t.link n = s.link n
  staged : t.staged = s.staged
  ports : s.SamePorts t
  control : s.SameControl t

theorem groupRetired_one {r : Nat} (hx : s.session = some x) (h : s.Retirable x.items r) :
    s.GroupRetired (s.retireEffect r) x [r] := by
  have hso := StoresOnly.freeDraft r s
  rw [retireEffect_of_retirable hx h]
  refine ⟨rfl, fun q => ?_, ?_, freeDraft_spanIndex s r, freeDraft_link s r, hso.staged,
    samePorts_of_storesOnly_setSession hso _, sameControl_of_storesOnly_setSession hso (freeDraft_engine s r) _⟩
  · refine (freeDraft_row s r q).trans ?_
    by_cases hq : q = r <;> simp [hq]
  · refine ((State.Frees.freeDraft s r).trans (.setSession _ _)).congr ?_
    cases hd : (s.row r).draft <;> simp [hd]

theorem State.GroupRetired.trans {t u : State} {r : Nat} {rs : List Nat} (hr : r ∉ rs) (h : s.GroupRetired t x [r])
    (k : t.GroupRetired u { x with items := itemsRetired x.items r } rs) : s.GroupRetired u x (r :: rs) where
  session := k.session
  rows q := by
    rw [k.rows, h.rows]
    by_cases hq : q = r
    · subst hq; simp [hr]
    · simp [hq]
  frees := by
    refine (h.frees.trans k.frees).congr ?_
    have hrest : rs.filterMap (fun q => (t.row q).draft) = rs.filterMap (fun q => (s.row q).draft) :=
      List.filterMap_congr fun q hq => by rw [h.rows, if_neg]; simpa using fun hqr : q = r => hr (hqr ▸ hq)
    rw [hrest, ← List.filterMap_append]
    rfl
  index := k.index.trans h.index
  links n := (k.links n).trans (h.links n)
  staged := k.staged.trans h.staged
  ports := h.ports.trans k.ports
  control := h.control.trans k.control

theorem groupRetired_forEach {rs : List Nat} (hn : rs.Nodup) (hx : s.session = some x) (h : ∀ r ∈ rs, s.Retirable x.items r) :
    s.GroupRetired (State.forEach State.retireEffect rs s) x rs := by
  induction rs generalizing s x with
  | nil =>
    exact ⟨hx, fun _ => rfl, .refl s, rfl, fun _ => rfl, rfl, ⟨rfl, rfl, rfl, rfl⟩,
      ⟨rfl, rfl, rfl, rfl, rfl, rfl, rfl, rfl, rfl, rfl, rfl, rfl⟩⟩
  | cons r rs ih =>
    obtain ⟨hr, hn⟩ := List.nodup_cons.1 hn
    have hone := groupRetired_one hx (h r List.mem_cons_self)
    refine hone.trans hr (ih hn hone.session fun q hq => ?_)
    have hqr : q ≠ r := fun h => hr (h ▸ hq)
    obtain ⟨hp, hd⟩ := h q (List.mem_cons_of_mem _ hq)
    have hrow : (s.retireEffect r).row q = s.row q := by rw [hone.rows, if_neg (by simpa using hqr)]
    refine ⟨by rw [hrow]; exact hp, ?_⟩
    rw [hrow, hd]
    dsimp only [List.foldl, itemsRetired]
    split
    next ha =>
      simp only [List.mem_map]
      constructor
      · exact fun hq => ⟨_, hq, if_neg (by simpa using hqr)⟩
      · rintro ⟨i, hi, he⟩
        split at he
        · cases he
        · exact he ▸ hi
    next ha => simp

/-- The rows without an AMEND item only add their items. -/
theorem forEach_retireEffect_added {rs : List Nat} (hx : s.session = some x)
    (h : ∀ r ∈ rs, (s.row r).phase ≠ .newDraft ∧ .amend r ∉ x.items) :
    State.forEach State.retireEffect rs s = s.setSession (some { x with items := x.items ++ rs.map ChangeItem.retire }) := by
  induction rs generalizing s x with
  | nil => simp [State.forEach, ← hx, State.setSession]
  | cons r rs ih =>
    obtain ⟨hp, ha⟩ := h r List.mem_cons_self
    rw [State.forEach, retireEffect_added hx (retireOutcome_added hp (items_eq hx ▸ ha)),
      ih (s := s.setSession _) rfl fun q hq =>
        ⟨(h q (List.mem_cons_of_mem _ hq)).1, by simpa using (h q (List.mem_cons_of_mem _ hq)).2⟩]
    simp [State.setSession]

/-! ### The command -/

theorem retireGroup_full {g : Nat} (h : 96 < s.items.length + ((s.groupRows g).filter (fun r => !s.items.contains (.amend r))).length) :
    s.retireGroup g = (s, .bare .setFull) := by
  unfold State.retireGroup
  exact if_pos h

theorem retireGroup_room {g : Nat} (h : s.items.length + ((s.groupRows g).filter (fun r => !s.items.contains (.amend r))).length ≤ 96) :
    s.retireGroup g = (State.forEach State.retireEffect (s.groupRows g) s, { code := .done, data :=
      [packWord [((s.groupRows g).length, 0),
        ((s.groupRows g).length - ((s.groupRows g).filter (fun r => !s.items.contains (.amend r))).length, 16)],
      (State.forEach State.retireEffect (s.groupRows g) s).itemCountWord] }) := by
  unfold State.retireGroup
  exact if_neg (Nat.not_lt.2 h)

theorem countP_filterMap_bind {f : Nat → Option Nat} (g : Nat → Option Nat) (k : Nat) (l : List Nat) :
    (l.filterMap f).countP (fun c => decide (g c = some k)) = l.countP (fun r => decide ((f r).bind g = some k)) := by
  rw [List.countP_filterMap]
  refine List.countP_congr fun r _ => ?_
  cases f r <;> simp

/-- Settles O11: the rows that match, and their RETIREs one after the other. -/
theorem retireGroupWholeOrNone : Obligations.RetireGroupWholeOrNone := by
  intro p seq w s x rs fresh hready ho hrs hfresh
  have hexec := exec_retireGroup_owner seq (w := w) hready ho
  have hi : (s.timerRestarted x).items = x.items := items_timerRestarted s x
  have hx := timerRestarted_session s x
  have hgroup : (s.timerRestarted x).groupRows (bitsAt w 0 8) = rs := by
    rw [hrs]
    unfold State.groupRows
    refine List.filter_congr fun r _ => ?_
    rw [Bool.eq_iff_iff, groupMatches_iff, groupMatches_iff, hi, items_eq ho.session]
    rfl
  have hphase : ∀ r ∈ rs, (s.row r).phase = .live ∨ (s.row r).phase = .newStaged := fun r hr => (mem_groupRows.1 (hrs ▸ hr)).1
  have hnd : ∀ r ∈ rs, ((s.timerRestarted x).row r).phase ≠ .newDraft := fun r hr => by
    obtain h | h := hphase r hr <;> simp [h]
  have howner := ho.owner
  refine ⟨fun r => ?_, fun hall hroom => ?_, fun hk hroom => ?_, fun hfull => ?_⟩
  · rw [hrs, mem_groupRows, items_eq ho.session]
  · have hadd : ∀ r ∈ rs, .amend r ∉ x.items := fun r hr => by
      have hr' := hall ▸ hr
      rw [hfresh, List.mem_filter] at hr'
      simpa using hr'.2
    have hlen : fresh.length = rs.length := congrArg List.length hall
    rw [hexec, retireGroup_room (by rw [hgroup, hi, ← hfresh, hlen]; exact hroom), hgroup, hi, ← hfresh, hlen,
      forEach_retireEffect_added hx fun r hr => ⟨hnd r hr, hadd r hr⟩]
    subst howner
    simp [State.answered, State.withItems, State.itemCountWord, State.items, State.timerRestarted, State.setSession]
  · have hpair : rs.Pairwise (· < ·) := hrs ▸ groupRows_pairwise hk _
    have hn : rs.Nodup := hpair.imp Nat.ne_of_lt
    have hamend : ∀ r ∈ rs, (s.row r).draft.isSome = true ↔ .amend r ∈ x.items := fun r hr => by
      rw [← items_eq ho.session, hk.amends r, and_iff_right (by simpa using hnd r hr)]
    have hret := groupRetired_forEach (s := s.timerRestarted x) hn hx fun r hr => ⟨hnd r hr, hamend r hr⟩
    have hlen := length_foldl_itemsRetired hn x.items
    have hitems := foldl_itemsRetired hn x.items
    rw [← hfresh] at hlen hitems
    have hdrafts : (rs.filterMap (fun r => ((s.timerRestarted x).row r).draft)).length = rs.length - fresh.length := by
      rw [List.length_filterMap_eq_countP, hfresh, ← List.countP_eq_length_filter, List.length_eq_countP_add_countP
        (fun r => !x.items.contains (.amend r)), Nat.add_sub_cancel_left]
      refine List.countP_congr fun r hr => ?_
      rw [show ((s.timerRestarted x).row r).draft = (s.row r).draft from rfl, hamend r hr]
      simp
    have hdistinct : (rs.filterMap (fun r => ((s.timerRestarted x).row r).draft)).Nodup :=
      nodup_filterMap_of_owner (s := s) hn fun r _ c hc => ((hk.draft r c).1 hc).2
    refine ⟨State.forEach State.retireEffect rs (s.timerRestarted x), ?_, hpair, ?_, hret.rows, fun c => ?_, ?_, ?_, hret.index, ?_,
      hret.links, hret.staged, hret.frees.eventSet, (samePorts_setSession _).trans hret.ports,
      (sameControl_setSession _).trans hret.control⟩
    · rw [hexec, retireGroup_room (by rw [hgroup, hi, ← hfresh]; exact hroom), hgroup, hi, ← hfresh]
      simp only [State.answered, State.itemCountWord, items_eq hret.session, hlen]
    · rw [hret.session, ← howner, ← hitems]
    · rw [hret.frees.copy]
      refine if_congr ?_ rfl rfl
      simp
    · rw [hret.frees.free, hdrafts]
      rfl
    · rintro k j rfl
      rw [hret.frees.references hdistinct, countP_filterMap_bind]
      rfl
    · refine hret.frees.superseded.trans (List.filter_eq_self.2 fun c hc => ?_)
      have hsup := (hk.list.2 c).1 hc
      simp only [decide_eq_true_eq, List.mem_filterMap, not_exists, not_and]
      exact fun r _ hd => by
        have := ((hk.draft r c).1 hd).1
        rw [hsup] at this
        cases this
  · rw [hexec, retireGroup_full (by rw [hgroup, hi, ← hfresh]; exact hfull)]
    rfl

end Sys2Proof.Machine
end

section
/-! SUPPORT. Discarding a session or a staged set: the passes over rows, copies and slots (R14, R19, R31, R35, R52). -/

namespace Sys2Proof.Machine

variable {s t : State}

/-! ### Passes that free copies -/

theorem forEach_eq_foldl (f : Nat → State → State) (l : List Nat) (s : State) : State.forEach f l s = l.foldl (fun u a => f a u) s := by
  induction l generalizing s with
  | nil => rfl
  | cons a l ih => exact ih _

/-- A pass of which each step frees what its element holds, no step touching what a later element holds. -/
theorem State.Frees.foldl {β : Type} {step : State → β → State} {held : State → β → Option Nat}
    (h : ∀ (s : State) b, s.Frees (step s b) (held s b).toList) {l : List β}
    (hl : ∀ s, l.Pairwise (fun b b' => held (step s b) b' = held s b')) (s : State) :
    s.Frees (l.foldl step s) (l.filterMap (held s)) := by
  induction l generalizing s with
  | nil => exact .refl s
  | cons b l ih =>
    have hrest : l.filterMap (held (step s b)) = l.filterMap (held s) :=
      List.filterMap_congr fun b' hb' => List.rel_of_pairwise_cons (hl s) hb'
    refine ((h s b).trans (ih (fun u => (hl u).of_cons) (step s b))).congr ?_
    rw [hrest]
    exact Option.toList_append_filterMap (held s) b l

/-- A pass of which each step keeps each copy or frees it. -/
theorem foldl_copy_cases {β : Type} {step : State → β → State}
    (h : ∀ s b c, (step s b).copy c = s.copy c ∨ (step s b).copy c = Copy.free) (l : List β) (s : State) (c : Nat) :
    (l.foldl step s).copy c = s.copy c ∨ (l.foldl step s).copy c = Copy.free := by
  induction l generalizing s with
  | nil => exact .inl rfl
  | cons b l ih =>
    obtain hi | hi := ih (step s b)
    · rw [List.foldl_cons, hi]
      exact h s b c
    · exact .inr hi

/-- The items name each row at most once, in whatever order they stand. -/
theorem items_pairwise {items : List ChangeItem} (h : (rowsNamed items).Nodup) :
    items.Pairwise (fun i j => ∀ r, i.row? = some r → j.row? ≠ some r) :=
  (List.pairwise_filterMap.1 h).imp fun hij r hi hj => hij r hi r hj rfl

/-! ### The slots (R52) -/

theorem abandonSlot_eq : State.abandonSlot = State.withdrawSlot := by
  funext s i
  cases i <;> rfl

section
variable (items : List ChangeItem)

theorem foldl_withdrawSlot_keep {α : Type} (g : State → α) (hg : ∀ (u : State) k x, g (u.putSlot k x) = g u) (s : State) :
    g (items.foldl State.withdrawSlot s) = g s :=
  foldl_keep g (fun u i => match i with
    | .insert _ => rfl
    | .amend _ => rfl
    | .retire _ => rfl
    | .defineProfile _ => hg u _ _) items s

theorem withdrawSlot_slot (s : State) (i : ChangeItem) (k : Nat) :
    (s.withdrawSlot i).slot k = if .defineProfile k = i then Slot.free else s.slot k := by
  cases i with
  | insert r | amend r | retire r => simp [State.withdrawSlot]
  | defineProfile j => simp [State.withdrawSlot]

theorem foldl_withdrawSlot_slot (s : State) (k : Nat) :
    (items.foldl State.withdrawSlot s).slot k = if .defineProfile k ∈ items then Slot.free else s.slot k := by
  induction items generalizing s with
  | nil => rfl
  | cons i items ih =>
    rw [List.foldl_cons, ih, withdrawSlot_slot]
    by_cases h : .defineProfile k = i <;> by_cases h' : ChangeItem.defineProfile k ∈ items <;> simp [h, h']

theorem foldl_withdrawSlot_only (s : State) : StoresOnly s (items.foldl State.withdrawSlot s) :=
  StoresOnly.foldl StoresOnly.withdrawSlot items s

/-- Copies freed, and then the slots of the items. -/
theorem State.Frees.copiesFreed {cs : List Nat} (h : s.Frees t cs) (hn : cs.Nodup)
    (hsup : ∀ c ∈ cs, c ∉ s.superseded) : s.CopiesFreed cs items (items.foldl State.withdrawSlot t) where
  free := (foldl_withdrawSlot_keep items State.freeCount (fun _ _ _ => rfl) t).trans h.free
  armed := by
    rw [foldl_withdrawSlot_keep items State.freeCount (fun _ _ _ => rfl) t,
      foldl_withdrawSlot_keep items State.lowArmed (fun _ _ _ => rfl) t]
    exact h.armed
  references k hk := by rw [foldl_withdrawSlot_slot, if_neg hk, h.references hn]
  superseded := by
    rw [foldl_withdrawSlot_keep items State.superseded (fun _ _ _ => rfl) t, h.superseded]
    exact List.filter_eq_self.2 fun c hc => decide_eq_true fun hcs => hsup c hcs hc

end

/-! ### The rows of a session (R14, R31, R78) -/

/-- The row that an item of a session drafts a copy for. -/
def ChangeItem.draftRow : ChangeItem → Option Nat
  | .insert r => some r
  | .amend r => some r
  | .retire _ => none
  | .defineProfile _ => none

/-- The draft that the abandonment of an item frees. -/
def State.heldDraft (s : State) (i : ChangeItem) : Option Nat := i.draftRow.bind (fun r => (s.row r).draft)

theorem draftRow_row? {i : ChangeItem} {r : Nat} (h : i.draftRow = some r) : i.row? = some r := by
  cases i <;> simp_all [ChangeItem.draftRow, ChangeItem.row?]

theorem frees_abandonRow (s : State) (i : ChangeItem) : s.Frees (s.abandonRow i) (s.heldDraft i).toList := by
  cases i with
  | insert r => exact ((State.Frees.freeDraft s r).trans (.freeRow _ r)).congr (List.append_nil _)
  | amend r => exact .freeDraft s r
  | retire r | defineProfile r => exact .refl s

theorem abandonRow_row (s : State) (i : ChangeItem) (r : Nat) : (s.abandonRow i).row r =
    if i = .insert r then Row.free else if i = .amend r then { s.row r with draft := none } else s.row r := by
  cases i with
  | insert q =>
    by_cases h : r = q
    · simp [State.abandonRow, freeRow_row, h]
    · simp [State.abandonRow, freeRow_row, freeDraft_row, h, Ne.symm h]
  | amend q =>
    by_cases h : r = q
    · simp [State.abandonRow, freeDraft_row, h]
    · simp [State.abandonRow, freeDraft_row, h, Ne.symm h]
  | retire q | defineProfile q => simp [State.abandonRow]

theorem abandonRow_row_unnamed {i : ChangeItem} {r : Nat} (h : i.draftRow ≠ some r) (s : State) : (s.abandonRow i).row r = s.row r := by
  rw [abandonRow_row, if_neg, if_neg] <;> rintro rfl <;> exact h rfl

theorem abandonRow_spanIndex (s : State) (i : ChangeItem) :
    (s.abandonRow i).spanIndex = s.spanIndex.filter (fun it => decide (.insert it.row ≠ i)) := by
  cases i with
  | insert r => simp [State.abandonRow]
  | amend r | retire r | defineProfile r => simp [State.abandonRow]

theorem abandonRow_links {i : ChangeItem} (s : State) (h : ∀ r, i = .insert r → (s.row r).watch = []) :
    (s.abandonRow i).links = s.links := by
  cases i with
  | insert r =>
    refine (freeRow_links_unwatched _ _ ?_).trans (freeDraft_links s r)
    simpa [freeDraft_row] using h r rfl
  | amend r => exact freeDraft_links s r
  | retire r | defineProfile r => rfl

/-- What becomes of a row when the items of a session are abandoned. -/
def Row.abandonedBy (items : List ChangeItem) (r : Nat) (x : Row) : Row :=
  if .insert r ∈ items then Row.free else if .amend r ∈ items then { x with draft := none } else x

theorem foldl_abandonRow_row (items : List ChangeItem) (s : State) (r : Nat) :
    (items.foldl State.abandonRow s).row r = (s.row r).abandonedBy items r := by
  induction items generalizing s with
  | nil => rfl
  | cons i items ih =>
    rw [List.foldl_cons, ih, abandonRow_row]
    unfold Row.abandonedBy
    by_cases h1 : ChangeItem.insert r ∈ items
    · simp [h1]
    · by_cases h2 : i = .insert r
      · by_cases h3 : ChangeItem.amend r ∈ items <;> simp [h1, h2, h3, Row.free]
      · by_cases h3 : i = .amend r
        · by_cases h4 : ChangeItem.amend r ∈ items <;> simp [h1, h3, h4]
        · simp [h1, h2, h3, Ne.symm h2, Ne.symm h3]

theorem foldl_abandonRow_spanIndex (items : List ChangeItem) (s : State) : (items.foldl State.abandonRow s).spanIndex =
    s.spanIndex.filter (fun it => decide (.insert it.row ∉ items)) := by
  induction items generalizing s with
  | nil => simp
  | cons i items ih =>
    rw [List.foldl_cons, ih, abandonRow_spanIndex, List.filter_filter]
    exact List.filter_congr fun it _ => by simp [Bool.and_comm]

theorem foldl_abandonRow_links (items : List ChangeItem) (s : State) (h : ∀ r, .insert r ∈ items → (s.row r).watch = []) :
    (items.foldl State.abandonRow s).links = s.links := by
  induction items generalizing s with
  | nil => rfl
  | cons i items ih =>
    rw [List.foldl_cons, ih, abandonRow_links s fun r hi => h r (hi ▸ List.mem_cons_self)]
    intro r hr
    rw [abandonRow_row]
    have hw := h r (List.mem_cons_of_mem _ hr)
    split
    · rfl
    · split <;> exact hw

/-- The draft of a row that an item names is freed at that item, if not before. -/
theorem foldl_abandonRow_draft {items : List ChangeItem} {r c : Nat} (s : State) (h : .insert r ∈ items ∨ .amend r ∈ items)
    (hd : (s.row r).draft = some c) : (items.foldl State.abandonRow s).copy c = Copy.free := by
  induction items generalizing s with
  | nil => simp at h
  | cons i items ih =>
    rw [List.foldl_cons]
    by_cases hi : i.draftRow = some r
    · have hfree : (s.abandonRow i).copy c = Copy.free := by
        rw [(frees_abandonRow s i).copy, if_pos]
        simp [State.heldDraft, hi, hd]
      obtain hk | hk := foldl_copy_cases (fun u j d => (frees_abandonRow u j).copy_cases d) items (s.abandonRow i) c
      · exact hk.trans hfree
      · exact hk
    · refine ih _ ?_ ((abandonRow_row_unnamed hi s).symm ▸ hd)
      have hne : i ≠ .insert r ∧ i ≠ .amend r := ⟨fun h => hi (h ▸ rfl), fun h => hi (h ▸ rfl)⟩
      simpa [hne.1.symm, hne.2.symm] using h

theorem frees_foldl_abandonRow {items : List ChangeItem} (hn : (rowsNamed items).Nodup)
    (hr : ∀ r, .retire r ∈ items → (s.row r).draft = none) :
    s.Frees (items.foldl State.abandonRow s) (s.draftsOf items) := by
  refine (State.Frees.foldl frees_abandonRow (fun u => (items_pairwise hn).imp fun {i j} hij => ?_) s).congr ?_
  · unfold State.heldDraft
    cases hj : j.draftRow with
    | none => rfl
    | some r =>
      simp only [Option.bind_some]
      rw [abandonRow_row_unnamed fun hi => hij r (draftRow_row? hi) (draftRow_row? hj)]
  · rw [State.draftsOf, rowsNamed, List.filterMap_filterMap]
    refine List.filterMap_congr fun i hi => ?_
    cases i with
    | insert r | amend r | defineProfile r => rfl
    | retire r => exact (hr r hi).symm

/-! ### The rows of a staged set (R19, R35) -/

/-- A row as the withdrawal of the item that names it leaves it. -/
def Row.withdrawn (x : Row) : Row :=
  if x.phase = .newStaged then Row.free
  else if x.phase = .live then { x with staged := none }
  else if x.phase = .dying then { x with phase := .live }
  else x

/-- The staged copy that the withdrawal of a row frees. -/
def Row.withdraws (x : Row) : Option Nat := if x.phase = .newStaged ∨ x.phase = .live then x.staged else none

theorem withdrawn_newStaged {x : Row} (h : x.phase = .newStaged) : x.withdrawn = Row.free := if_pos h

theorem withdrawn_live {x : Row} (h : x.phase = .live) : x.withdrawn = { x with staged := none } := by
  rw [Row.withdrawn, if_neg (by simp [h]), if_pos h]

theorem withdrawn_dying {x : Row} (h : x.phase = .dying) : x.withdrawn = { x with phase := .live } := by
  rw [Row.withdrawn, if_neg (by simp [h]), if_neg (by simp [h]), if_pos h]

theorem withdrawn_other {x : Row} (h1 : x.phase ≠ .newStaged) (h2 : x.phase ≠ .live) (h3 : x.phase ≠ .dying) : x.withdrawn = x := by
  rw [Row.withdrawn, if_neg h1, if_neg h2, if_neg h3]

theorem withdrawRow_row_same (s : State) (r : Nat) : (s.withdrawRow r).row r = (s.row r).withdrawn := by
  unfold State.withdrawRow
  cases hp : (s.row r).phase with
  | newStaged =>
    rw [withdrawn_newStaged hp]
    cases hs : (s.row r).staged <;> simp [freeRow_row]
  | live =>
    rw [withdrawn_live hp]
    cases hs : (s.row r).staged with
    | none => dsimp only; rw [← hs]
    | some c => simp
  | dying => rw [withdrawn_dying hp]; simp
  | free | newDraft | dead => rw [withdrawn_other] <;> simp [hp]

theorem withdrawRow_row (s : State) (r q : Nat) : (s.withdrawRow r).row q = if q = r then (s.row r).withdrawn else s.row q := by
  by_cases hq : q = r
  · rw [if_pos hq, hq, withdrawRow_row_same]
  · rw [if_neg hq, State.withdrawRow]
    cases (s.row r).phase <;> cases (s.row r).staged <;> simp [freeRow_row, hq]

theorem frees_withdrawRow (s : State) (r : Nat) : s.Frees (s.withdrawRow r) (s.row r).withdraws.toList := by
  unfold State.withdrawRow Row.withdraws
  cases hp : (s.row r).phase with
  | newStaged =>
    cases hs : (s.row r).staged with
    | none => exact .freeRow s r
    | some c => exact ((State.Frees.putRow s r _).trans (.freeCopy _ c)).trans (.freeRow _ r)
  | live =>
    cases hs : (s.row r).staged with
    | none => exact .refl s
    | some c => exact (State.Frees.putRow s r _).trans (.freeCopy _ c)
  | dying => exact .putRow s r _
  | free | newDraft | dead => exact .refl s

theorem withdrawRow_spanIndex (s : State) (r : Nat) : (s.withdrawRow r).spanIndex =
    s.spanIndex.filter (fun it => !(decide (it.row = r) && decide ((s.row it.row).phase = .newStaged))) := by
  have hkeep (h : (s.row r).phase ≠ .newStaged) : s.spanIndex =
      s.spanIndex.filter (fun it => !(decide (it.row = r) && decide ((s.row it.row).phase = .newStaged))) := by
    refine (List.filter_eq_self.2 fun it _ => ?_).symm
    by_cases hr : it.row = r <;> simp [hr, h]
  unfold State.withdrawRow
  cases hp : (s.row r).phase with
  | newStaged =>
    have hf : s.spanIndex.filter (fun it => !(decide (it.row = r) && decide ((s.row it.row).phase = .newStaged))) =
        s.spanIndex.filter (fun it => decide (it.row ≠ r)) :=
      List.filter_congr fun it _ => by by_cases hr : it.row = r <;> simp [hr, hp]
    rw [hf]
    cases hs : (s.row r).staged <;> simp
  | live =>
    rw [← hkeep (by simp [hp])]
    cases hs : (s.row r).staged <;> simp
  | dying => exact hkeep (by simp [hp])
  | free | newDraft | dead => exact hkeep (by simp [hp])

theorem withdrawRow_links {r : Nat} (s : State) (h : (s.row r).phase = .newStaged → (s.row r).watch = []) :
    (s.withdrawRow r).links = s.links := by
  unfold State.withdrawRow
  cases hp : (s.row r).phase with
  | newStaged =>
    have hw := h hp
    cases hs : (s.row r).staged with
    | none => exact freeRow_links_unwatched s r hw
    | some c =>
      refine (freeRow_links_unwatched _ _ ?_).trans ?_
      · simpa using hw
      · simp
  | live => cases hs : (s.row r).staged <;> simp
  | dying | free | newDraft | dead => simp

theorem withdrawn_phase (x : Row) : x.withdrawn.phase ≠ .newStaged := by
  unfold Row.withdrawn
  split
  · simp [Row.free]
  · split
    next h => simp [h]
    next => split <;> simp_all

section
variable (rs : List Nat)

theorem forEach_withdrawRow_row (s : State) {r : Nat} (h : (s.row r).withdrawn.withdrawn = (s.row r).withdrawn) :
    (State.forEach State.withdrawRow rs s).row r = if r ∈ rs then (s.row r).withdrawn else s.row r := by
  induction rs generalizing s with
  | nil => rfl
  | cons q rs ih =>
    by_cases hq : r = q
    · subst hq
      have hrow : (s.withdrawRow r).row r = (s.row r).withdrawn := (withdrawRow_row s r r).trans (if_pos rfl)
      rw [State.forEach, ih _ (by rw [hrow, h, h]), hrow, h, ite_self, if_pos List.mem_cons_self]
    · have hrow : (s.withdrawRow q).row r = s.row r := (withdrawRow_row s q r).trans (if_neg hq)
      rw [State.forEach, ih _ (by rw [hrow, h]), hrow]
      simp [hq]

theorem forEach_withdrawRow_unnamed (s : State) {r : Nat} (h : r ∉ rs) :
    (State.forEach State.withdrawRow rs s).row r = s.row r := by
  induction rs generalizing s with
  | nil => rfl
  | cons q rs ih =>
    obtain ⟨hq, hr⟩ := not_or.1 fun h' => h (List.mem_cons.2 h')
    rw [State.forEach, ih _ hr, withdrawRow_row, if_neg hq]

theorem forEach_withdrawRow_spanIndex (s : State) : (State.forEach State.withdrawRow rs s).spanIndex =
    s.spanIndex.filter (fun it => !(decide (it.row ∈ rs) && decide ((s.row it.row).phase = .newStaged))) := by
  induction rs generalizing s with
  | nil => simp [State.forEach]
  | cons r rs ih =>
    rw [State.forEach, ih, withdrawRow_spanIndex, List.filter_filter]
    refine List.filter_congr fun it _ => ?_
    rw [withdrawRow_row]
    by_cases hr : it.row = r
    · simp [hr, withdrawn_phase]
    · simp [hr]

theorem forEach_withdrawRow_links (s : State) (h : ∀ r ∈ rs, (s.row r).phase = .newStaged → (s.row r).watch = []) :
    (State.forEach State.withdrawRow rs s).links = s.links := by
  induction rs generalizing s with
  | nil => rfl
  | cons r rs ih =>
    rw [State.forEach, ih, withdrawRow_links s (h r List.mem_cons_self)]
    intro q hq
    rw [withdrawRow_row]
    split
    · exact fun hp => absurd hp (withdrawn_phase _)
    · exact h q (List.mem_cons_of_mem _ hq)

theorem forEach_withdrawRow_copy_cases (s : State) (c : Nat) : (State.forEach State.withdrawRow rs s).copy c = s.copy c ∨
    (State.forEach State.withdrawRow rs s).copy c = Copy.free := by
  rw [forEach_eq_foldl]
  exact foldl_copy_cases (fun u q d => (frees_withdrawRow u q).copy_cases d) rs s c

variable {rs}

theorem forEach_withdrawRow_staged {r c : Nat} (s : State) (h : r ∈ rs) (hd : (s.row r).withdraws = some c) :
    (State.forEach State.withdrawRow rs s).copy c = Copy.free := by
  induction rs generalizing s with
  | nil => simp at h
  | cons q rs ih =>
    rw [State.forEach]
    by_cases hq : r = q
    · subst hq
      have hfree : (s.withdrawRow r).copy c = Copy.free := by
        rw [(frees_withdrawRow s r).copy, if_pos]
        simp [hd]
      obtain hk | hk := forEach_withdrawRow_copy_cases rs (s.withdrawRow r) c
      · exact hk.trans hfree
      · exact hk
    · refine ih _ (List.mem_of_ne_of_mem hq h) ?_
      rw [withdrawRow_row, if_neg hq, hd]

theorem frees_forEach_withdrawRow (hn : rs.Nodup) (s : State) :
    s.Frees (State.forEach State.withdrawRow rs s) (rs.filterMap (fun r => (s.row r).withdraws)) := by
  rw [forEach_eq_foldl]
  refine State.Frees.foldl (held := fun u r => (u.row r).withdraws) frees_withdrawRow (fun u => hn.imp fun hqr => ?_) s
  rw [withdrawRow_row, if_neg (Ne.symm hqr)]

end

end Sys2Proof.Machine
end

section
/-! PROOF. ABANDON, the idle timer's expiry and WITHDRAW: a session and a staged set discarded. -/

namespace Sys2Proof.Machine

variable {s t u : State} {x : Session} {st : StagedSet}

/-! ### The stores' condition, carried over -/

/-- The stores' condition speaks of the stores and the two sets, and of the epoch from below. -/
theorem State.StoresKept.of_same (h : s.StoresKept) (hr : t.rows = s.rows) (hc : t.copies = s.copies) (hk : t.slots = s.slots)
    (hsup : t.superseded = s.superseded) (hf : t.freeCount = s.freeCount) (hi : t.spanIndex = s.spanIndex) (hit : t.items = s.items)
    (hst : t.stagedItems = s.stagedItems) (he : s.epoch ≤ t.epoch) : t.StoresKept := by
  have hrow : ∀ r, t.row r = s.row r := fun r => by simp only [State.row, hr]
  have hcopy : ∀ c, t.copy c = s.copy c := fun c => by simp only [State.copy, hc]
  have hslot : ∀ k, t.slot k = s.slot k := fun k => by simp only [State.slot, hk]
  exact {
    rowTable := hr ▸ h.rowTable
    copyTable := hc ▸ h.copyTable
    slotTable := hk ▸ h.slotTable
    rows := fun r => hrow r ▸ h.rows r
    copies := fun c => hcopy c ▸ h.copies c
    slots := fun k => hslot k ▸ h.slots k
    draft := fun r c => by rw [hrow, hcopy]; exact h.draft r c
    staged := fun r c => by rw [hrow, hcopy]; exact h.staged r c
    live := fun r c => by rw [hrow, hcopy]; exact h.live r c
    owner := fun r c => by rw [hrow, hcopy]; exact h.owner r c
    dead := fun r => by
      simp only [hrow, hcopy]
      exact fun hp => ⟨(h.dead r hp).1, fun d hd => ((h.dead r hp).2 d hd).trans he⟩
    list := by simp only [hsup, hcopy]; exact h.list
    freeCount := by rw [hf, h.freeCount, State.copyCount, State.copyCount, hc]
    index := by simp only [hi, hrow]; exact h.index
    itemsOnce := hit ▸ h.itemsOnce
    inserts := fun r => by rw [hit, hrow]; exact h.inserts r
    amends := fun r => by rw [hit, hrow]; exact h.amends r
    retires := fun r => by rw [hit, hrow]; exact h.retires r
    defines := fun k => by rw [hit, hslot]; exact h.defines k
    stagedOnce := hst ▸ h.stagedOnce
    stagedInserts := fun r => by rw [hst, hrow]; exact h.stagedInserts r
    stagedAmends := fun r => by rw [hst, hrow]; exact h.stagedAmends r
    stagedRetires := fun r => by rw [hst, hrow]; exact h.stagedRetires r
    stagedDefines := fun k => by rw [hst, hslot]; exact h.stagedDefines k }

theorem storesKept_timerRestarted (h : s.StoresKept) (hx : s.session = some x) : (s.timerRestarted x).StoresKept :=
  h.of_same rfl rfl rfl rfl rfl rfl ((items_timerRestarted s x).trans (items_eq hx).symm) rfl Nat.le.refl

/-! ### The drafts of a session, the copies of a staged set (R2, R28) -/

/-- Two items of a list that names each row once do not name the same row. -/
theorem items_row_once {items : List ChangeItem} (hn : items.Pairwise (fun i j => ∀ r, i.row? = some r → j.row? ≠ some r))
    {i j : ChangeItem} {r : Nat} (hi : i ∈ items) (hj : j ∈ items) (hir : i.row? = some r) (hjr : j.row? = some r) : i = j := by
  by_contra hne
  have hsymm : Std.Symm fun a b : ChangeItem => ∀ r, a.row? = some r → b.row? ≠ some r := ⟨fun _ _ h r hb ha => h r ha hb⟩
  exact hn.forall hi hj hne r hir hjr

section
variable (h : s.StoresKept)
include h

/-- A row with a draft is NEW_DRAFT, or an AMEND item names it. -/
theorem drafted_iff (r : Nat) : (s.row r).draft.isSome = true ↔ .insert r ∈ s.items ∨ .amend r ∈ s.items := by
  rw [h.inserts, h.amends]
  constructor
  · intro hd
    by_cases hp : (s.row r).phase = .newDraft
    · exact .inl hp
    · exact .inr ⟨hp, hd⟩
  · rintro (hp | ⟨-, hd⟩)
    · have hsh := h.rows r
      simp only [Row.shaped, hp] at hsh
      obtain ⟨-, -, -, -, -, hd, -⟩ := hsh
      exact hd
    · exact hd

/-- A row with a staged copy is NEW_STAGED or LIVE, as its INSERT or AMEND item says. -/
theorem stagedCopy_phase {r : Nat} (hr : (s.row r).staged.isSome = true) :
    (s.row r).phase = .newStaged ∨ (s.row r).phase = .live := by
  have hsh := h.rows r
  cases hp : (s.row r).phase with
  | newStaged => exact .inl rfl
  | live => exact .inr rfl
  | free | newDraft | dying | dead =>
    simp only [Row.shaped, hp] at hsh
    simp_all [Row.free]

theorem stagedCopy_iff (r : Nat) : (s.row r).staged.isSome = true ↔ .insert r ∈ s.stagedItems ∨ .amend r ∈ s.stagedItems := by
  rw [h.stagedInserts, h.stagedAmends]
  constructor
  · intro hd
    exact (stagedCopy_phase h hd).imp_right fun hp => ⟨hp, hd⟩
  · rintro (hp | ⟨-, hd⟩)
    · have hsh := h.rows r
      simp only [Row.shaped, hp] at hsh
      obtain ⟨-, -, -, -, hd, -⟩ := hsh
      exact hd
    · exact hd

/-- A copy in a state in use has an owner. -/
theorem owner_of_used {c : Nat} (hc : (s.copy c).state ≠ .free) : ∃ r, (s.copy c).owner = some r := by
  have hsh := h.copies c
  refine Option.isSome_iff_exists.1 ?_
  cases hs : (s.copy c).state with
  | free => exact absurd hs hc
  | draft | staged | live | superseded =>
    simp only [Copy.shaped, hs] at hsh
    exact hsh.1

theorem mem_draftsOf (c : Nat) : c ∈ s.draftsOf s.items ↔ (s.copy c).state = .draft := by
  simp only [State.draftsOf, List.mem_filterMap, rowsNamed]
  constructor
  · rintro ⟨r, -, hd⟩
    exact ((h.draft r c).1 hd).1
  · intro hc
    obtain ⟨r, hr⟩ := owner_of_used h (c := c) (by simp [hc])
    have hd := (h.draft r c).2 ⟨hc, hr⟩
    obtain hi | hi := (drafted_iff h r).1 (by simp [hd])
    · exact ⟨r, ⟨_, hi, rfl⟩, hd⟩
    · exact ⟨r, ⟨_, hi, rfl⟩, hd⟩

theorem mem_stagedOf (c : Nat) : c ∈ s.stagedOf s.stagedItems ↔ (s.copy c).state = .staged := by
  simp only [State.stagedOf, List.mem_filterMap, rowsNamed]
  constructor
  · rintro ⟨r, -, hd⟩
    exact ((h.staged r c).1 hd).1
  · intro hc
    obtain ⟨r, hr⟩ := owner_of_used h (c := c) (by simp [hc])
    have hd := (h.staged r c).2 ⟨hc, hr⟩
    obtain hi | hi := (stagedCopy_iff h r).1 (by simp [hd])
    · exact ⟨r, ⟨_, hi, rfl⟩, hd⟩
    · exact ⟨r, ⟨_, hi, rfl⟩, hd⟩

theorem draft_none_of_retire {r : Nat} (hr : .retire r ∈ s.items) : (s.row r).draft = none := by
  refine Option.not_isSome_iff_eq_none.1 fun hd => ?_
  have hn := items_pairwise h.itemsOnce.rows
  obtain hi | hi := (drafted_iff h r).1 hd
  · exact nomatch items_row_once hn hi hr rfl rfl
  · exact nomatch items_row_once hn hi hr rfl rfl

theorem staged_none_of_retire {r : Nat} (hr : .retire r ∈ s.stagedItems) : (s.row r).staged = none := by
  have hsh := h.rows r
  simp only [Row.shaped, (h.stagedRetires r).1 hr] at hsh
  obtain ⟨-, -, -, -, hs, -⟩ := hsh
  exact hs

theorem length_draftsOf : (s.draftsOf s.items).length = s.items.countP (fun i => i.isInsert || i.isAmend) := by
  rw [State.draftsOf, rowsNamed, List.filterMap_filterMap, List.length_filterMap_eq_countP]
  refine List.countP_congr fun i hi => ?_
  cases i with
  | insert r => simpa [ChangeItem.row?, ChangeItem.isInsert] using (drafted_iff h r).2 (.inl hi)
  | amend r => simpa [ChangeItem.row?, ChangeItem.isAmend] using (drafted_iff h r).2 (.inr hi)
  | retire r => simp [ChangeItem.row?, ChangeItem.isInsert, ChangeItem.isAmend, draft_none_of_retire h hi]
  | defineProfile k => simp [ChangeItem.row?, ChangeItem.isInsert, ChangeItem.isAmend]

theorem length_stagedOf : (s.stagedOf s.stagedItems).length = s.stagedItems.countP (fun i => i.isInsert || i.isAmend) := by
  rw [State.stagedOf, rowsNamed, List.filterMap_filterMap, List.length_filterMap_eq_countP]
  refine List.countP_congr fun i hi => ?_
  cases i with
  | insert r => simpa [ChangeItem.row?, ChangeItem.isInsert] using (stagedCopy_iff h r).2 (.inl hi)
  | amend r => simpa [ChangeItem.row?, ChangeItem.isAmend] using (stagedCopy_iff h r).2 (.inr hi)
  | retire r => simp [ChangeItem.row?, ChangeItem.isInsert, ChangeItem.isAmend, staged_none_of_retire h hi]
  | defineProfile k => simp [ChangeItem.row?, ChangeItem.isInsert, ChangeItem.isAmend]

theorem draftsOf_nodup : (s.draftsOf s.items).Nodup :=
  nodup_filterMap_of_owner h.itemsOnce.rows fun r _ c hc => ((h.draft r c).1 hc).2

theorem stagedOf_nodup : (s.stagedOf s.stagedItems).Nodup :=
  nodup_filterMap_of_owner h.stagedOnce.rows fun r _ c hc => ((h.staged r c).1 hc).2

theorem draftsOf_not_superseded : ∀ c ∈ s.draftsOf s.items, c ∉ s.superseded := fun c hc hs => by
  have h1 := (mem_draftsOf h c).1 hc
  rw [(h.list.2 c).1 hs] at h1
  cases h1

theorem stagedOf_not_superseded : ∀ c ∈ s.stagedOf s.stagedItems, c ∉ s.superseded := fun c hc hs => by
  have h1 := (mem_stagedOf h c).1 hc
  rw [(h.list.2 c).1 hs] at h1
  cases h1

end

/-! ### The end of a session (R78, R79) -/

/-- The stores as the end of a session leaves them. -/
def State.discardSession (s : State) (items : List ChangeItem) : State :=
  items.foldl State.withdrawSlot (items.foldl State.abandonRow s)

theorem abandonSession_eq (s : State) : s.abandonSession = (s.discardSession s.items).setSession none := by
  unfold State.abandonSession State.discardSession
  rw [abandonSlot_eq]
  rfl

section
variable (s) (items : List ChangeItem)

theorem discardSession_only : StoresOnly s (s.discardSession items) :=
  (StoresOnly.foldl StoresOnly.abandonRow items s).trans (foldl_withdrawSlot_only items _)

theorem discardSession_row (r : Nat) : (s.discardSession items).row r = (s.row r).abandonedBy items r :=
  (foldl_withdrawSlot_keep items (fun u => u.row r) (fun _ _ _ => rfl) _).trans (foldl_abandonRow_row items s r)

theorem discardSession_copy_rows (c : Nat) : (s.discardSession items).copy c = (items.foldl State.abandonRow s).copy c :=
  foldl_withdrawSlot_keep items (fun u => u.copy c) (fun _ _ _ => rfl) _

theorem discardSession_copy (c : Nat) : (s.discardSession items).copy c = s.copy c ∨ (s.discardSession items).copy c = Copy.free := by
  rw [discardSession_copy_rows]
  exact foldl_copy_cases (fun u i d => (frees_abandonRow u i).copy_cases d) items s c

theorem discardSession_spanIndex :
    (s.discardSession items).spanIndex = s.spanIndex.filter (fun it => decide (.insert it.row ∉ items)) :=
  (foldl_withdrawSlot_keep items State.spanIndex (fun _ _ _ => rfl) _).trans (foldl_abandonRow_spanIndex items s)

theorem discardSession_slot {k : Nat} (h : .defineProfile k ∈ items) : (s.discardSession items).slot k = Slot.free := by
  rw [State.discardSession, foldl_withdrawSlot_slot, if_pos h]

theorem foldl_abandonRow_keep {α : Type} (g : State → α) (h : ∀ (u : State) i, g (u.abandonRow i) = g u) :
    g (items.foldl State.abandonRow s) = g s := foldl_keep g h items s

theorem discardSession_eventSet : (s.discardSession items).eventSet = s.eventSet :=
  (foldl_withdrawSlot_keep items State.eventSet (fun _ _ _ => rfl) _).trans
    (foldl_abandonRow_keep s items State.eventSet fun u i => (frees_abandonRow u i).eventSet)

theorem discardSession_engine : (s.discardSession items).engine = s.engine :=
  (foldl_withdrawSlot_keep items State.engine (fun _ _ _ => rfl) _).trans
    (foldl_abandonRow_keep s items State.engine fun u i => (frees_abandonRow u i).engine)

theorem discardSession_superseded : (s.discardSession items).superseded.Sublist s.superseded := by
  rw [State.discardSession, foldl_withdrawSlot_keep items State.superseded (fun _ _ _ => rfl)]
  induction items generalizing s with
  | nil => exact .refl _
  | cons i items ih => exact (ih _).trans (frees_abandonRow s i).superseded_sublist

theorem discardSession_link (h : ∀ r, .insert r ∈ items → (s.row r).watch = []) (n : Nat) :
    (s.discardSession items).link n = s.link n := by
  refine (foldl_withdrawSlot_keep items (fun u => u.link n) (fun _ _ _ => rfl) _).trans ?_
  exact congrArg (fun l => Table.read Link.reset l n) (foldl_abandonRow_links items s h)

variable {s}

theorem copiesFreed_discardSession (h : s.StoresKept) : s.CopiesFreed (s.draftsOf s.items) s.items (s.discardSession s.items) :=
  (frees_foldl_abandonRow h.itemsOnce.rows fun _ hr => draft_none_of_retire h hr).copiesFreed s.items (draftsOf_nodup h)
    (draftsOf_not_superseded h)

theorem discardSession_copy_of_kept (h : s.StoresKept) (c : Nat) :
    (s.discardSession s.items).copy c = if (s.copy c).state = .draft then Copy.free else s.copy c := by
  rw [discardSession_copy_rows, (frees_foldl_abandonRow h.itemsOnce.rows fun _ hr => draft_none_of_retire h hr).copy]
  exact if_congr (mem_draftsOf h c) rfl rfl

end

/-- The freeing of copies does not depend on the session, nor does what it left. -/
theorem State.CopiesFreed.setSession {cs : List Nat} {items : List ChangeItem} (h : s.CopiesFreed cs items t) (y : Option Session) :
    s.CopiesFreed cs items (t.setSession y) := ⟨h.free, h.armed, h.references, h.superseded⟩

theorem abandoned_abandonSession (hx : s.session = some x) : s.Abandoned x s.abandonSession := by
  have hi : s.items = x.items := items_eq hx
  have hso := discardSession_only s x.items
  rw [abandonSession_eq, hi]
  refine ⟨rfl, fun r hr => ?_, fun r hr hn => ?_, fun r hn ha => ?_, discardSession_spanIndex s x.items, fun r c hr hd => ?_,
    discardSession_copy s x.items, fun k hk => discardSession_slot s x.items hk, fun hk => ⟨?_, ?_, ?_⟩,
    discardSession_superseded s x.items, discardSession_link s x.items, hso.staged, samePorts_of_storesOnly_setSession hso _,
    sameControl_of_storesOnly_setSession hso (discardSession_engine s x.items) _⟩
  · exact (discardSession_row s x.items r).trans (if_pos hr)
  · refine (discardSession_row s x.items r).trans ?_
    rw [Row.abandonedBy, if_neg hn, if_pos hr]
  · refine (discardSession_row s x.items r).trans ?_
    rw [Row.abandonedBy, if_neg hn, if_neg ha]
  · exact (discardSession_copy_rows s x.items c).trans (foldl_abandonRow_draft s hr hd)
  · rw [← hi]
    exact discardSession_copy_of_kept hk
  · rw [← hi]
    exact length_draftsOf hk
  · rw [← hi]
    exact (copiesFreed_discardSession hk).setSession none

/-- What is so after an edit command's restart of the timer is so from before it. -/
theorem State.Abandoned.of_timerRestarted {y : Session} (hx : s.session = some x) (hy : y.items = x.items)
    (h : (s.timerRestarted x).Abandoned y t) : s.Abandoned x t where
  session := h.session
  inserted r hr := h.inserted r (hy ▸ hr)
  amended r hr hn := h.amended r (hy ▸ hr) (hy ▸ hn)
  otherRows r hn ha := h.otherRows r (hy ▸ hn) (hy ▸ ha)
  index := hy ▸ h.index
  drafts r c hr hd := h.drafts r c (hy ▸ hr) hd
  copies := h.copies
  defined k hk := h.defined k (hy ▸ hk)
  freed hk := by
    obtain ⟨hcopies, hlen, hfree, harmed, hrefs, hsup⟩ := h.freed (storesKept_timerRestarted hk hx)
    rw [hy] at hlen hfree harmed hrefs
    exact ⟨hcopies, hlen, hfree, harmed, hrefs, hsup⟩
  list := h.list
  links hw := h.links fun r hr => hw r (hy ▸ hr)
  staged := h.staged
  ports := (samePorts_setSession _).trans h.ports
  control := (sameControl_setSession _).trans h.control

theorem abandonSession_eventSet (s : State) : s.abandonSession.eventSet = s.eventSet := by
  rw [abandonSession_eq]
  exact discardSession_eventSet s s.items

/-- An event raised is no part of what an abandonment leaves. -/
theorem State.Abandoned.raise (h : s.Abandoned x t) (o : Occurrence) : s.Abandoned x (t.raise o) where
  session := h.session
  inserted := h.inserted
  amended := h.amended
  otherRows := h.otherRows
  index := h.index
  drafts := h.drafts
  copies := h.copies
  defined := h.defined
  freed hk := by
    obtain ⟨hcopies, hlen, hfree, harmed, hrefs, hsup⟩ := h.freed hk
    exact ⟨hcopies, hlen, hfree, harmed, hrefs, hsup⟩
  list := h.list
  links := h.links
  staged := h.staged
  ports := ⟨h.ports.host, h.ports.service, h.ports.hostMask, h.ports.serviceMask⟩
  control := ⟨h.control.pending, h.control.epoch, h.control.markerCount, h.control.switchRecord, h.control.engine, h.control.snap,
    h.control.flash, h.control.opState, h.control.hostMask, h.control.serviceMask, h.control.params, h.control.freeTick⟩

theorem exec_abandon_owner {p : Port} (seq : Half) (h : s.Ready p .abandon) (ho : s.Owns p x) :
    exec (.abandon p seq []) s =
      .next ((s.timerRestarted x).abandonSession.respond p seq { code := .done, data := [(s.timerRestarted x).itemCountWord] }) :=
  exec_guarded (act := fun u => (u.abandonSession, { code := .done, data := [u.itemCountWord] })) (args := []) seq h ho rfl
    (Nat.zero_le _) rfl rfl (fun _ => rfl)

/-- Settles O16: the two ways a session ends by abandonment. -/
theorem sessionEndsInAbandonment : Obligations.SessionEndsInAbandonment := by
  intro s x hx
  refine ⟨⟨s.abandonSession.raise (.sessionExpired x.owner), ?_, (abandoned_abandonSession hx).raise _, ?_⟩,
    fun p seq hready ho => ⟨(s.timerRestarted x).abandonSession, ?_,
      (State.Abandoned.of_timerRestarted hx (y := { x with timer := s.params.editTimeout }) rfl
        (abandoned_abandonSession (timerRestarted_session s x))), abandonSession_eventSet _⟩⟩
  · change Host.Outcome.next _ = _
    simp only [hx]
  · rw [State.raise_eventSet, abandonSession_eventSet]
    rfl
  · rw [exec_abandon_owner seq hready ho]
    simp only [State.itemCountWord, items_timerRestarted]
    rfl

/-! ### The withdrawal (R101) -/

theorem withdrawSet_eq (st : StagedSet) (s : State) : s.withdrawSet st =
    (st.items.foldl State.withdrawSlot (State.forEach State.withdrawRow (rowsNamed st.items) s)).setStaged none := rfl

theorem filterMap_withdraws (h : s.StoresKept) (rs : List Nat) :
    rs.filterMap (fun r => (s.row r).withdraws) = rs.filterMap (fun r => (s.row r).staged) := by
  refine List.filterMap_congr fun r _ => ?_
  unfold Row.withdraws
  split
  · rfl
  next hp =>
    refine (Option.not_isSome_iff_eq_none.1 fun hs => hp ?_).symm
    exact stagedCopy_phase h hs

theorem withdrawn_of_withdrawSet (hs : s.staged = some st) (hx : s.session = none) : s.Withdrawn st (s.withdrawSet st) := by
  have hsi : s.stagedItems = st.items := by simp only [State.stagedItems, hs]
  have hslots {α : Type} (g : State → α) (hg : ∀ (u : State) k y, g (u.putSlot k y) = g u) :=
    foldl_withdrawSlot_keep st.items g hg (State.forEach State.withdrawRow (rowsNamed st.items) s)
  have hrow (r : Nat) := hslots (fun u => u.row r) (fun _ _ _ => rfl)
  have hcopy (c : Nat) := hslots (fun u => u.copy c) (fun _ _ _ => rfl)
  have hso : StoresOnly s (st.items.foldl State.withdrawSlot (State.forEach State.withdrawRow (rowsNamed st.items) s)) :=
    (StoresOnly.forEach StoresOnly.withdrawRow _ s).trans (foldl_withdrawSlot_only st.items _)
  have hkeep {α : Type} (g : State → α) (hr : ∀ (u : State) r, g (u.withdrawRow r) = g u) :
      g (State.forEach State.withdrawRow (rowsNamed st.items) s) = g s := forEach_keep g (fun r u => hr u r) _ s
  have hfix {r : Nat} (hr : namesRow st.items r) (hw : (s.row r).withdrawn.withdrawn = (s.row r).withdrawn) :
      (s.withdrawSet st).row r = (s.row r).withdrawn := by
    rw [withdrawSet_eq]
    exact (hrow r).trans ((forEach_withdrawRow_row _ s hw).trans (if_pos ((mem_rows_named _ _).2 hr)))
  have hstaged {r c : Nat} (hr : namesRow st.items r) (hp : (s.row r).phase = .newStaged ∨ (s.row r).phase = .live)
      (hc : (s.row r).staged = some c) : (s.withdrawSet st).copy c = Copy.free := by
    rw [withdrawSet_eq]
    exact (hcopy c).trans (forEach_withdrawRow_staged s ((mem_rows_named _ _).2 hr) ((if_pos hp).trans hc))
  refine ⟨rfl, ?_, fun r hr hp => ?_, fun r hr hp hc => ?_, fun r c hr hp hc => ⟨?_, hstaged hr (.inr hp) hc⟩,
    fun r c hr hp hc => hstaged hr (.inl hp) hc, fun r hr => ?_, ?_, fun k hk => ?_, fun hk => ⟨fun c => ?_, ?_, ?_⟩, fun hw n => ?_,
    ?_, ?_, ?_⟩
  · exact hso.session.trans hx
  · rw [hfix hr, withdrawn_newStaged hp]
    rw [withdrawn_newStaged hp]
    rfl
  · have hw := withdrawn_dying hp
    rw [hfix hr, hw]
    rw [hw, withdrawn_live rfl]
    simp only [hc]
  · have hw := withdrawn_live hp
    rw [hfix hr, hw]
    rw [hw]
    exact withdrawn_live hp
  · exact (hrow r).trans (forEach_withdrawRow_unnamed _ s fun h => hr ((mem_rows_named _ _).1 h))
  · exact (hslots State.spanIndex (fun _ _ _ => rfl)).trans (forEach_withdrawRow_spanIndex _ s)
  · exact (foldl_withdrawSlot_slot st.items _ k).trans (if_pos hk)
  · refine (hcopy c).trans ?_
    have hn : (rowsNamed st.items).Nodup := hsi ▸ hk.stagedOnce.rows
    rw [(frees_forEach_withdrawRow hn s).copy, filterMap_withdraws hk]
    exact if_congr (by rw [← mem_stagedOf hk, hsi]; rfl) rfl rfl
  · rw [← hsi]
    exact length_stagedOf hk
  · have hn : (rowsNamed st.items).Nodup := hsi ▸ hk.stagedOnce.rows
    have hfrees := (frees_forEach_withdrawRow hn s).congr (filterMap_withdraws hk _)
    have hfreed := hfrees.copiesFreed st.items (hsi ▸ stagedOf_nodup hk) (hsi ▸ stagedOf_not_superseded hk)
    exact ⟨hfreed.free, hfreed.armed, hfreed.references, hfreed.superseded⟩
  · refine (hslots (fun u => u.link n) (fun _ _ _ => rfl)).trans ?_
    exact congrArg (fun l => Table.read Link.reset l n)
      (forEach_withdrawRow_links (rowsNamed st.items) s fun r hr => hw r ((mem_rows_named _ _).1 hr))
  · exact (hslots State.eventSet (fun _ _ _ => rfl)).trans (hkeep State.eventSet fun u r => (frees_withdrawRow u r).eventSet)
  · exact hso.samePorts.trans (samePorts_setStaged _)
  · exact (hso.sameControl ((hslots State.engine (fun _ _ _ => rfl)).trans
      (hkeep State.engine fun u r => (frees_withdrawRow u r).engine))).trans (sameControl_setStaged _)

/-- Settles O19: the refusals in the order of their checks, and the set discarded. -/
theorem withdrawDiscardsSet : Obligations.WithdrawDiscardsSet := by
  intro p seq s hready
  have hexec : exec (.withdraw p seq []) s = _ := exec_plain (args := []) seq hready (by decide) rfl (Nat.zero_le _) rfl rfl
  rw [hexec]
  refine ⟨fun hw => ?_, fun hw hs => ?_, fun st hw hs => ⟨fun hx => ?_, fun hx => ⟨s.withdrawSet st, ?_,
    withdrawn_of_withdrawSet hs hx⟩⟩⟩
  · simp only [State.perform, State.takeWithdraw, hw, if_true]
    rfl
  · simp only [State.perform, State.takeWithdraw, hw, hs, Bool.true_eq_false, if_false]
    rfl
  · have hsome : s.session.isSome = true := Option.isSome_iff_ne_none.2 hx
    simp only [State.perform, State.takeWithdraw, hw, hs, hsome, Bool.true_eq_false, if_false, if_true]
    rfl
  · simp only [State.perform, State.takeWithdraw, hw, hs, hx, Option.isSome_none, Bool.false_eq_true, Bool.true_eq_false, if_false]
    rfl

end Sys2Proof.Machine
end

section
/-! PROOF. The counts of holds (O58) refuted: a page of a bank's entries is read while the restore has tried no bank. -/

namespace Sys2Proof.Machine

/-- The first page of a bank's records: rows 0 to 3, each with one channel. -/
def fourRecords : List Byte := [0, 1, 2, 3].flatMap (fun r => recordEntry r ⟨r, 1⟩ Body.none)

/-- The header of a bank of five records, on two pages. -/
def fiveRecordsHeader : BankHeader := { sequence := 1, savedEpoch := 0, profileCount := 0, recordCount := 5, bodyCheck := 0#32 }

/-- A restore that reads the first of two pages of bank A's records with neither bank tried, the read done next. The kept conditions
admit it: they say of such a read that a target epoch stands, not that a bank has been tried. -/
def untriedLoading : State :=
  { State.reset with
    opState := .restoring
    snap := { Snapshot.reset with
      restorePhase := .loading, origin := some .cold, surveyA := .valid fiveRecordsHeader, loading := some .bankA
      targetEpoch := some 1, check := some crc32Start, readPos := some 0 }
    flash := { cells := writeBytes 256 fourRecords [], device := none, op := some (.read .bankA 1) }
    pending := [.pageReadDone []] }

theorem modesKept_untriedLoading : untriedLoading.ModesKept where
  idle _ := ⟨rfl, rfl, rfl⟩
  wait := ⟨rfl, rfl, 1, rfl, Nat.zero_lt_one⟩

theorem storesKept_untriedLoading : untriedLoading.StoresKept := storesKept_of_empty rfl rfl rfl rfl rfl rfl rfl rfl

/-- There is no row yet, no copy, no request and no watch. -/
theorem holdsKept_untriedLoading : untriedLoading.HoldsKept where
  references _ := rfl
  named _ _ h := by cases h
  pins _ := rfl
  readers _ := rfl
  reading _ h := by cases h
  waiting _ _ _ h := by cases h
  watches _ _ := rfl
  watchSets _ := ⟨List.Pairwise.nil, fun _ h => by cases h⟩
  unheld _ := rfl
  unwatched _ _ := rfl
  unloaded _ := rfl
  untried _ h := by obtain h | ⟨bk, h⟩ := h <;> cases h

/-- The state after that read. -/
def untriedLoaded : State := State.readCompletes .bankA 1 (untriedLoading.setPending [])

theorem step_pageReadDone {s : State} {bk : Bank} {page : Nat} (hp : s.pending = [.pageReadDone []])
    (ho : s.flash.op = some (.read bk page)) : step s = .next (State.readCompletes bk page (s.setPending [])) := by
  have ho' : (s.setPending []).flash.op = some (.read bk page) := ho
  unfold step
  rw [hp]
  show execPageReadDone [] (s.setPending []) = _
  unfold execPageReadDone
  rw [ho']
  rfl

/-- The page loads and the next is begun: the part is RESTORING with rows, and no bank tried. -/
theorem untriedLoaded_fields : untriedLoaded.opState = .restoring ∧ untriedLoaded.snap.triedA = false ∧
    untriedLoaded.snap.triedB = false ∧ untriedLoaded.rows ≠ [] := by decide +kernel

/-- Refutes O58: from `untriedLoading`, which meets the premises, PAGE_READ_DONE loads rows before any bank counts as tried, against
the clause that there is then no row. -/
theorem not_holdsStayCounted : ¬ Obligations.HoldsStayCounted := by
  intro h
  obtain ⟨hop, hA, hB, hrows⟩ := untriedLoaded_fields
  have hstep : step untriedLoading = .next untriedLoaded := step_pageReadDone rfl rfl
  have hkept := h _ _ modesKept_untriedLoading storesKept_untriedLoading holdsKept_untriedLoading hstep
  exact hrows (hkept.unloaded (.inr ⟨hop, hA, hB⟩))

end Sys2Proof.Machine
end

section
/-! SUPPORT. The stores' condition taken apart (O57): the tables' form, the rows with the copies they own, the pool's counts, the span
index, and the items of the two sets against rows and slots. Each part speaks of few functions, so an event that leaves them leaves the
part. -/

namespace Sys2Proof.Machine

/-! ### The tables' form (log 23) -/

/-- The three tables of the stores are in canonical form. -/
structure State.TablesWf (s : State) : Prop where
  rows : Table.wf Row.free s.rows = true
  copies : Table.wf Copy.free s.copies = true
  slots : Table.wf Slot.free s.slots = true

/-! ### Rows and the copies they own (R2, R28) -/

/-- The copy that a row names in a state (R2). -/
def Row.names (x : Row) : CopyState → Option Nat
  | .draft => x.draft
  | .staged => x.staged
  | .live => x.live
  | .free => none
  | .superseded => none

/-- The rows and the copies agree: each has the fields of its phase or state, a row names just the copies it owns. -/
structure OwnersAgree (row : Nat → Row) (copy : Nat → Copy) (epoch : Nat) : Prop where
  rows : ∀ r, (row r).shaped
  copies : ∀ c, (copy c).shaped
  names : ∀ r st c, (row r).names st = some c → (copy c).state = st ∧ (copy c).owner = some r
  named : ∀ c r, (copy c).owner = some r → (copy c).state ≠ .superseded → (row r).names (copy c).state = some c
  outlives : ∀ c r, (copy c).owner = some r → (copy c).state = .superseded →
    (row r).phase = .live ∨ (row r).phase = .dying ∨ (row r).phase = .dead
  dead : ∀ r, (row r).phase = .dead → (∃ c, (copy c).owner = some r) ∧ ∀ d, (row r).dies = some d → d ≤ epoch

/-! ### The pool's counts (R39, R40) -/

/-- The superseded list and the free count are those of the copies. -/
structure PoolCounted (copy : Nat → Copy) (superseded : List Nat) (free : Nat) : Prop where
  bound : ∀ c, (copy c).state ≠ .free → c < 2560
  nodup : superseded.Nodup
  mem : ∀ c, c ∈ superseded ↔ (copy c).state = .superseded
  count : free = (List.range 2560).countP (fun c => decide ((copy c).state = .free))

/-! ### The span index (R7) -/

/-- The order of the span index. -/
def IndexItem.before (x y : IndexItem) : Prop := x.first < y.first ∨ x.first = y.first ∧ x.row < y.row

/-- The span index holds one item for each row in use, in order. -/
structure RowsIndexed (row : Nat → Row) (index : List IndexItem) : Prop where
  bound : ∀ r, (row r).phase ≠ .free → r < 1024
  sorted : index.Pairwise IndexItem.before
  mem : ∀ it, it ∈ index ↔ ∃ sp, (row it.row).span = some sp ∧ sp.first = it.first

/-! ### The items of the two sets (R62, R13 to R15, R49, R51, R85) -/

/-- The items that name rows stand for the rows changed by the session and by the staged set. -/
structure RowItems (row : Nat → Row) (items staged : List ChangeItem) : Prop where
  inserts : ∀ r, .insert r ∈ items ↔ (row r).phase = .newDraft
  amends : ∀ r, .amend r ∈ items ↔ (row r).phase ≠ .newDraft ∧ (row r).draft.isSome = true
  retires : ∀ r, .retire r ∈ items → (row r).phase = .live ∨ (row r).phase = .newStaged
  stagedInserts : ∀ r, .insert r ∈ staged ↔ (row r).phase = .newStaged
  stagedAmends : ∀ r, .amend r ∈ staged ↔ (row r).phase = .live ∧ (row r).staged.isSome = true
  stagedRetires : ∀ r, .retire r ∈ staged ↔ (row r).phase = .dying

/-- The slots have the fields of their states, and the DEFINE_PROFILE items stand for the PENDING and the STAGED ones. -/
structure SlotItems (slot : Nat → Slot) (items staged : List ChangeItem) : Prop where
  bound : ∀ k, (slot k).state ≠ .free → k < 32
  slots : ∀ k, (slot k).shaped
  defines : ∀ k, .defineProfile k ∈ items ↔ (slot k).state = .pending
  stagedDefines : ∀ k, .defineProfile k ∈ staged ↔ (slot k).state = .staged

/-! ### The whole condition -/

/-- The stores' condition in its parts. -/
structure State.StoresParts (s : State) : Prop where
  tables : s.TablesWf
  owners : OwnersAgree s.row s.copy s.epoch
  pool : PoolCounted s.copy s.superseded s.freeCount
  index : RowsIndexed s.row s.spanIndex
  rowItems : RowItems s.row s.items s.stagedItems
  slotItems : SlotItems s.slot s.items s.stagedItems
  once : ItemsOnce s.items
  stagedOnce : ItemsOnce s.stagedItems

variable {s : State}

theorem Row.eq_free {x : Row} (h : x.shaped) (hp : x.phase = .free) : x = Row.free := by
  simpa only [Row.shaped, hp] using h

theorem Copy.eq_free {x : Copy} (h : x.shaped) (hp : x.state = .free) : x = Copy.free := by
  simpa only [Copy.shaped, hp] using h

theorem Slot.eq_free {x : Slot} (h : x.shaped) (hp : x.state = .free) : x = Slot.free := by
  simpa only [Slot.shaped, hp] using h

/-- A number that a table in canonical form lists does not read as the default. -/
theorem Table.read_ne_of_mem_keys {α : Type} [DecidableEq α] {d : α} {t : Table α} (h : Table.wf d t = true) {k : Nat} (hk : k ∈ t.keys) :
    Table.read d t k ≠ d := by
  obtain ⟨e, he, rfl⟩ := List.mem_map.1 hk
  rw [Table.read_of_mem (Table.rising_of_wf h) he]
  simp only [Table.wf, Bool.and_eq_true, List.all_eq_true, decide_eq_true_eq] at h
  exact h.2 e he

theorem copyCount_free_eq (hwf : Table.wf Copy.free s.copies = true) (hb : ∀ c ∈ s.copies.keys, c < Config.copies) :
    s.copyCount .free = (List.range 2560).countP (fun c => decide ((s.copy c).state = .free)) := by
  unfold State.copyCount
  rw [if_pos rfl]
  exact Table.sub_count_eq (d := Copy.free) (n := Config.copies) (p := fun x => decide (x.state = .free)) (Table.rising_of_wf hwf) hb
    (fun _ => decide_not) (decide_eq_true rfl)

theorem State.StoresKept.parts (h : s.StoresKept) : s.StoresParts where
  tables := ⟨h.rowTable.1, h.copyTable.1, h.slotTable.1⟩
  owners := {
    rows := h.rows
    copies := h.copies
    names := fun r st c hn => by
      cases st with
      | draft => exact (h.draft r c).1 hn
      | staged => exact (h.staged r c).1 hn
      | live => exact (h.live r c).1 hn
      | free | superseded => cases hn
    named := fun c r ho hs => by
      cases hst : (s.copy c).state with
      | draft => exact (h.draft r c).2 ⟨hst, ho⟩
      | staged => exact (h.staged r c).2 ⟨hst, ho⟩
      | live => exact (h.live r c).2 ⟨hst, ho⟩
      | free => rw [Copy.eq_free (h.copies c) hst] at ho; cases ho
      | superseded => exact absurd hst hs
    outlives := fun c r ho hs => h.owner r c hs ho
    dead := h.dead }
  pool := {
    bound := fun c hc => h.copyTable.2 c (mem_keys_of_ne (d := Copy.free) fun hf => hc (congrArg Copy.state hf))
    nodup := h.list.1
    mem := h.list.2
    count := by rw [h.freeCount, copyCount_free_eq h.copyTable.1 h.copyTable.2] }
  index := {
    bound := fun r hr => h.rowTable.2 r (mem_keys_of_ne (d := Row.free) fun hf => hr (congrArg Row.phase hf))
    sorted := h.index.1
    mem := h.index.2 }
  rowItems := ⟨h.inserts, h.amends, h.retires, h.stagedInserts, h.stagedAmends, h.stagedRetires⟩
  slotItems := {
    bound := fun k hk => h.slotTable.2 k (mem_keys_of_ne (d := Slot.free) fun hf => hk (congrArg Slot.state hf))
    slots := h.slots
    defines := h.defines
    stagedDefines := h.stagedDefines }
  once := h.itemsOnce
  stagedOnce := h.stagedOnce

theorem State.StoresParts.kept (h : s.StoresParts) : s.StoresKept := by
  have hrows : ∀ r ∈ s.rows.keys, r < Config.rows := fun r hr =>
    h.index.bound r fun hp => Table.read_ne_of_mem_keys h.tables.rows hr (Row.eq_free (h.owners.rows r) hp)
  have hcopies : ∀ c ∈ s.copies.keys, c < Config.copies := fun c hc =>
    h.pool.bound c fun hp => Table.read_ne_of_mem_keys h.tables.copies hc (Copy.eq_free (h.owners.copies c) hp)
  have hslots : ∀ k ∈ s.slots.keys, k < Config.slots := fun k hk =>
    h.slotItems.bound k fun hp => Table.read_ne_of_mem_keys h.tables.slots hk (Slot.eq_free (h.slotItems.slots k) hp)
  have hnames (st : CopyState) (hst : st ≠ .superseded) (r c : Nat) :
      (s.row r).names st = some c ↔ (s.copy c).state = st ∧ (s.copy c).owner = some r :=
    ⟨h.owners.names r st c, fun ⟨hs, ho⟩ => hs ▸ h.owners.named c r ho (hs ▸ hst)⟩
  exact {
    rowTable := ⟨h.tables.rows, hrows⟩
    copyTable := ⟨h.tables.copies, hcopies⟩
    slotTable := ⟨h.tables.slots, hslots⟩
    rows := h.owners.rows
    copies := h.owners.copies
    slots := h.slotItems.slots
    draft := hnames .draft (fun h => nomatch h)
    staged := hnames .staged (fun h => nomatch h)
    live := hnames .live (fun h => nomatch h)
    owner := fun r c hs ho => h.owners.outlives c r ho hs
    dead := h.owners.dead
    list := ⟨h.pool.nodup, h.pool.mem⟩
    freeCount := by rw [copyCount_free_eq h.tables.copies hcopies]; exact h.pool.count
    index := ⟨h.index.sorted, h.index.mem⟩
    itemsOnce := h.once
    inserts := h.rowItems.inserts
    amends := h.rowItems.amends
    retires := h.rowItems.retires
    defines := h.slotItems.defines
    stagedOnce := h.stagedOnce
    stagedInserts := h.rowItems.stagedInserts
    stagedAmends := h.rowItems.stagedAmends
    stagedRetires := h.rowItems.stagedRetires
    stagedDefines := h.slotItems.stagedDefines }

end Sys2Proof.Machine
end

section
/-! SUPPORT. What keeps each part of the stores' condition: rows and copies claimed, copies freed, the free count, the span index. -/

namespace Sys2Proof.Machine

variable {row row' : Nat → Row} {copy copy' : Nat → Copy} {epoch epoch' : Nat}

/-! ### Owners -/

/-- The row is one that SUPERSEDED copies may outlive in (R17, R18). -/
def Row.outlived (x : Row) : Prop := x.phase = .live ∨ x.phase = .dying ∨ x.phase = .dead

/-- Copies picked by `F` are freed, the others keep state and owner; each row forgets the freed copies it named. -/
theorem OwnersAgree.free (h : OwnersAgree row copy epoch) (F : Nat → Prop) (hfree : ∀ c, F c → copy' c = Copy.free)
    (hkeep : ∀ c, ¬F c → (copy' c).state = (copy c).state ∧ (copy' c).owner = (copy c).owner ∧ (copy' c).shaped)
    (hrows : ∀ r, (row' r).shaped)
    (hnames : ∀ r st c, (row' r).names st = some c ↔ (row r).names st = some c ∧ ¬F c)
    (hout : ∀ c r, ¬F c → (copy c).owner = some r → (copy c).state = .superseded → (row r).outlived → (row' r).outlived)
    (hdead : ∀ r, (row' r).phase = .dead → (∃ c, (copy c).owner = some r ∧ ¬F c) ∧ ∀ d, (row' r).dies = some d → d ≤ epoch') :
    OwnersAgree row' copy' epoch' where
  rows := hrows
  copies c := by
    by_cases hF : F c
    · rw [hfree c hF]; rfl
    · exact (hkeep c hF).2.2
  names r st c hn := by
    obtain ⟨hn, hF⟩ := (hnames r st c).1 hn
    obtain ⟨hs, ho, -⟩ := hkeep c hF
    rw [hs, ho]
    exact h.names r st c hn
  named c r ho hs := by
    by_cases hF : F c
    · rw [hfree c hF] at ho; cases ho
    · obtain ⟨hs', ho', -⟩ := hkeep c hF
      rw [ho'] at ho
      rw [hs'] at hs ⊢
      exact (hnames r _ c).2 ⟨h.named c r ho hs, hF⟩
  outlives c r ho hs := by
    by_cases hF : F c
    · rw [hfree c hF] at ho; cases ho
    · obtain ⟨hs', ho', -⟩ := hkeep c hF
      rw [ho'] at ho
      rw [hs'] at hs
      exact hout c r hF ho hs (h.outlives c r ho hs)
  dead r hp := by
    obtain ⟨⟨c, ho, hF⟩, hd⟩ := hdead r hp
    exact ⟨⟨c, (hkeep c hF).2.1.trans ho⟩, hd⟩

/-- Rows and copies whose phases, names, states and owners stay. -/
theorem OwnersAgree.same (h : OwnersAgree row copy epoch) (he : epoch ≤ epoch')
    (hcopy : ∀ c, (copy' c).state = (copy c).state ∧ (copy' c).owner = (copy c).owner ∧ (copy' c).shaped)
    (hrow : ∀ r, (row' r).shaped ∧ (row' r).phase = (row r).phase ∧ (row' r).dies = (row r).dies ∧ (row' r).names = (row r).names) :
    OwnersAgree row' copy' epoch' := by
  refine h.free (fun _ => False) (fun _ hF => hF.elim) (fun c _ => hcopy c) (fun r => (hrow r).1) (fun r st c => ?_)
    (fun c r _ ho hs hl => ?_) fun r hp => ?_
  · rw [(hrow r).2.2.2, and_iff_left not_false]
  · unfold Row.outlived
    rw [(hrow r).2.1]
    exact hl
  · obtain ⟨-, hph, hdies, -⟩ := hrow r
    rw [hph] at hp
    obtain ⟨⟨c, hc⟩, hd⟩ := h.dead r hp
    exact ⟨⟨c, hc, not_false⟩, fun d hd' => (hd d (hdies ▸ hd')).trans he⟩

/-- A FREE copy is claimed for a row, which names it in a state in which it named none. -/
theorem OwnersAgree.claim (h : OwnersAgree row copy epoch) {r c : Nat} {st : CopyState} (hc : (copy c).state = .free)
    (hst : st ≠ .superseded) (hcopy : ∀ d, d ≠ c → copy' d = copy d) (hrow : ∀ q, q ≠ r → row' q = row q)
    (hy : (copy' c).state = st ∧ (copy' c).owner = some r ∧ (copy' c).shaped) (hx : (row' r).shaped)
    (hnone : (row r).names st = none) (hname : (row' r).names st = some c)
    (hother : ∀ st', st' ≠ st → (row' r).names st' = (row r).names st') (hout : (row r).outlived → (row' r).outlived)
    (hdead : (row' r).phase ≠ .dead) : OwnersAgree row' copy' epoch := by
  have hnot : ∀ q, (copy c).owner ≠ some q := fun q ho => by rw [Copy.eq_free (h.copies c) hc] at ho; cases ho
  have hnamed : ∀ q st' d, (row q).names st' = some d → d ≠ c := fun q st' d hn hd =>
    hnot q (hd ▸ (h.names q st' d hn).2)
  exact {
    rows := fun q => by
      by_cases hq : q = r
      · exact hq ▸ hx
      · rw [hrow q hq]; exact h.rows q
    copies := fun d => by
      by_cases hd : d = c
      · exact hd ▸ hy.2.2
      · rw [hcopy d hd]; exact h.copies d
    names := fun q st' d hn => by
      by_cases hq : q = r
      · subst hq
        by_cases hs : st' = st
        · subst hs
          obtain rfl := Option.some.inj (hname.symm.trans hn)
          exact ⟨hy.1, hy.2.1⟩
        · rw [hother st' hs] at hn
          rw [hcopy d (hnamed q st' d hn)]
          exact h.names q st' d hn
      · rw [hrow q hq] at hn
        rw [hcopy d (hnamed q st' d hn)]
        exact h.names q st' d hn
    named := fun d q ho hs => by
      by_cases hd : d = c
      · subst hd
        obtain rfl := Option.some.inj (hy.2.1.symm.trans ho)
        rw [hy.1]
        exact hname
      · rw [hcopy d hd] at ho hs ⊢
        have hn := h.named d q ho hs
        by_cases hq : q = r
        · subst hq
          by_cases hds : (copy d).state = st
          · rw [hds, hnone] at hn; cases hn
          · rw [hother _ hds]; exact hn
        · rw [hrow q hq]; exact hn
    outlives := fun d q ho hs => by
      by_cases hd : d = c
      · subst hd
        exact absurd (hy.1.symm.trans hs) hst
      · rw [hcopy d hd] at ho hs
        by_cases hq : q = r
        · exact hq ▸ hout (hq ▸ h.outlives d q ho hs)
        · rw [hrow q hq]; exact h.outlives d q ho hs
    dead := fun q hp => by
      by_cases hq : q = r
      · exact absurd (hq ▸ hp) hdead
      · rw [hrow q hq] at hp ⊢
        obtain ⟨⟨d, hd⟩, hdies⟩ := h.dead q hp
        have hdc : d ≠ c := fun hdc => hnot q (hdc ▸ hd)
        exact ⟨⟨d, by rw [hcopy d hdc]; exact hd⟩, hdies⟩ }

/-! ### The pool's counts -/

/-- A list of distinct numbers below `n` joins what a count over the range takes in. -/
theorem countP_range_add {n : Nat} {p q : Nat → Bool} {cs : List Nat} (hn : cs.Nodup) (hlt : ∀ c ∈ cs, c < n)
    (hp : ∀ c ∈ cs, p c = false) (hq : ∀ c, q c = (p c || decide (c ∈ cs))) :
    (List.range n).countP q = (List.range n).countP p + cs.length := by
  have hperm : ((List.range n).filter (fun c => decide (c ∈ cs))).Perm cs := by
    refine (List.perm_ext_iff_of_nodup (List.nodup_range.filter _) hn).2 fun c => ?_
    rw [List.mem_filter, List.mem_range, decide_eq_true_eq, and_iff_right_of_imp (hlt c)]
  have hsplit : ∀ l : List Nat, l.countP q = l.countP p + l.countP (fun c => decide (c ∈ cs)) := fun l => by
    induction l with
    | nil => rfl
    | cons c l ih =>
      rw [List.countP_cons, List.countP_cons, List.countP_cons, ih, hq]
      by_cases hc : c ∈ cs
      · simp [hp c hc, hc]; omega
      · cases p c <;> simp [hc] ; omega
  rw [hsplit, List.countP_eq_length_filter (p := fun c => decide (c ∈ cs)), hperm.length_eq]

variable {sup : List Nat} {n : Nat}

/-- States that stay FREE or SUPERSEDED as they were. -/
theorem PoolCounted.same (h : PoolCounted copy sup n) (hfree : ∀ c, (copy' c).state = .free ↔ (copy c).state = .free)
    (hsup : ∀ c, (copy' c).state = .superseded ↔ (copy c).state = .superseded) : PoolCounted copy' sup n where
  bound c hc := h.bound c fun hf => hc ((hfree c).2 hf)
  nodup := h.nodup
  mem c := (h.mem c).trans (hsup c).symm
  count := h.count.trans (List.countP_congr fun c _ => by simp [hfree])

/-- A FREE copy within the pool is allocated. -/
theorem PoolCounted.alloc (h : PoolCounted copy sup n) {c : Nat} (hc : (copy c).state = .free) (hlt : c < 2560)
    (hcopy : ∀ d, d ≠ c → copy' d = copy d) (hy : (copy' c).state ≠ .free) (hys : (copy' c).state ≠ .superseded) :
    PoolCounted copy' sup (n - 1) where
  bound d hd := by
    by_cases hdc : d = c
    · exact hdc ▸ hlt
    · exact h.bound d (hcopy d hdc ▸ hd)
  nodup := h.nodup
  mem d := by
    rw [h.mem]
    by_cases hdc : d = c
    · subst hdc; simp [hc, hys]
    · rw [hcopy d hdc]
  count := by
    have hadd := countP_range_add (p := fun d => decide ((copy' d).state = .free)) (q := fun d => decide ((copy d).state = .free))
      (List.nodup_singleton c) (by simpa using hlt) (by simpa using hy) fun d => by
        by_cases hdc : d = c
        · subst hdc; simp [hc]
        · simp [hcopy d hdc, hdc]
    rw [h.count, hadd, List.length_singleton, Nat.add_sub_cancel]

/-- Copies in use are freed. -/
theorem PoolCounted.frees (h : PoolCounted copy sup n) {cs : List Nat} (hn : cs.Nodup) (hused : ∀ c ∈ cs, (copy c).state ≠ .free)
    (hfree : ∀ c, c ∈ cs → (copy' c).state = .free) (hkeep : ∀ c, c ∉ cs → (copy' c).state = (copy c).state) :
    PoolCounted copy' (sup.filter (fun c => decide (c ∉ cs))) (n + cs.length) where
  bound c hc := by
    by_cases hcs : c ∈ cs
    · exact absurd (hfree c hcs) hc
    · exact h.bound c (hkeep c hcs ▸ hc)
  nodup := h.nodup.filter _
  mem c := by
    rw [List.mem_filter, h.mem, decide_eq_true_eq]
    by_cases hcs : c ∈ cs
    · simp [hcs, hfree c hcs]
    · simp [hcs, hkeep c hcs]
  count := by
    rw [h.count]
    refine (countP_range_add hn (fun c hc => h.bound c (hused c hc)) (fun c hc => decide_eq_false (hused c hc)) fun c => ?_).symm
    by_cases hcs : c ∈ cs
    · simp [hcs, hfree c hcs]
    · simp [hcs, hkeep c hcs]

/-! ### The span index -/

variable {index : List IndexItem}

theorem RowsIndexed.same (h : RowsIndexed row index) (hspan : ∀ r, (row' r).span = (row r).span)
    (hfree : ∀ r, (row' r).phase ≠ .free → (row r).phase ≠ .free) : RowsIndexed row' index where
  bound r hr := h.bound r (hfree r hr)
  sorted := h.sorted
  mem it := by rw [h.mem, hspan]

/-- Rows that `G` picks become FREE, and their items leave. -/
theorem RowsIndexed.free (h : RowsIndexed row index) {G : Nat → Bool} (hfree : ∀ r, G r = true → row' r = Row.free)
    (hspan : ∀ r, G r = false → (row' r).span = (row r).span)
    (hkeep : ∀ r, G r = false → (row' r).phase ≠ .free → (row r).phase ≠ .free) :
    RowsIndexed row' (index.filter (fun it => !G it.row)) where
  bound r hr := by
    cases hG : G r with
    | true => rw [hfree r hG] at hr; exact absurd rfl hr
    | false => exact h.bound r (hkeep r hG hr)
  sorted := h.sorted.filter _
  mem it := by
    rw [List.mem_filter, h.mem]
    cases hG : G it.row with
    | true => simp [hfree _ hG, Row.free]
    | false => simp [hspan _ hG]

theorem mem_indexInsert (x it : IndexItem) (l : List IndexItem) : it ∈ indexInsert x l ↔ it = x ∨ it ∈ l := by
  induction l with
  | nil => simp [indexInsert]
  | cons y ys ih =>
    unfold indexInsert
    split
    · simp
    · rw [List.mem_cons, ih, List.mem_cons]
      tauto

theorem sorted_indexInsert {x : IndexItem} {l : List IndexItem} (hl : l.Pairwise IndexItem.before) (hx : x ∉ l) :
    (indexInsert x l).Pairwise IndexItem.before := by
  induction l with
  | nil => exact List.pairwise_singleton _ _
  | cons y ys ih =>
    obtain ⟨hy, hys⟩ := List.pairwise_cons.1 hl
    unfold indexInsert
    split
    next hxy =>
      refine List.pairwise_cons.2 ⟨fun z hz => ?_, hl⟩
      obtain rfl | hz := List.mem_cons.1 hz
      · exact hxy
      · have hyz := hy z hz
        unfold IndexItem.before at hyz ⊢
        omega
    next hxy =>
      obtain ⟨hne, hx⟩ := not_or.1 fun h => hx (List.mem_cons.2 h)
      refine List.pairwise_cons.2 ⟨fun z hz => ?_, ih hys hx⟩
      obtain rfl | hz := (mem_indexInsert x z ys).1 hz
      · unfold IndexItem.before
        have : ¬(z.first = y.first ∧ z.row = y.row) := fun ⟨hf, hr⟩ => hne (by cases z; cases y; simp_all)
        omega
      · exact hy z hz

/-- A FREE row within the directory is claimed, and its item joins. -/
theorem RowsIndexed.claim (h : RowsIndexed row index) {r : Nat} {sp : Span} (hr : (row r).span = none) (hlt : r < 1024)
    (hrow : ∀ q, q ≠ r → row' q = row q) (hsp : (row' r).span = some sp) :
    RowsIndexed row' (indexInsert { first := sp.first, row := r } index) where
  bound q hq := by
    by_cases hqr : q = r
    · exact hqr ▸ hlt
    · exact h.bound q (hrow q hqr ▸ hq)
  sorted := sorted_indexInsert h.sorted fun hin => by
    obtain ⟨sp', hsp', -⟩ := (h.mem _).1 hin
    rw [hr] at hsp'
    cases hsp'
  mem it := by
    rw [mem_indexInsert, h.mem]
    by_cases hit : it.row = r
    · rw [hit, hr, hsp]
      constructor
      · rintro (rfl | ⟨sp', hsp', -⟩)
        · exact ⟨sp, rfl, rfl⟩
        · cases hsp'
      · rintro ⟨sp', hsp', hf⟩
        obtain rfl := Option.some.inj hsp'
        exact .inl (by cases it; simp_all)
    · rw [hrow _ hit, or_iff_right]
      rintro rfl
      exact hit rfl

end Sys2Proof.Machine
end

section
/-! SUPPORT. The stores' operations keep the tables in canonical form (log 23). -/

namespace Sys2Proof.Machine

/-- A value kept off the default by the map stays listed. -/
theorem Table.wf_mapValues {α : Type} [DecidableEq α] {d : α} {f : α → α} {t : Table α} (h : Table.wf d t = true)
    (hf : ∀ e ∈ t, f e.2 ≠ d) : Table.wf d (Table.mapValues f t) = true := by
  simp only [Table.wf, Bool.and_eq_true, List.all_eq_true, decide_eq_true_eq] at h ⊢
  obtain ⟨hr, -⟩ := h
  have hmap : Table.mapValues f t = t.map (fun e => (e.1, f e.2)) := by
    clear hr hf
    induction t with
    | nil => rfl
    | cons e t ih => rw [List.map_cons, ← ih]; rfl
  rw [hmap]
  refine ⟨?_, fun e he => ?_⟩
  · clear hmap hf
    induction t with
    | nil => rfl
    | cons e t ih =>
      obtain ⟨hfrom, hrest⟩ := Table.rising_cons.1 hr
      refine Table.rising_cons.2 ⟨fun x hx => ?_, ih hrest⟩
      obtain ⟨y, hy, rfl⟩ := List.mem_map.1 hx
      exact hfrom y hy
  · obtain ⟨x, hx, rfl⟩ := List.mem_map.1 he
    exact hf x hx

namespace State.TablesWf

variable {s t : State}

theorem of_same (h : s.TablesWf) (hr : t.rows = s.rows) (hc : t.copies = s.copies) (hk : t.slots = s.slots) : t.TablesWf :=
  ⟨hr ▸ h.rows, hc ▸ h.copies, hk ▸ h.slots⟩

theorem putRow (h : s.TablesWf) (r : Nat) (x : Row) : (s.putRow r x).TablesWf := ⟨Table.wf_write _ _ h.rows, h.copies, h.slots⟩

theorem putCopy (h : s.TablesWf) (c : Nat) (x : Copy) : (s.putCopy c x).TablesWf := ⟨h.rows, Table.wf_write _ _ h.copies, h.slots⟩

theorem putSlot (h : s.TablesWf) (k : Nat) (x : Slot) : (s.putSlot k x).TablesWf := ⟨h.rows, h.copies, Table.wf_write _ _ h.slots⟩

theorem forEach {f : Nat → State → State} (hf : ∀ n u, State.TablesWf u → (f n u).TablesWf) (l : List Nat) (h : s.TablesWf) :
    (State.forEach f l s).TablesWf := by
  induction l generalizing s with
  | nil => exact h
  | cons n l ih => exact ih (hf n s h)

theorem foldl {β : Type} {f : State → β → State} (hf : ∀ u b, State.TablesWf u → (f u b).TablesWf) (l : List β) (h : s.TablesWf) :
    (l.foldl f s).TablesWf := by
  induction l generalizing s with
  | nil => exact h
  | cons b l ih => exact ih (hf s b h)

theorem putItems (h : s.TablesWf) (l : List ChangeItem) : (s.putItems l).TablesWf := by
  unfold State.putItems
  split
  · exact h
  · exact h.of_same rfl rfl rfl

/-! ### References, copies, rows -/

theorem addRef (h : s.TablesWf) (k : Option Nat) : (s.addRef k).TablesWf := by
  cases k with
  | none => exact h
  | some k => exact h.putSlot k _

theorem dropRef (h : s.TablesWf) (k : Option Nat) : (s.dropRef k).TablesWf := by
  cases k with
  | none => exact h
  | some k => exact h.putSlot k _

theorem checkArm (h : s.TablesWf) : s.checkArm.TablesWf := h.of_same (checkArm_rows s) (checkArm_copies s) (checkArm_slots s)

theorem checkLow (h : s.TablesWf) : s.checkLow.TablesWf := h.of_same (checkLow_rows s) (checkLow_copies s) (checkLow_slots s)

theorem allocCopy (h : s.TablesWf) (c : Nat) (x : Copy) : (s.allocCopy c x).TablesWf :=
  checkLow (((h.putCopy c x).addRef x.profile).of_same rfl rfl rfl)

theorem freeCopy (h : s.TablesWf) (c : Nat) : (s.freeCopy c).TablesWf :=
  checkArm (((h.putCopy c Copy.free).dropRef (s.copy c).profile).of_same rfl rfl rfl)

theorem claimRow (h : s.TablesWf) (r : Nat) (sp : Span) (x : Row) : (s.claimRow r sp x).TablesWf := (h.putRow r x).of_same rfl rfl rfl

theorem emptyWatchSet (h : s.TablesWf) (r : Nat) : (s.emptyWatchSet r).TablesWf :=
  forEach (f := State.watchFalls) (fun _ _ hu => hu.of_same rfl rfl rfl) _ (h.putRow r _)

theorem freeRow (h : s.TablesWf) (r : Nat) : (s.freeRow r).TablesWf := ((h.emptyWatchSet r).putRow r Row.free).of_same rfl rfl rfl

theorem reapRow (h : s.TablesWf) (r : Nat) : (s.reapRow r).TablesWf := by
  unfold State.reapRow
  split
  · exact h.freeRow r
  · exact h

theorem settleCopy (h : s.TablesWf) (c : Nat) : (s.settleCopy c).TablesWf := by
  unfold State.settleCopy
  split
  · split
    · exact h.freeCopy c
    · exact (h.freeCopy c).reapRow _
  · exact h

theorem dropFetchPin (h : s.TablesWf) (c : Nat) : (s.dropFetchPin c).TablesWf := (h.putCopy c _).settleCopy c

theorem clearSnapPin (h : s.TablesWf) (c : Nat) : (s.clearSnapPin c).TablesWf := by
  unfold State.clearSnapPin
  split
  · exact (h.putCopy c _).settleCopy c
  · exact h

theorem releaseRequest (h : s.TablesWf) (q : Request) : (s.releaseRequest q).TablesWf := by
  unfold State.releaseRequest
  dsimp only
  cases q.boundCopy with
  | none => cases q.boundSlot with
    | none => exact h
    | some k => exact h.putSlot k _
  | some c => cases q.boundSlot with
    | none => exact h.dropFetchPin c
    | some k => exact (h.dropFetchPin c).putSlot k _

theorem releaseRequests (h : s.TablesWf) (qs : List Request) : (State.releaseRequests qs s).TablesWf := by
  induction qs generalizing s with
  | nil => exact h
  | cons q qs ih => exact ih (h.releaseRequest q)

/-- Links leave the watch sets of rows in use. -/
theorem leaveWatchSets (h : s.TablesWf) (hs : ∀ r, (s.row r).shaped) (n : Nat) : (s.leaveWatchSets n).TablesWf := by
  refine ⟨Table.wf_mapValues h.rows fun e he hfree => ?_, h.copies, h.slots⟩
  have hread : s.row e.1 = e.2 := Table.read_of_mem (Table.rising_of_wf h.rows) he
  have hne : e.2 ≠ Row.free := hread ▸ Table.read_ne_of_mem_keys h.rows (List.mem_map_of_mem he)
  exact hne (Row.eq_free (hread ▸ hs e.1) (congrArg Row.phase hfree))

/-! ### Edits -/

theorem freeDraft (h : s.TablesWf) (r : Nat) : (s.freeDraft r).TablesWf := by
  unfold State.freeDraft
  split
  · exact h
  · exact (h.putRow r _).freeCopy _

theorem rewriteBody (h : s.TablesWf) (c : Nat) (b : Body) : (s.rewriteBody c b).TablesWf := by
  unfold State.rewriteBody
  dsimp only
  split
  · exact h.putCopy c _
  · exact ((h.putCopy c _).dropRef _).addRef _

theorem abandonRow (h : s.TablesWf) (i : ChangeItem) : (s.abandonRow i).TablesWf := by
  cases i with
  | insert r => exact (h.freeDraft r).freeRow r
  | amend r => exact h.freeDraft r
  | retire r | defineProfile r => exact h

theorem withdrawSlot (h : s.TablesWf) (i : ChangeItem) : (s.withdrawSlot i).TablesWf := by
  cases i with
  | insert r | amend r | retire r => exact h
  | defineProfile k => exact h.putSlot k _

theorem withdrawRow (h : s.TablesWf) (r : Nat) : (s.withdrawRow r).TablesWf := by
  unfold State.withdrawRow
  cases (s.row r).phase with
  | newStaged => cases (s.row r).staged with
    | none => exact h.freeRow r
    | some c => exact ((h.putRow r _).freeCopy c).freeRow r
  | live => cases (s.row r).staged with
    | none => exact h
    | some c => exact (h.putRow r _).freeCopy c
  | dying => exact h.putRow r _
  | free | newDraft | dead => exact h

theorem discardSession (h : s.TablesWf) (items : List ChangeItem) : (s.discardSession items).TablesWf :=
  foldl (fun _ i hu => hu.withdrawSlot i) items (foldl (fun _ i hu => hu.abandonRow i) items h)

theorem sealRow (h : s.TablesWf) (i : ChangeItem) : (s.sealRow i).TablesWf := by
  cases i with
  | insert r | amend r | retire r => exact h.putRow r _
  | defineProfile k => exact h

theorem setCopies_map (h : s.TablesWf) {f : Copy → Copy} (hf : ∀ x, x ≠ Copy.free → f x ≠ Copy.free) :
    (s.setCopies (Table.mapValues f s.copies)).TablesWf := by
  refine ⟨h.rows, Table.wf_mapValues h.copies fun e he => hf _ ?_, h.slots⟩
  have hread : s.copy e.1 = e.2 := Table.read_of_mem (Table.rising_of_wf h.copies) he
  exact hread ▸ Table.read_ne_of_mem_keys h.copies (List.mem_map_of_mem he)

theorem setSlots_map (h : s.TablesWf) {f : Slot → Slot} (hf : ∀ x, x ≠ Slot.free → f x ≠ Slot.free) :
    (s.setSlots (Table.mapValues f s.slots)).TablesWf := by
  refine ⟨h.rows, h.copies, Table.wf_mapValues h.slots fun e he => hf _ ?_⟩
  have hread : s.slot e.1 = e.2 := Table.read_of_mem (Table.rising_of_wf h.slots) he
  exact hread ▸ Table.read_ne_of_mem_keys h.slots (List.mem_map_of_mem he)

theorem sealStores (h : s.TablesWf) (items : List ChangeItem) : (s.sealStores items).TablesWf := by
  refine setSlots_map (setCopies_map (foldl (fun _ i hu => hu.sealRow i) items h) fun x hx => ?_) fun x hx => ?_
  · unfold Copy.sealed
    split
    · exact fun hf => nomatch congrArg Copy.state hf
    · exact hx
  · unfold Slot.sealed
    split
    · exact fun hf => nomatch congrArg Slot.state hf
    · exact hx

/-! ### The switch -/

theorem supersede (h : s.TablesWf) (e c : Nat) : (s.supersede e c).TablesWf := by
  unfold State.supersede
  dsimp only
  split
  · exact (h.putCopy c _).freeCopy c
  · exact h.putCopy c _

theorem buryRow (h : s.TablesWf) (e r : Nat) : (s.buryRow e r).TablesWf := by
  unfold State.buryRow
  dsimp only
  split
  · split
    · exact (h.emptyWatchSet r).putRow r _
    · exact (h.emptyWatchSet r).freeRow r
  · exact h

theorem switchStores (h : s.TablesWf) (e : Nat) (items : List ChangeItem) : (s.switchStores e items).TablesWf := by
  have hactive : ((s.setCopies (Table.mapValues (Copy.activate e) s.copies)).setSlots
      (Table.mapValues (Slot.activate e) s.slots)).TablesWf := by
    refine setSlots_map (setCopies_map h fun x hx => ?_) fun x hx => ?_
    · unfold Copy.activate
      split
      · exact fun hf => nomatch congrArg Copy.state hf
      · exact hx
    · unfold Slot.activate
      split
      · exact fun hf => nomatch congrArg Slot.state hf
      · exact hx
  unfold State.switchStores
  dsimp only
  exact forEach (fun r _ hu => hu.buryRow e r) _ ((forEach (fun c _ hu => hu.supersede e c) _
    (forEach (fun r _ hu => hu.putRow r _) _ hactive)).of_same rfl rfl rfl)

end State.TablesWf

end Sys2Proof.Machine
end

section
/-! SUPPORT. The moves of the stores (O57, O59): every event is a chain of them, so a condition that each move keeps is kept by every
event. A quiet move leaves the stores and the two sets; each other move is one operation of the model with what its event has checked. -/

namespace Sys2Proof.Machine

/-- From `s` to `t` the stores and the two sets did not change. -/
structure State.Quiet (s t : State) : Prop where
  rows : t.rows = s.rows
  index : t.spanIndex = s.spanIndex
  copies : t.copies = s.copies
  freeCount : t.freeCount = s.freeCount
  superseded : t.superseded = s.superseded
  slots : t.slots = s.slots
  items : t.items = s.items
  stagedItems : t.stagedItems = s.stagedItems
  epoch : s.epoch ≤ t.epoch

/-- No session and no staged set: what a restore's loading finds (R171). -/
structure State.Loading (s : State) : Prop where
  session : s.session = none
  staged : s.staged = none

/-- What a decision may hold in the state it is placed in (R131, R134). -/
structure State.Holdable (s : State) (d : Decision) : Prop where
  copy : ∀ c, d.copy = some c → (s.copy c).state = .live
  slot : ∀ k, d.slot = some k → (s.slot k).state = .active

/-- One move of the stores. -/
inductive StoreMove (s : State) : State → Prop where
  | quiet {t : State} : s.Quiet t → StoreMove s t
  | answered (n : Nat) : StoreMove s (s.completeRequest n)
  | linkReset (n : Nat) : StoreMove s (s.resetLink n)
  | held (d : Decision) : s.Holdable d → StoreMove s (s.placeHolds d)
  | watchAdded (n r : Nat) : (s.row r).phase = .live ∨ (s.row r).phase = .dying → StoreMove s (s.addWatch n r)
  | watchRemoved (n r : Nat) : StoreMove s (s.removeWatch n r)
  | pinned (c : Nat) : (s.copy c).state = .live → StoreMove s (s.setSnapPin c)
  | unpinned (c : Nat) : StoreMove s (s.clearSnapPin c)
  | inserted (x : Session) (sp : Span) (b : Body) (r c : Nat) : s.session = some x → s.insertRefusal sp b = none →
      s.lowestFreeRow = some r → s.lowestFreeCopy = some c → StoreMove s (s.insertRow r c sp b)
  | amended (x : Session) (r : Nat) (sel : Bool) (b : Body) (c : Nat) : s.session = some x → s.amendRefusal r sel b = none →
      hasDraftItem s.items r = false → s.items.length < 96 → s.lowestFreeCopy = some c → StoreMove s (s.startAmend r c b)
  | rewritten (r : Nat) (sel : Bool) (b : Body) (c : Nat) : s.amendRefusal r sel b = none → (s.row r).draft = some c →
      StoreMove s (s.rewriteBody c b)
  | retired (x : Session) (r : Nat) : s.session = some x → s.retireRefusal r = none →
      (s.retireOutcome r = .added → s.items.length < 96) → StoreMove s (s.retireEffect r)
  | defined (x : Session) (k : Nat) (pts : List Point) : s.session = some x → k < 32 → (s.slot k).state = .free →
      s.items.length < 96 → StoreMove s
        ((s.putSlot k { s.slot k with state := .pending, points := some pts }).putItems (s.items ++ [.defineProfile k]))
  | redefined (k : Nat) (pts : List Point) : (s.slot k).state = .pending →
      StoreMove s (s.putSlot k { s.slot k with points := some pts })
  | droppedPending (x : Session) (k : Nat) : s.session = some x → (s.slot k).state = .pending → StoreMove s
      ((s.putSlot k Slot.free).putItems (s.items.filter (fun i => decide (i ≠ .defineProfile k))))
  | droppedActive (k : Nat) : (s.slot k).state = .active → StoreMove s (s.putSlot k Slot.free)
  | sealed (pol : Policy) : s.staged = none → StoreMove s (s.sealSession pol)
  | abandoned : StoreMove s s.abandonSession
  | switched (trig : Trigger) (st : StagedSet) : s.staged = some st → StoreMove s (s.switchSet trig st)
  | withdrawn (st : StagedSet) : s.staged = some st → s.session = none → StoreMove s (s.withdrawSet st)
  | cleared : s.session = none → StoreMove s s.clearStores
  | emptied : s.Loading → StoreMove s s.emptyStores
  | slotsFreed : s.Loading → StoreMove s (s.setSlots [])
  | profileLoaded (k e : Nat) (pts : List Point) : s.Loading → k < 32 → (s.slot k).state = .free → StoreMove s
      (s.putSlot k { state := .active, activated := some e, points := some pts, refCount := 0, readerCount := 0 })
  | recordLoaded (r c e : Nat) (sp : Span) (b : Body) : s.Loading → s.RecordFits r sp b → s.lowestFreeCopy = some c →
      StoreMove s ((s.claimRow r sp (Row.loaded sp e c)).allocCopy c (Copy.loaded r e b))

/-- A chain of moves. -/
def StoreMoves : State → State → Prop := Relation.ReflTransGen StoreMove

namespace StoreMoves

variable {s t u : State}

theorem refl (s : State) : StoreMoves s s := Relation.ReflTransGen.refl

theorem single (h : StoreMove s t) : StoreMoves s t := Relation.ReflTransGen.single h

theorem trans (h : StoreMoves s t) (k : StoreMoves t u) : StoreMoves s u := Relation.ReflTransGen.trans h k

end StoreMoves

/-! ### Quiet moves -/

namespace State.Quiet

variable {s t u : State}

theorem trans (h : s.Quiet t) (k : t.Quiet u) : s.Quiet u where
  rows := k.rows.trans h.rows
  index := k.index.trans h.index
  copies := k.copies.trans h.copies
  freeCount := k.freeCount.trans h.freeCount
  superseded := k.superseded.trans h.superseded
  slots := k.slots.trans h.slots
  items := k.items.trans h.items
  stagedItems := k.stagedItems.trans h.stagedItems
  epoch := h.epoch.trans k.epoch

theorem moves (h : s.Quiet t) : StoreMoves s t := .single (.quiet h)

/-- Session and staged set the same too. -/
theorem of_same (hr : t.rows = s.rows) (hi : t.spanIndex = s.spanIndex) (hc : t.copies = s.copies) (hf : t.freeCount = s.freeCount)
    (hs : t.superseded = s.superseded) (hk : t.slots = s.slots) (hse : t.session = s.session) (hst : t.staged = s.staged)
    (he : s.epoch ≤ t.epoch) : s.Quiet t :=
  ⟨hr, hi, hc, hf, hs, hk, by simp only [State.items, hse], by simp only [State.stagedItems, hst], he⟩

theorem refl (s : State) : s.Quiet s := ⟨rfl, rfl, rfl, rfl, rfl, rfl, rfl, rfl, le_refl _⟩

theorem putLink (s : State) (n : Nat) (l : Link) : s.Quiet (s.putLink n l) := ⟨rfl, rfl, rfl, rfl, rfl, rfl, rfl, rfl, le_refl _⟩

theorem putPort (s : State) (p : Port) (x : PortState) : s.Quiet (s.putPort p x) := by
  cases p <;> exact ⟨rfl, rfl, rfl, rfl, rfl, rfl, rfl, rfl, le_refl _⟩

theorem putMask (s : State) (p : Port) (m : BitVec 12) : s.Quiet (s.putMask p m) := by
  cases p <;> exact ⟨rfl, rfl, rfl, rfl, rfl, rfl, rfl, rfl, le_refl _⟩

theorem setEventSet (s : State) (x : EventSet) : s.Quiet (s.setEventSet x) := ⟨rfl, rfl, rfl, rfl, rfl, rfl, rfl, rfl, le_refl _⟩

theorem raise (s : State) (o : Occurrence) : s.Quiet (s.raise o) := ⟨rfl, rfl, rfl, rfl, rfl, rfl, rfl, rfl, le_refl _⟩

theorem setEngine (s : State) (k : Nat) : s.Quiet (s.setEngine k) := ⟨rfl, rfl, rfl, rfl, rfl, rfl, rfl, rfl, le_refl _⟩

theorem setPending (s : State) (cs : List Instr) : s.Quiet (s.setPending cs) := ⟨rfl, rfl, rfl, rfl, rfl, rfl, rfl, rfl, le_refl _⟩

theorem setLinks (s : State) (ls : Table Link) : s.Quiet (s.setLinks ls) := ⟨rfl, rfl, rfl, rfl, rfl, rfl, rfl, rfl, le_refl _⟩

theorem setMarkerCount (s : State) (m : Nat) : s.Quiet (s.setMarkerCount m) := ⟨rfl, rfl, rfl, rfl, rfl, rfl, rfl, rfl, le_refl _⟩

theorem setSnap (s : State) (x : Snapshot) : s.Quiet (s.setSnap x) := ⟨rfl, rfl, rfl, rfl, rfl, rfl, rfl, rfl, le_refl _⟩

theorem setFlash (s : State) (f : Flash) : s.Quiet (s.setFlash f) := ⟨rfl, rfl, rfl, rfl, rfl, rfl, rfl, rfl, le_refl _⟩

theorem setOpState (s : State) (o : OpState) : s.Quiet (s.setOpState o) := ⟨rfl, rfl, rfl, rfl, rfl, rfl, rfl, rfl, le_refl _⟩

theorem setParams (s : State) (x : Params) : s.Quiet (s.setParams x) := ⟨rfl, rfl, rfl, rfl, rfl, rfl, rfl, rfl, le_refl _⟩

/-- The open session's owner and timer are no part of the stores. -/
theorem setSession {x : Session} (hx : s.session = some x) {y : Session} (hy : y.items = x.items) : s.Quiet (s.setSession (some y)) :=
  ⟨rfl, rfl, rfl, rfl, rfl, rfl, hy.trans (items_eq hx).symm, rfl, le_refl _⟩

theorem restartTimer (s : State) (p : Port) : s.Quiet (s.restartTimer p) := by
  unfold State.restartTimer
  split
  · exact refl s
  next x hx =>
    split
    · exact setSession hx rfl
    · exact refl s

theorem kick (n : Nat) (s : State) : s.Quiet (s.kick n) := by
  unfold State.kick
  split
  · split
    · exact putLink s n _
    · exact refl s
  · exact refl s

/-- Quiet operations one after the other. -/
theorem forEach {f : Nat → State → State} (hf : ∀ n u, State.Quiet u (f n u)) (l : List Nat) (s : State) : s.Quiet (State.forEach f l s) := by
  induction l generalizing s with
  | nil => exact refl s
  | cons n l ih => exact (hf n s).trans (ih _)

theorem kickAll (s : State) : s.Quiet s.kickAll := forEach State.Quiet.kick allLinks s

theorem frameEnds (n : Nat) (s : State) : s.Quiet (s.frameEnds n) := (putLink s n _).trans (kick n _)

theorem checkArm (s : State) : s.Quiet s.checkArm := by
  unfold State.checkArm
  split
  · exact ⟨rfl, rfl, rfl, rfl, rfl, rfl, rfl, rfl, le_refl _⟩
  · exact refl s

end State.Quiet

end Sys2Proof.Machine
end

section
/-! PROOF. The stores' condition at quiet moves and at releases of pins and readers (O57). -/

namespace Sys2Proof.Machine

variable {s t : State}

/-! ### Items and slots that stay -/

/-- Rows that keep what the items say of them. -/
theorem RowItems.same {row row' : Nat → Row} {items staged : List ChangeItem} (h : RowItems row items staged)
    (hp : ∀ r, (row' r).phase = (row r).phase ∧ (row' r).draft = (row r).draft ∧ (row' r).staged = (row r).staged ∨
      (row r).phase = .dead ∧ (row r).draft = none ∧ row' r = Row.free) : RowItems row' items staged where
  inserts r := by
    rw [h.inserts]
    obtain ⟨hp, -⟩ | ⟨hd, -, hf⟩ := hp r
    · rw [hp]
    · simp [hd, hf, Row.free]
  amends r := by
    rw [h.amends]
    obtain ⟨hp, hdr, -⟩ | ⟨hd, hn, hf⟩ := hp r
    · rw [hp, hdr]
    · simp [hn, hf, Row.free]
  retires r hr := by
    obtain ⟨hp, -⟩ | ⟨hd, -, -⟩ := hp r
    · rw [hp]; exact h.retires r hr
    · obtain hl | hl := h.retires r hr <;> rw [hd] at hl <;> cases hl
  stagedInserts r := by
    rw [h.stagedInserts]
    obtain ⟨hp, -⟩ | ⟨hd, -, hf⟩ := hp r
    · rw [hp]
    · simp [hd, hf, Row.free]
  stagedAmends r := by
    rw [h.stagedAmends]
    obtain ⟨hp, -, hst⟩ | ⟨hd, -, hf⟩ := hp r
    · rw [hp, hst]
    · simp [hd, hf, Row.free]
  stagedRetires r := by
    rw [h.stagedRetires]
    obtain ⟨hp, -⟩ | ⟨hd, -, hf⟩ := hp r
    · rw [hp]
    · simp [hd, hf, Row.free]

theorem slot_shaped_of_same {x y : Slot} (h : x.shaped) (hs : y.state = x.state ∧ y.activated = x.activated ∧ y.points = x.points)
    (hf : x = Slot.free → y = Slot.free) : y.shaped := by
  obtain ⟨h1, h2, h3⟩ := hs
  unfold Slot.shaped at h ⊢
  rw [h1, h2, h3]
  cases hx : x.state <;> rw [hx] at h
  · exact hf h
  all_goals exact h

/-- Slots that keep all but their counts. -/
theorem SlotItems.same {slot slot' : Nat → Slot} {items staged : List ChangeItem} (h : SlotItems slot items staged)
    (hs : ∀ k, (slot' k).state = (slot k).state ∧ (slot' k).activated = (slot k).activated ∧ (slot' k).points = (slot k).points)
    (hf : ∀ k, slot k = Slot.free → slot' k = Slot.free) : SlotItems slot' items staged where
  bound k hk := h.bound k ((hs k).1 ▸ hk)
  slots k := slot_shaped_of_same (h.slots k) (hs k) (hf k)
  defines k := by rw [(hs k).1]; exact h.defines k
  stagedDefines k := by rw [(hs k).1]; exact h.stagedDefines k

/-! ### Quiet moves -/

theorem State.Quiet.storesKept (h : s.Quiet t) (hs : s.StoresKept) : t.StoresKept :=
  hs.of_same h.rows h.copies h.slots h.superseded h.freeCount h.index h.items h.stagedItems h.epoch

/-! ### Releases (R18, R36 to R38, R53) -/

/-- What a DEAD row's fields say (R2). -/
theorem Row.shaped_dead {x : Row} (h : x.shaped) (hp : x.phase = .dead) :
    x.live = none ∧ x.staged = none ∧ x.draft = none ∧ x.watch = [] := by
  simp only [Row.shaped, hp] at h
  obtain ⟨-, -, -, hl, hs, hd, hw⟩ := h
  exact ⟨hl, hs, hd, hw⟩

theorem Row.names_dead {x : Row} (h : x.shaped) (hp : x.phase = .dead) (st : CopyState) : x.names st = none := by
  obtain ⟨hl, hs, hd, -⟩ := Row.shaped_dead h hp
  cases st <;> simp [Row.names, hl, hs, hd]

theorem Row.names_free (st : CopyState) : Row.free.names st = none := by cases st <;> rfl

/-- A row after releases: gone with its last copy, or as it was. -/
theorem State.Settled.row_cases {f : Nat → Bool} (h : s.Settled t f) (r : Nat) :
    ((s.row r).phase = .dead ∧ (∀ c, (t.copy c).owner ≠ some r) ∧ t.row r = Row.free ∧ ∀ it ∈ t.spanIndex, it.row ≠ r) ∨
    (t.row r = s.row r ∧ (∀ it, it.row = r → (it ∈ t.spanIndex ↔ it ∈ s.spanIndex)) ∧
      ((s.row r).phase = .dead → (∃ c, (s.copy c).owner = some r) → ∃ c, (s.copy c).owner = some r ∧ f c = false)) := by
  by_cases hc : (s.row r).phase = .dead ∧ (∃ c, f c = true ∧ (s.copy c).owner = some r) ∧ ∀ c, (t.copy c).owner ≠ some r
  · obtain ⟨hrow, hidx⟩ := (h.rows r).1 hc
    exact .inl ⟨hc.1, hc.2.2, hrow, hidx⟩
  · obtain ⟨hrow, hidx⟩ := (h.rows r).2 hc
    refine .inr ⟨hrow, hidx, fun hd ⟨c, ho⟩ => ?_⟩
    by_cases hleft : ∃ c, (t.copy c).owner = some r
    · obtain ⟨d, hd'⟩ := hleft
      obtain ⟨hf, ho'⟩ := h.owner_of_owned hd'
      exact ⟨d, ho', hf⟩
    · refine ⟨c, ho, Bool.eq_false_iff.2 fun hf => hc ⟨hd, ⟨c, hf, ho⟩, fun d hd' => hleft ⟨d, hd'⟩⟩⟩

/-- Releases keep the stores' condition, as long as the copies left keep their form. -/
theorem State.Settled.parts {f : Nat → Bool} (h : s.Settled t f) (hs : s.StoresParts) (hwf : t.TablesWf)
    (hshaped : ∀ c, f c = false → (t.copy c).shaped) (hidx : t.spanIndex.Sublist s.spanIndex)
    (hread : ∀ k, (t.slot k).readerCount ≤ (s.slot k).readerCount) : t.StoresParts := by
  have hrows := hs.owners.rows
  have hitems : t.items = s.items := by simp only [State.items, h.outside.session]
  have hstaged : t.stagedItems = s.stagedItems := by simp only [State.stagedItems, h.outside.staged]
  obtain ⟨cs, hn, hmem, hfree, href⟩ := h.counted
  refine ⟨hwf, ?_, ?_, ?_, ?_, ?_, hitems ▸ hs.once, hstaged ▸ hs.stagedOnce⟩
  · refine hs.owners.free (fun c => f c = true) (fun c hc => (h.gone c hc).2) (fun c hc => ?_) (fun r => ?_) (fun r st c => ?_)
      (fun c r hc ho _ hout => ?_) fun r hp => ?_
    · have hcf := Bool.eq_false_iff.2 hc
      exact ⟨by rw [h.kept c hcf], by rw [h.kept c hcf], hshaped c hcf⟩
    · obtain ⟨-, -, hrow, -⟩ | ⟨hrow, -⟩ := h.row_cases r
      · rw [hrow]; rfl
      · rw [hrow]; exact hrows r
    · obtain ⟨hd, -, hrow, -⟩ | ⟨hrow, -⟩ := h.row_cases r
      · simp [hrow, Row.names_free, Row.names_dead (hrows r) hd]
      · rw [hrow, iff_self_and]
        intro hn hf
        have hst := (hs.owners.names r st c hn).1
        rw [(h.gone c hf).1] at hst
        subst hst
        cases hn
    · obtain ⟨-, hnone, -⟩ | ⟨hrow, -⟩ := h.row_cases r
      · exact absurd ((h.owner_of_kept (Bool.eq_false_iff.2 hc)).trans ho) (hnone c)
      · rw [hrow]; exact hout
    · obtain ⟨-, -, hrow, -⟩ | ⟨hrow, -, hleft⟩ := h.row_cases r
      · rw [hrow] at hp; cases hp
      · rw [hrow] at hp ⊢
        obtain ⟨howned, hdies⟩ := hs.owners.dead r hp
        obtain ⟨c, ho, hf⟩ := hleft hp howned
        exact ⟨⟨c, ho, Bool.eq_false_iff.1 hf⟩, h.outside.epoch ▸ hdies⟩
  · have hlist : t.superseded = s.superseded.filter (fun c => decide (c ∉ cs)) := by
      rw [h.list]
      exact List.filter_congr fun c _ => by rw [Bool.eq_iff_iff, Bool.not_eq_true', decide_eq_true_eq, hmem, Bool.not_eq_true]
    rw [hlist, hfree]
    refine hs.pool.frees hn (fun c hc => ?_) (fun c hc => ?_) fun c hc => ?_
    · rw [(h.gone c ((hmem c).1 hc)).1]; exact fun hx => nomatch hx
    · rw [(h.gone c ((hmem c).1 hc)).2]; rfl
    · rw [h.kept c (Bool.eq_false_iff.2 fun hf => hc ((hmem c).2 hf))]
  · refine ⟨fun r hr => ?_, hs.index.sorted.sublist hidx, fun it => ?_⟩
    · obtain ⟨-, -, hrow, -⟩ | ⟨hrow, -⟩ := h.row_cases r
      · rw [hrow] at hr; exact absurd rfl hr
      · exact hs.index.bound r (hrow ▸ hr)
    · obtain ⟨-, -, hrow, hgone⟩ | ⟨hrow, hstay, -⟩ := h.row_cases it.row
      · simp only [hrow, Row.free]
        exact ⟨fun hit => absurd rfl (hgone it hit), fun ⟨_, hsp, _⟩ => nomatch hsp⟩
      · rw [hstay it rfl, hrow]
        exact hs.index.mem it
  · rw [hitems, hstaged]
    refine hs.rowItems.same fun r => ?_
    obtain ⟨hd, -, hrow, -⟩ | ⟨hrow, -⟩ := h.row_cases r
    · exact .inr ⟨hd, (Row.shaped_dead (hrows r) hd).2.2.1, hrow⟩
    · exact .inl (by rw [hrow]; exact ⟨rfl, rfl, rfl⟩)
  · rw [hitems, hstaged]
    refine hs.slotItems.same (fun k => by rw [h.slots k]; exact ⟨rfl, rfl, rfl⟩) fun k hk => ?_
    have hr := hread k
    have hc := href k
    rw [hk] at hr hc
    rw [h.slots k, hk, Nat.le_zero.1 hr, hc]
    simp [Slot.free]

theorem spanIndex_reapRow (r : Nat) (s : State) : (s.reapRow r).spanIndex.Sublist s.spanIndex := by
  rw [reapRow_eq]
  split
  · rw [freeRow_spanIndex]; exact List.filter_sublist
  · exact .refl _

theorem spanIndex_settleCopy (c : Nat) (s : State) : (s.settleCopy c).spanIndex.Sublist s.spanIndex := by
  cases h : (s.copy c).leftOver with
  | false => rw [settleCopy_kept h]
  | true =>
    rw [settleCopy_freed h]
    cases (s.copy c).owner with
    | none => simp
    | some r => exact (spanIndex_reapRow r _).trans (by simp)

/-- A copy's form after it lost pins, unless it is left over (R28, R38). -/
theorem Copy.shaped_of_pins {x : Copy} {p : Nat} {b : Bool} (h : x.shaped) (hp : p ≤ x.fetchPins) (hb : b = true → x.snapPin = true)
    (hl : ({ x with fetchPins := p, snapPin := b } : Copy).leftOver = false) : ({ x with fetchPins := p, snapPin := b } : Copy).shaped := by
  have hun : x.unpinned = true → p = 0 ∧ b = false := fun hu => by
    simp only [Copy.unpinned, Bool.and_eq_true, decide_eq_true_eq, Bool.not_eq_true'] at hu
    refine ⟨by omega, Bool.eq_false_iff.2 fun hbt => ?_⟩
    have := hb hbt
    simp [hu.2] at this
  unfold Copy.shaped at h ⊢
  cases hst : x.state <;> simp only [hst] at h ⊢
  case free =>
    obtain ⟨hp0, hb0⟩ := hun (by rw [h]; rfl)
    rw [h, hp0, hb0]
    rfl
  case draft =>
    obtain ⟨ho, ha, hs, hu, hbd⟩ := h
    obtain ⟨rfl, rfl⟩ := hun hu
    exact ⟨ho, ha, hs, rfl, hbd⟩
  case staged =>
    obtain ⟨ho, hbase, ha, hs, hu, hbd⟩ := h
    obtain ⟨rfl, rfl⟩ := hun hu
    exact ⟨ho, hbase, ha, hs, rfl, hbd⟩
  case live => exact h
  case superseded =>
    obtain ⟨ho, hbase, ha, hs, hbd, -⟩ := h
    refine ⟨ho, hbase, ha, hs, hbd, ?_⟩
    simpa [Copy.leftOver, hst] using hl

theorem storesKept_dropFetchPin (hs : s.StoresKept) (c : Nat) : (s.dropFetchPin c).StoresKept := by
  have h := settled_dropFetchPin s c
  refine (h.parts hs.parts (hs.parts.tables.dropFetchPin c) (fun d hd => ?_) (spanIndex_settleCopy c _)
    fun k => le_of_eq (dropFetchPin_readerCount s c k)).kept
  rw [dropFetchPin_copy]
  by_cases hdc : d = c
  · subst hdc
    have hl : (s.copy d).lastPins 1 = false := by simpa using hd
    rw [if_pos rfl, hl, if_neg (by decide)]
    exact Copy.shaped_of_pins (b := (s.copy d).snapPin) (hs.copies d) (Nat.sub_le _ 1) id ((leftOver_dropPin _).trans hl)
  · rw [if_neg hdc]
    exact hs.copies d

theorem storesKept_clearSnapPin (hs : s.StoresKept) (c : Nat) : (s.clearSnapPin c).StoresKept := by
  have h := settled_clearSnapPin s c
  refine (h.parts hs.parts (hs.parts.tables.clearSnapPin c) (fun d hd => ?_) ?_
    fun k => le_of_eq (clearSnapPins_readerCount [c] s k)).kept
  · rw [clearSnapPin_copy]
    by_cases hdc : d = c
    · subst hdc
      have hl : (s.copy d).lastSnapPin = false := by simpa using hd
      rw [if_pos rfl, hl, if_neg (by decide)]
      cases hp : (s.copy d).snapPin with
      | true =>
        exact Copy.shaped_of_pins (p := (s.copy d).fetchPins) (hs.copies d) (Nat.le_refl _) (fun hb => nomatch hb)
          ((leftOver_clearPin _ hp).trans hl)
      | false => exact hp ▸ hs.copies d
    · rw [if_neg hdc]
      exact hs.copies d
  · rw [State.clearSnapPin]
    split
    · exact spanIndex_settleCopy c _
    · exact .refl _

theorem storesKept_dropReader (hs : s.StoresKept) (k : Nat) : (s.dropReader k).StoresKept := by
  refine ((settled_dropReader s k).parts hs.parts (hs.parts.tables.putSlot k _) (fun c _ => hs.copies c) (.refl _) fun j => ?_).kept
  rw [dropReader_readerCount]
  exact Nat.sub_le _ _

theorem storesKept_releaseRequest (hs : s.StoresKept) (q : Request) : (s.releaseRequest q).StoresKept := by
  unfold State.releaseRequest
  dsimp only
  cases q.boundCopy with
  | none => cases q.boundSlot with
    | none => exact hs
    | some k => exact storesKept_dropReader hs k
  | some c => cases q.boundSlot with
    | none => exact storesKept_dropFetchPin hs c
    | some k => exact storesKept_dropReader (storesKept_dropFetchPin hs c) k

theorem storesKept_releaseRequests (hs : s.StoresKept) (qs : List Request) : (State.releaseRequests qs s).StoresKept := by
  induction qs generalizing s with
  | nil => exact hs
  | cons q qs ih => exact ih (storesKept_releaseRequest hs q)

/-- A link controller is no part of the stores' condition. -/
theorem storesKept_putLink (hs : s.StoresKept) (n : Nat) (l : Link) : (s.putLink n l).StoresKept :=
  hs.of_same rfl rfl rfl rfl rfl rfl rfl rfl Nat.le.refl

theorem storesKept_completeRequest (hs : s.StoresKept) (n : Nat) : (s.completeRequest n).StoresKept := by
  unfold State.completeRequest
  split
  · exact storesKept_releaseRequest (storesKept_putLink hs n _) _
  · exact hs

/-! ### Watch sets (R20, R21) -/

/-- A row's form does not depend on who watches it, while a row that none may watch is watched by none. -/
theorem Row.shaped_of_watch {x : Row} {w : List Nat} (h : x.shaped) (hw : x.watch = [] → x.phase ≠ .live → x.phase ≠ .dying → w = []) :
    ({ x with watch := w } : Row).shaped := by
  unfold Row.shaped at h ⊢
  cases hp : x.phase <;> simp only [hp] at h ⊢
  case free =>
    rw [hw (by rw [h]; rfl) (by simp [hp]) (by simp [hp]), h]
    rfl
  case live | dying => exact h
  case newDraft =>
    obtain ⟨h1, h2, h3, h4, h5, h6, h7⟩ := h
    exact ⟨h1, h2, h3, h4, h5, h6, hw h7 (by simp [hp]) (by simp [hp])⟩
  case newStaged =>
    obtain ⟨h1, h2, h3, h4, h5, h6⟩ := h
    exact ⟨h1, h2, h3, h4, h5, hw h6 (by simp [hp]) (by simp [hp])⟩
  case dead =>
    obtain ⟨h1, h2, h3, h4, h5, h6, h7⟩ := h
    exact ⟨h1, h2, h3, h4, h5, h6, hw h7 (by simp [hp]) (by simp [hp])⟩

/-- From `s` to `t` the watch sets, the links and the counts of slots and copies' pins changed, and nothing else of the stores. -/
theorem storesKept_of_watch (hs : s.StoresKept) (hwf : t.TablesWf)
    (hrow : ∀ r, ∃ w, t.row r = { s.row r with watch := w } ∧
      ((s.row r).watch = [] → (s.row r).phase ≠ .live → (s.row r).phase ≠ .dying → w = []))
    (hc : t.copies = s.copies) (hk : t.slots = s.slots) (hsup : t.superseded = s.superseded) (hf : t.freeCount = s.freeCount)
    (hi : t.spanIndex = s.spanIndex) (hit : t.items = s.items) (hst : t.stagedItems = s.stagedItems) (he : t.epoch = s.epoch) :
    t.StoresKept := by
  have h := hs.parts
  have hcopy : t.copy = s.copy := by funext c; simp only [State.copy, hc]
  have hslot : t.slot = s.slot := by funext k; simp only [State.slot, hk]
  have hfields (r : Nat) : (t.row r).shaped ∧ (t.row r).phase = (s.row r).phase ∧ (t.row r).dies = (s.row r).dies ∧
      (t.row r).names = (s.row r).names ∧ (t.row r).span = (s.row r).span ∧ (t.row r).draft = (s.row r).draft ∧
      (t.row r).staged = (s.row r).staged := by
    obtain ⟨w, hw, hno⟩ := hrow r
    rw [hw]
    exact ⟨Row.shaped_of_watch (hs.rows r) hno, rfl, rfl, by funext st; cases st <;> rfl, rfl, rfl, rfl⟩
  refine State.StoresParts.kept ⟨hwf, ?_, ?_, ?_, ?_, ?_, hit ▸ h.once, hst ▸ h.stagedOnce⟩
  · rw [hcopy, he]
    exact h.owners.same Nat.le.refl (fun c => ⟨rfl, rfl, hs.copies c⟩) fun r =>
      ⟨(hfields r).1, (hfields r).2.1, (hfields r).2.2.1, (hfields r).2.2.2.1⟩
  · rw [hcopy, hsup, hf]; exact h.pool
  · rw [hi]
    exact h.index.same (fun r => (hfields r).2.2.2.2.1) fun r hr => (hfields r).2.1 ▸ hr
  · rw [hit, hst]
    exact h.rowItems.same fun r => .inl ⟨(hfields r).2.1, (hfields r).2.2.2.2.2.1, (hfields r).2.2.2.2.2.2⟩
  · rw [hslot, hit, hst]; exact h.slotItems

theorem storesKept_leaveWatchSets (hs : s.StoresKept) (n : Nat) : (s.leaveWatchSets n).StoresKept :=
  storesKept_of_watch hs (hs.parts.tables.leaveWatchSets hs.rows n)
    (fun r => ⟨_, leaveWatchSets_row n s r, fun hw _ _ => by rw [hw]; rfl⟩) rfl rfl rfl rfl rfl rfl rfl rfl

theorem storesKept_resetLink (hs : s.StoresKept) (n : Nat) : (s.resetLink n).StoresKept :=
  storesKept_putLink (storesKept_releaseRequests (storesKept_leaveWatchSets hs n) _) n _

theorem storesKept_addWatch (hs : s.StoresKept) {n r : Nat} (hp : (s.row r).phase = .live ∨ (s.row r).phase = .dying) :
    (s.addWatch n r).StoresKept := by
  unfold State.addWatch
  split
  · exact hs
  · refine storesKept_putLink ?_ n _
    refine storesKept_of_watch hs (hs.parts.tables.putRow r _) (fun q => ?_) rfl rfl rfl rfl rfl rfl rfl rfl
    by_cases hq : q = r
    · subst hq
      refine ⟨watchAdd n (s.row q).watch, by simp, fun _ hl hd => ?_⟩
      exact hp.elim (fun h => absurd h hl) (fun h => absurd h hd)
    · exact ⟨(s.row q).watch, by simp [hq], fun hw _ _ => hw⟩

theorem storesKept_removeWatch (hs : s.StoresKept) (n r : Nat) : (s.removeWatch n r).StoresKept := by
  unfold State.removeWatch
  split
  · refine storesKept_putLink ?_ n _
    refine storesKept_of_watch hs (hs.parts.tables.putRow r _) (fun q => ?_) rfl rfl rfl rfl rfl rfl rfl rfl
    by_cases hq : q = r
    · subst hq
      exact ⟨_, by simp; rfl, fun hw _ _ => by rw [hw]; rfl⟩
    · exact ⟨(s.row q).watch, by simp [hq], fun hw _ _ => hw⟩
  · exact hs

/-! ### Holds placed (R36, R37, R53) -/

theorem storesKept_putCopy_pins (hs : s.StoresKept) {c : Nat} (hl : (s.copy c).state = .live) (p : Nat) (b : Bool) :
    (s.putCopy c { s.copy c with fetchPins := p, snapPin := b }).StoresKept := by
  have h := hs.parts
  have hcopy (d : Nat) : ((s.putCopy c { s.copy c with fetchPins := p, snapPin := b }).copy d).state = (s.copy d).state ∧
      ((s.putCopy c { s.copy c with fetchPins := p, snapPin := b }).copy d).owner = (s.copy d).owner ∧
      ((s.putCopy c { s.copy c with fetchPins := p, snapPin := b }).copy d).shaped := by
    by_cases hd : d = c
    · subst hd
      rw [State.copy_putCopy, if_pos rfl]
      refine ⟨rfl, rfl, ?_⟩
      have hsh := hs.copies d
      unfold Copy.shaped at hsh ⊢
      simpa only [hl] using hsh
    · rw [State.copy_putCopy, if_neg hd]
      exact ⟨rfl, rfl, hs.copies d⟩
  refine State.StoresParts.kept ⟨h.tables.putCopy c _, ?_, ?_, h.index, h.rowItems, h.slotItems, h.once, h.stagedOnce⟩
  · exact h.owners.same Nat.le.refl hcopy fun r => ⟨hs.rows r, rfl, rfl, rfl⟩
  · exact h.pool.same (fun d => by rw [(hcopy d).1]) fun d => by rw [(hcopy d).1]

theorem storesKept_putSlot_same (hs : s.StoresKept) {k : Nat} {y : Slot} (hy : y.state = (s.slot k).state ∧
    y.activated = (s.slot k).activated ∧ y.points = (s.slot k).points) (hf : (s.slot k).state ≠ .free) : (s.putSlot k y).StoresKept := by
  have h := hs.parts
  refine State.StoresParts.kept ⟨h.tables.putSlot k _, h.owners, h.pool, h.index, h.rowItems, ?_, h.once, h.stagedOnce⟩
  refine h.slotItems.same (fun j => ?_) fun j hj => ?_
  · by_cases hjk : j = k
    · subst hjk; simpa using hy
    · simp [hjk]
  · by_cases hjk : j = k
    · subst hjk; exact absurd (congrArg Slot.state hj) hf
    · simpa [hjk] using hj

theorem storesKept_placeHolds (hs : s.StoresKept) {d : Decision} (hd : s.Holdable d) : (s.placeHolds d).StoresKept := by
  have hcopy : (match d.copy with | some c => s.addFetchPin c | none => s).StoresKept := by
    cases hc : d.copy with
    | none => exact hs
    | some c => exact storesKept_putCopy_pins (b := (s.copy c).snapPin) hs (hd.copy c hc) _
  have hslot : ∀ k, d.slot = some k → ((match d.copy with | some c => s.addFetchPin c | none => s).slot k).state ≠ .free := by
    intro k hk
    have h := hd.slot k hk
    cases d.copy <;> exact fun hf => nomatch h.symm.trans hf
  unfold State.placeHolds
  dsimp only
  cases hk : d.slot with
  | none => exact hcopy
  | some k => exact storesKept_putSlot_same hcopy ⟨rfl, rfl, rfl⟩ (hslot k hk)

end Sys2Proof.Machine
end

section
/-! PROOF. The stores' condition at the edit commands: INSERT, AMEND, RETIRE, DEFINE_PROFILE, DROP_PROFILE (O57). -/

namespace Sys2Proof.Machine

variable {row row' : Nat → Row} {slot slot' : Nat → Slot} {items items' staged : List ChangeItem} {s t : State} {x : Session}

/-! ### Items that join, leave or change -/

theorem ItemsOnce.append (h : ItemsOnce items) {i : ChangeItem} (hroom : items.length < 96) (hi : i ∉ items)
    (hr : ∀ r, i.row? = some r → r ∉ rowsNamed items) : ItemsOnce (items ++ [i]) where
  room := by rw [List.length_append]; exact hroom
  rows := by
    rw [rowsNamed, List.filterMap_append]
    refine List.nodup_append.2 ⟨h.rows, ?_, ?_⟩
    · cases hir : i.row? <;> simp [hir]
    · rintro a ha b hb rfl
      cases hir : i.row? with
      | none => simp [hir] at hb
      | some r =>
        simp only [List.filterMap_cons, hir, List.filterMap_nil, List.mem_singleton] at hb
        exact hr r hir (hb ▸ ha)
  items := List.nodup_append.2 ⟨h.items, List.nodup_singleton i, by
    rintro a ha b hb rfl
    rw [List.mem_singleton] at hb
    exact hi (hb ▸ ha)⟩

theorem ItemsOnce.filter (h : ItemsOnce items) (p : ChangeItem → Bool) : ItemsOnce (items.filter p) where
  room := (List.length_filter_le _ _).trans h.room
  rows := h.rows.sublist (List.Sublist.filterMap _ List.filter_sublist)
  items := h.items.filter _

/-- An AMEND item becomes the RETIRE item of its row where it stands (R70). -/
theorem ItemsOnce.retired (h : ItemsOnce items) {r : Nat} (hr : .retire r ∉ items) :
    ItemsOnce (items.map (fun i => if i = .amend r then .retire r else i)) where
  room := by rw [List.length_map]; exact h.room
  rows := by
    have : rowsNamed (items.map (fun i => if i = .amend r then .retire r else i)) = rowsNamed items := by
      rw [rowsNamed, List.filterMap_map]
      refine List.filterMap_congr fun i _ => ?_
      rw [Function.comp_apply]
      split
      next hi => rw [hi]; rfl
      next => rfl
    rw [this]
    exact h.rows
  items := by
    refine h.items.map_on fun i hi j hj hij => ?_
    split at hij <;> split at hij
    next hi' hj' => rw [hi', hj']
    next => exact absurd (hij ▸ hj) hr
    next => exact absurd (hij ▸ hi) hr
    next => exact hij

/-- One row, and the items of the session that name it, change. -/
theorem RowItems.update (h : RowItems row items staged) {r : Nat} (hrow : ∀ q, q ≠ r → row' q = row q)
    (hitems : ∀ i q, q ≠ r → i.row? = some q → (i ∈ items' ↔ i ∈ items))
    (hins : .insert r ∈ items' ↔ (row' r).phase = .newDraft)
    (ham : .amend r ∈ items' ↔ (row' r).phase ≠ .newDraft ∧ (row' r).draft.isSome = true)
    (hret : .retire r ∈ items' → (row' r).phase = .live ∨ (row' r).phase = .newStaged)
    (hst : (row' r).staged = (row r).staged)
    (hph : (row' r).phase = (row r).phase ∨
      ((row r).phase = .free ∨ (row r).phase = .newDraft) ∧ ((row' r).phase = .free ∨ (row' r).phase = .newDraft)) :
    RowItems row' items' staged := by
  have hphase (p : Phase) (h1 : p ≠ .free) (h2 : p ≠ .newDraft) : (row' r).phase = p ↔ (row r).phase = p := by
    obtain hp | ⟨ha | ha, hb | hb⟩ := hph
    · rw [hp]
    all_goals simp [ha, hb, h1.symm, h2.symm]
  constructor
  case inserts =>
    intro q
    by_cases hq : q = r
    · exact hq ▸ hins
    · rw [hitems _ q hq rfl, hrow q hq]; exact h.inserts q
  case amends =>
    intro q
    by_cases hq : q = r
    · exact hq ▸ ham
    · rw [hitems _ q hq rfl, hrow q hq]; exact h.amends q
  case retires =>
    intro q
    by_cases hq : q = r
    · exact hq ▸ hret
    · rw [hitems _ q hq rfl, hrow q hq]; exact h.retires q
  case stagedInserts =>
    intro q
    rw [h.stagedInserts]
    by_cases hq : q = r
    · rw [hq, hphase .newStaged (by decide) (by decide)]
    · rw [hrow q hq]
  case stagedAmends =>
    intro q
    rw [h.stagedAmends]
    by_cases hq : q = r
    · rw [hq, hphase .live (by decide) (by decide), hst]
    · rw [hrow q hq]
  case stagedRetires =>
    intro q
    rw [h.stagedRetires]
    by_cases hq : q = r
    · rw [hq, hphase .dying (by decide) (by decide)]
    · rw [hrow q hq]

/-- Slots that keep all but their counts, under items that define the same slots. -/
theorem SlotItems.congr (h : SlotItems slot items staged)
    (hs : ∀ k, (slot' k).state = (slot k).state ∧ (slot' k).activated = (slot k).activated ∧ (slot' k).points = (slot k).points)
    (hf : ∀ k, slot k = Slot.free → slot' k = Slot.free) (hi : ∀ k, .defineProfile k ∈ items' ↔ .defineProfile k ∈ items) :
    SlotItems slot' items' staged :=
  ⟨(h.same hs hf).bound, (h.same hs hf).slots, fun k => (hi k).trans ((h.same hs hf).defines k), (h.same hs hf).stagedDefines⟩

/-- A copy is allocated whose body names no FREE slot (R25, R48). -/
theorem SlotItems.allocCopy {y : Copy} {c : Nat} (h : SlotItems s.slot items staged) (hu : s.profileUsable y.profile = true)
    (hi : ∀ k, .defineProfile k ∈ items' ↔ .defineProfile k ∈ items) : SlotItems (s.allocCopy c y).slot items' staged := by
  have hk (k : Nat) : (s.allocCopy c y).slot k = s.slot k ∨ (s.slot k).state ≠ .free ∧
      (s.allocCopy c y).slot k = { s.slot k with refCount := (s.slot k).refCount + 1 } := by
    rw [allocCopy_slot]
    split
    next hp =>
      rw [hp] at hu
      simp only [State.profileUsable, Bool.and_eq_true, decide_eq_true_eq] at hu
      exact .inr ⟨hu.2, rfl⟩
    next => exact .inl rfl
  refine h.congr (fun k => ?_) (fun k hf => ?_) hi
  · obtain hk | ⟨-, hk⟩ := hk k <;> rw [hk] <;> exact ⟨rfl, rfl, rfl⟩
  · obtain hk | ⟨hne, -⟩ := hk k
    · exact hk.trans hf
    · exact absurd (congrArg Slot.state hf) hne

/-- References given up. -/
theorem SlotItems.dropped {n : Nat → Nat} (h : SlotItems slot items staged)
    (hs : ∀ k, slot' k = { slot k with refCount := (slot k).refCount - n k })
    (hi : ∀ k, .defineProfile k ∈ items' ↔ .defineProfile k ∈ items) : SlotItems slot' items' staged := by
  refine h.congr (fun k => ?_) (fun k hf => ?_) hi
  · rw [hs k]; exact ⟨rfl, rfl, rfl⟩
  · rw [hs k, hf]; simp [Slot.free]

/-- The stores an edit command leaves, under the change set it leaves. -/
theorem State.StoresKept.edited (h : s.StoresKept) (hso : StoresOnly s t) {y : Option Session} {l : List ChangeItem}
    (hl : (t.setSession y).items = l) (tables : t.TablesWf) (owners : OwnersAgree t.row t.copy s.epoch)
    (pool : PoolCounted t.copy t.superseded t.freeCount) (index : RowsIndexed t.row t.spanIndex)
    (rowItems : RowItems t.row l s.stagedItems) (slotItems : SlotItems t.slot l s.stagedItems) (once : ItemsOnce l) :
    (t.setSession y).StoresKept := by
  have hst : (t.setSession y).stagedItems = s.stagedItems := by
    have : t.staged = s.staged := hso.staged
    simp only [State.stagedItems, State.setSession, this]
  have he : (t.setSession y).epoch = s.epoch := hso.epoch
  refine State.StoresParts.kept ⟨tables.of_same rfl rfl rfl, he ▸ owners, pool, index, ?_, ?_, ?_, ?_⟩
  · rw [hl, hst]; exact rowItems
  · rw [hl, hst]; exact slotItems
  · rw [hl]; exact once
  · rw [hst]; exact h.stagedOnce

/-! ### INSERT (R65) -/

theorem lowestFreeRow_some {r : Nat} (h : s.lowestFreeRow = some r) : r < 1024 ∧ (s.row r).phase = .free := by
  obtain ⟨-, hlt, hp, -⟩ := lowestFrom_eq_some_iff.1 h
  exact ⟨by simpa [Config.rows] using hlt, by simpa using hp⟩

theorem lowestFreeCopy_some {c : Nat} (h : s.lowestFreeCopy = some c) : c < 2560 ∧ (s.copy c).state = .free := by
  obtain ⟨-, hlt, hp, -⟩ := lowestFrom_eq_some_iff.1 h
  exact ⟨by simpa [Config.copies] using hlt, by simpa using hp⟩

/-- What an INSERT that is not refused has checked (R64). -/
theorem insertRefusal_eq_none {sp : Span} {b : Body} (h : s.insertRefusal sp b = none) : sp.valid = true ∧
    s.bodyValid sp.count b = true ∧ s.overlapFound s.items sp = false ∧ s.items.length < 96 := by
  unfold State.insertRefusal at h
  split at h
  · cases h
  split at h
  · cases h
  split at h
  · cases h
  split at h
  · cases h
  next h1 h2 h3 h4 => exact ⟨by simpa using h1, by simpa using h2, by simpa using h3, Nat.lt_of_not_le h4⟩

theorem bodyValid_usable {n : Nat} {b : Body} (h : s.bodyValid n b = true) : s.profileUsable b.profile = true := by
  simp only [State.bodyValid, Bool.and_eq_true] at h
  exact h.2

/-- An item names a row of the items' list. -/
theorem mem_rowsNamed_cases {r : Nat} (h : r ∈ rowsNamed items) : .insert r ∈ items ∨ .amend r ∈ items ∨ .retire r ∈ items := by
  obtain ⟨i, hi, hr⟩ := List.mem_filterMap.1 h
  obtain rfl | rfl | rfl := row?_eq_some.1 hr
  · exact .inl hi
  · exact .inr (.inl hi)
  · exact .inr (.inr hi)

theorem storesKept_insertRow (h : s.StoresKept) {sp : Span} {b : Body} {r c : Nat} (hx : s.session = some x)
    (hi : s.insertRefusal sp b = none) (hr : s.lowestFreeRow = some r) (hc : s.lowestFreeCopy = some c) :
    (s.insertRow r c sp b).StoresKept := by
  obtain ⟨hr1024, hrf⟩ := lowestFreeRow_some hr
  obtain ⟨hc2560, hcf⟩ := lowestFreeCopy_some hc
  obtain ⟨-, hb, -, hroom⟩ := insertRefusal_eq_none hi
  have hp := h.parts
  have hrow0 : s.row r = Row.free := Row.eq_free (h.rows r) hrf
  have hrow (q : Nat) : (s.insertStores r c sp b).row q = if q = r then Row.newDraft sp c else s.row q := by
    simp [State.insertStores]
  have hrows (q : Nat) (hq : q ≠ r) : (s.insertStores r c sp b).row q = s.row q := by rw [hrow, if_neg hq]
  have hrr : (s.insertStores r c sp b).row r = Row.newDraft sp c := by rw [hrow, if_pos rfl]
  have hcopies (d : Nat) (hd : d ≠ c) : (s.insertStores r c sp b).copy d = s.copy d := by
    simp [State.insertStores, allocCopy_copy, hd]
  have hcc : (s.insertStores r c sp b).copy c = Copy.newDraft r none b := by simp [State.insertStores, allocCopy_copy]
  have hitems : s.items = x.items := items_eq hx
  have hnot : r ∉ rowsNamed s.items := fun hin => by
    obtain hin | hin | hin := mem_rowsNamed_cases hin
    · exact nomatch hrf.symm.trans ((h.inserts r).1 hin)
    · have := ((h.amends r).1 hin).2
      rw [hrow0] at this
      cases this
    · obtain hl | hl := h.retires r hin <;> exact nomatch hrf.symm.trans hl
  have hnew (i : ChangeItem) (hir : i.row? = some r) : i ∉ s.items := fun hin => hnot (List.mem_filterMap.2 ⟨i, hin, hir⟩)
  rw [insertRow_eq hx, ← hitems]
  refine h.edited (l := s.items ++ [.insert r]) insertStores_only rfl ?_ ?_ ?_ ?_ ?_ ?_ ?_
  · exact (hp.tables.claimRow r sp _).allocCopy c _
  · refine hp.owners.claim (r := r) (c := c) (st := .draft) hcf (by decide) hcopies hrows ?_ ?_ ?_ ?_ ?_ ?_ ?_
    · rw [hcc]; exact ⟨rfl, rfl, rfl, rfl, rfl, rfl, rfl⟩
    · rw [hrr]; exact ⟨rfl, rfl, rfl, rfl, rfl, rfl, rfl⟩
    · rw [hrow0]; rfl
    · rw [hrr]; rfl
    · intro st hst
      rw [hrr, hrow0]
      cases st with
      | draft => exact absurd rfl hst
      | free | staged | live | superseded => rfl
    · rw [hrow0]
      rintro (ho | ho | ho) <;> cases ho
    · rw [hrr]; exact (fun hd => nomatch hd)
  · have hsup : (s.insertStores r c sp b).superseded = s.superseded := by simp [State.insertStores]
    have hfree : (s.insertStores r c sp b).freeCount = s.freeCount - 1 := by simp [State.insertStores]
    rw [hsup, hfree]
    exact hp.pool.alloc hcf hc2560 hcopies (by rw [hcc]; exact (fun hd => nomatch hd)) (by rw [hcc]; exact (fun hd => nomatch hd))
  · have hidx : (s.insertStores r c sp b).spanIndex = indexInsert { first := sp.first, row := r } s.spanIndex := by
      simp [State.insertStores]
    rw [hidx]
    exact hp.index.claim (by rw [hrow0]; rfl) hr1024 hrows (by rw [hrr]; rfl)
  · refine hp.rowItems.update hrows (fun i q hq hi => ?_) ?_ ?_ ?_ ?_ (.inr ⟨.inl hrf, .inr (by rw [hrr]; rfl)⟩)
    · rw [List.mem_append, List.mem_singleton, or_iff_left]
      rintro rfl
      exact hq (Option.some.inj hi).symm
    · simp [hrr, Row.newDraft]
    · simpa [hrr, Row.newDraft] using hnew (.amend r) rfl
    · simp [hnew (.retire r) rfl]
    · rw [hrr, hrow0]; rfl
  · exact SlotItems.allocCopy (s := s.claimRow r sp (Row.newDraft sp c)) hp.slotItems (bodyValid_usable hb) fun k => by simp
  · exact h.itemsOnce.append hroom (hnew _ rfl) fun q hq => (Option.some.inj hq) ▸ hnot

/-! ### AMEND (R68) -/

/-- What an AMEND that is not refused has checked (R67). -/
theorem amendRefusal_eq_none {r : Nat} {sel : Bool} {b : Body} (h : s.amendRefusal r sel b = none) :
    ((s.row r).phase = .live ∨ (s.row r).phase = .newStaged ∨ (s.row r).phase = .newDraft) ∧ .retire r ∉ s.items ∧
      s.bodyValid (s.spanOf r).count b = true := by
  unfold State.amendRefusal at h
  split at h
  · cases h
  split at h
  · cases h
  split at h
  · cases h
  next h1 h2 h3 =>
    refine ⟨?_, fun hr => h2 (.inr (hasRetire_iff.2 hr)), by simpa using fun hb => h3 (.inr hb)⟩
    cases hp : (s.row r).phase
    case live => exact .inl rfl
    case newStaged => exact .inr (.inl rfl)
    case newDraft => exact .inr (.inr rfl)
    case free => exact absurd (.inl hp) h1
    case dead => exact absurd (.inr hp) h1
    case dying => exact absurd (.inl hp) h2

/-- A row that no item of the change set names (R62). -/
theorem not_rowsNamed_of {r : Nat} (hi : .insert r ∉ items) (ha : .amend r ∉ items) (hr : .retire r ∉ items) : r ∉ rowsNamed items :=
  fun h => (mem_rowsNamed_cases h).elim hi fun h => h.elim ha hr

theorem storesKept_startAmend (h : s.StoresKept) {r c : Nat} {sel : Bool} {b : Body} (hx : s.session = some x)
    (ham : s.amendRefusal r sel b = none) (hd : hasDraftItem s.items r = false) (hroom : s.items.length < 96)
    (hc : s.lowestFreeCopy = some c) : (s.startAmend r c b).StoresKept := by
  obtain ⟨hc2560, hcf⟩ := lowestFreeCopy_some hc
  obtain ⟨hphase, hret, hb⟩ := amendRefusal_eq_none ham
  obtain ⟨hni, hna⟩ := not_or.1 fun hor => Bool.eq_false_iff.1 hd (hasDraftItem_iff.2 hor)
  have hp := h.parts
  have hnd : (s.row r).phase ≠ .newDraft := fun hn => hni ((h.inserts r).2 hn)
  have hlive : (s.row r).phase = .live ∨ (s.row r).phase = .newStaged := by
    obtain hl | hl | hl := hphase
    · exact .inl hl
    · exact .inr hl
    · exact absurd hl hnd
  have hnone : (s.row r).draft = none := Option.not_isSome_iff_eq_none.1 fun hs => hna ((h.amends r).2 ⟨hnd, hs⟩)
  have hrow (q : Nat) : (s.amendStores r c b).row q = if q = r then { s.row r with draft := some c } else s.row q := by
    simp [State.amendStores]
  have hrows (q : Nat) (hq : q ≠ r) : (s.amendStores r c b).row q = s.row q := by rw [hrow, if_neg hq]
  have hrr : (s.amendStores r c b).row r = { s.row r with draft := some c } := by rw [hrow, if_pos rfl]
  have hcopies (d : Nat) (hd : d ≠ c) : (s.amendStores r c b).copy d = s.copy d := by simp [State.amendStores, allocCopy_copy, hd]
  have hcc : (s.amendStores r c b).copy c = Copy.newDraft r (s.row r).base b := by simp [State.amendStores, allocCopy_copy]
  rw [startAmend_eq hx, ← items_eq hx]
  refine h.edited (l := s.items ++ [.amend r]) amendStores_only rfl ?_ ?_ ?_ ?_ ?_ ?_ ?_
  · exact (hp.tables.putRow r _).allocCopy c _
  · refine hp.owners.claim (r := r) (c := c) (st := .draft) hcf (by decide) hcopies hrows ?_ ?_ hnone ?_ ?_ ?_ ?_
    · rw [hcc]; exact ⟨rfl, rfl, rfl, rfl, rfl, rfl, rfl⟩
    · rw [hrr]
      have hs := h.rows r
      unfold Row.shaped at hs ⊢
      obtain hl | hl := hlive <;> simpa only [hl] using hs
    · rw [hrr]; rfl
    · intro st hst
      rw [hrr]
      cases st with
      | draft => exact absurd rfl hst
      | free | staged | live | superseded => rfl
    · rw [hrr]; exact id
    · rw [hrr]
      obtain hl | hl := hlive <;> simp [hl]
  · have hsup : (s.amendStores r c b).superseded = s.superseded := by simp [State.amendStores]
    have hfree : (s.amendStores r c b).freeCount = s.freeCount - 1 := by simp [State.amendStores]
    rw [hsup, hfree]
    exact hp.pool.alloc hcf hc2560 hcopies (by rw [hcc]; exact (fun hd => nomatch hd)) (by rw [hcc]; exact (fun hd => nomatch hd))
  · have hidx : (s.amendStores r c b).spanIndex = s.spanIndex := by simp [State.amendStores]
    rw [hidx]
    refine hp.index.same (fun q => ?_) fun q => ?_ <;>
    · rw [hrow]
      split
      next hq => subst hq; simp
      next => simp
  · refine hp.rowItems.update hrows (fun i q hq hi => ?_) ?_ ?_ ?_ (by rw [hrr]) (.inl (by rw [hrr]))
    · rw [List.mem_append, List.mem_singleton, or_iff_left]
      rintro rfl
      exact hq (Option.some.inj hi).symm
    · rw [hrr]
      simp [hni, hnd]
    · rw [hrr]
      simp [hnd]
    · simp [hret]
  · exact SlotItems.allocCopy (s := s.putRow r { s.row r with draft := some c }) hp.slotItems (bodyValid_usable hb) fun k => by simp
  · exact h.itemsOnce.append hroom hna fun q hq => (Option.some.inj hq) ▸ not_rowsNamed_of hni hna hret

theorem storesKept_rewriteBody (h : s.StoresKept) {r c : Nat} {sel : Bool} {b : Body} (ham : s.amendRefusal r sel b = none)
    (hc : (s.row r).draft = some c) : (s.rewriteBody c b).StoresKept := by
  obtain ⟨-, -, hb⟩ := amendRefusal_eq_none ham
  have hp := h.parts
  have hso : StoresOnly s (s.rewriteBody c b) := StoresOnly.rewriteBody c b s
  have hkeep {α : Type} (g : State → α) := rewriteBody_keep s b c g
  have hstate := ((h.draft r c).1 hc).1
  have hcopy (d : Nat) : ((s.rewriteBody c b).copy d).state = (s.copy d).state ∧
      ((s.rewriteBody c b).copy d).owner = (s.copy d).owner ∧ ((s.rewriteBody c b).copy d).shaped := by
    rw [rewriteBody_copy]
    split
    next hd =>
      subst hd
      refine ⟨rfl, rfl, ?_⟩
      have hs := h.copies d
      simp only [Copy.shaped, hstate] at hs ⊢
      obtain ⟨ho, ha, hsup, hun, -⟩ := hs
      exact ⟨ho, ha, hsup, hun, rfl⟩
    next => exact ⟨rfl, rfl, h.copies d⟩
  have hrow : (s.rewriteBody c b).row = s.row := hkeep State.row (fun _ _ => rfl) (by simp [funext_iff]) (by simp [funext_iff])
  have hitems : (s.rewriteBody c b).items = s.items := by simp only [State.items, hso.session]
  have hstaged : (s.rewriteBody c b).stagedItems = s.stagedItems := by simp only [State.stagedItems, hso.staged]
  refine State.StoresParts.kept ⟨hp.tables.rewriteBody c b, ?_, ?_, ?_, ?_, ?_, hitems ▸ hp.once, hstaged ▸ hp.stagedOnce⟩
  · rw [hrow]
    exact hp.owners.same (le_of_eq hso.epoch.symm) hcopy fun q => ⟨h.rows q, rfl, rfl, rfl⟩
  · rw [hkeep State.superseded (fun _ _ => rfl) (by simp) (by simp), hkeep State.freeCount (fun _ _ => rfl) (by simp) (by simp)]
    exact hp.pool.same (fun d => by rw [(hcopy d).1]) fun d => by rw [(hcopy d).1]
  · rw [hrow, hkeep State.spanIndex (fun _ _ => rfl) (by simp) (by simp)]
    exact hp.index
  · rw [hrow, hitems, hstaged]
    exact hp.rowItems
  · rw [hitems, hstaged]
    have hu := bodyValid_usable hb
    refine hp.slotItems.same (fun k => ?_) fun k hk => ?_
    · rw [rewriteBody_slot]
      split
      · exact ⟨rfl, rfl, rfl⟩
      split
      · exact ⟨rfl, rfl, rfl⟩
      split <;> exact ⟨rfl, rfl, rfl⟩
    · rw [rewriteBody_slot]
      split
      · exact hk
      split
      · rw [hk]; rfl
      split
      next hbk =>
        rw [hbk] at hu
        simp only [State.profileUsable, Bool.and_eq_true, decide_eq_true_eq] at hu
        exact absurd (congrArg Slot.state hk) hu.2
      next => exact hk

/-! ### Copies freed -/

/-- Copies in use, none of them SUPERSEDED, are freed, and the rows forget them. -/
theorem State.Frees.parts {cs : List Nat} (hf : s.Frees t cs) (hp : s.StoresParts) (hn : cs.Nodup)
    (hused : ∀ c ∈ cs, (s.copy c).state ≠ .free) (hrows : ∀ r, (t.row r).shaped)
    (hnames : ∀ r st c, (t.row r).names st = some c ↔ (s.row r).names st = some c ∧ c ∉ cs)
    (hout : ∀ c r, c ∉ cs → (s.copy c).owner = some r → (s.copy c).state = .superseded → (s.row r).outlived → (t.row r).outlived)
    (hdead : ∀ r, (t.row r).phase = .dead → (∃ c, (s.copy c).owner = some r ∧ c ∉ cs) ∧ ∀ d, (t.row r).dies = some d → d ≤ s.epoch) :
    OwnersAgree t.row t.copy s.epoch ∧ PoolCounted t.copy t.superseded t.freeCount := by
  have hin (c : Nat) (hc : c ∈ cs) : t.copy c = Copy.free := by rw [hf.copy, if_pos hc]
  have hnot (c : Nat) (hc : c ∉ cs) : t.copy c = s.copy c := by rw [hf.copy, if_neg hc]
  constructor
  · exact hp.owners.free (fun c => c ∈ cs) hin (fun c hc => by rw [hnot c hc]; exact ⟨rfl, rfl, hp.owners.copies c⟩) hrows hnames hout hdead
  · rw [hf.superseded, hf.free]
    exact hp.pool.frees hn hused (fun c hc => by rw [hin c hc]; rfl) fun c hc => by rw [hnot c hc]

/-! ### RETIRE (R70) -/

/-- What a RETIRE that is not refused has checked (R70). -/
theorem retireRefusal_eq_none {r : Nat} (h : s.retireRefusal r = none) :
    ((s.row r).phase = .live ∨ (s.row r).phase = .newStaged ∨ (s.row r).phase = .newDraft) ∧ .retire r ∉ s.items := by
  unfold State.retireRefusal at h
  cases hp : (s.row r).phase <;> simp only [hp] at h
  case free | dead | dying => cases h
  all_goals
    split at h
    · cases h
    next hr => exact ⟨by simp, fun hin => hr (hasRetire_iff.2 hin)⟩

/-- A row that forgets just the freed copy it named, all freed copies being in state `st₀`. -/
theorem OwnersAgree.names_forgotten {copy : Nat → Copy} {epoch : Nat} (h : OwnersAgree row copy epoch) {st₀ : CopyState} {cs : List Nat}
    (hcs : ∀ c ∈ cs, (copy c).state = st₀) {q : Nat} {y : Row} (hother : ∀ st, st ≠ st₀ → y.names st = (row q).names st)
    (hst : y.names st₀ = (row q).names st₀ ∧ (∀ c, (row q).names st₀ = some c → c ∉ cs) ∨
      y.names st₀ = none ∧ ∀ c, (row q).names st₀ = some c → c ∈ cs) (st : CopyState) (c : Nat) :
    y.names st = some c ↔ (row q).names st = some c ∧ c ∉ cs := by
  by_cases hs : st = st₀
  · subst hs
    obtain ⟨hy, hno⟩ | ⟨hy, hall⟩ := hst
    · rw [hy]
      exact ⟨fun hn => ⟨hn, hno c hn⟩, And.left⟩
    · rw [hy]
      exact ⟨(fun hn => nomatch hn), fun ⟨hn, hc⟩ => absurd (hall c hn) hc⟩
  · rw [hother st hs, iff_self_and]
    exact fun hn hc => hs ((h.names q st c hn).1.symm.trans (hcs c hc))

/-- A row without its draft. -/
def Row.undrafted (x : Row) : Row := { x with draft := none }

theorem Row.names_undrafted (x : Row) {st : CopyState} (h : st ≠ .draft) : x.undrafted.names st = x.names st := by
  cases st with
  | draft => exact absurd rfl h
  | free | staged | live | superseded => rfl

/-- A row that is not NEW_DRAFT keeps its form without its draft (R2). -/
theorem Row.shaped_undrafted {x : Row} (h : x.shaped) (hp : x.phase ≠ .newDraft) : x.undrafted.shaped := by
  unfold Row.shaped Row.undrafted at *
  cases hx : x.phase <;> simp only [hx] at h ⊢
  case free => rw [h]; rfl
  case newDraft => exact absurd hx hp
  case newStaged | live => exact h
  case dying =>
    obtain ⟨h1, h2, h3, h4, h5, -⟩ := h
    exact ⟨h1, h2, h3, h4, h5, trivial⟩
  case dead =>
    obtain ⟨h1, h2, h3, h4, h5, -, h7⟩ := h
    exact ⟨h1, h2, h3, h4, h5, trivial, h7⟩

/-- What a NEW_DRAFT row's fields say (R2). -/
theorem Row.shaped_newDraft {x : Row} (h : x.shaped) (hp : x.phase = .newDraft) :
    x.live = none ∧ x.staged = none ∧ x.draft.isSome = true ∧ x.watch = [] := by
  simp only [Row.shaped, hp] at h
  obtain ⟨-, -, -, hl, hs, hd, hw⟩ := h
  exact ⟨hl, hs, hd, hw⟩

/-- A row's draft is freed, and the row is what `y` says: without its draft, or FREE with it (R31). -/
theorem draftFreed_parts (h : s.StoresKept) {r : Nat} {y : Row} (hf : s.Frees t (s.row r).draft.toList)
    (hrow : ∀ q, t.row q = if q = r then y else s.row q)
    (hy : y = (s.row r).undrafted ∧ (s.row r).phase ≠ .newDraft ∨ y = Row.free ∧ (s.row r).phase = .newDraft) :
    OwnersAgree t.row t.copy s.epoch ∧ PoolCounted t.copy t.superseded t.freeCount := by
  have hp := h.parts
  have hmem (c : Nat) : c ∈ (s.row r).draft.toList ↔ (s.row r).draft = some c := by rw [Option.mem_toList]
  have hstate (c : Nat) (hc : c ∈ (s.row r).draft.toList) : (s.copy c).state = .draft := ((h.draft r c).1 ((hmem c).1 hc)).1
  have hrows (q : Nat) (hq : q ≠ r) : t.row q = s.row q := by rw [hrow, if_neg hq]
  have hrr : t.row r = y := by rw [hrow, if_pos rfl]
  refine hf.parts hp ?_ (fun c hc => ?_) (fun q => ?_) (fun q => ?_) (fun c q hc ho hs hl => ?_) fun q hd => ?_
  · cases (s.row r).draft <;> simp
  · rw [hstate c hc]; exact (fun he => nomatch he)
  · by_cases hq : q = r
    · rw [hq, hrr]
      obtain ⟨rfl, hn⟩ | ⟨rfl, -⟩ := hy
      · exact Row.shaped_undrafted (h.rows r) hn
      · rfl
    · rw [hrows q hq]; exact h.rows q
  · refine hp.owners.names_forgotten hstate (fun st hst => ?_) ?_
    · by_cases hq : q = r
      · rw [hq, hrr]
        obtain ⟨rfl, -⟩ | ⟨rfl, hn⟩ := hy
        · exact Row.names_undrafted _ hst
        · obtain ⟨hl, hs, -⟩ := Row.shaped_newDraft (h.rows r) hn
          cases st with
          | draft => exact absurd rfl hst
          | staged => exact hs.symm
          | live => exact hl.symm
          | free | superseded => rfl
      · rw [hrows q hq]
    · by_cases hq : q = r
      · refine .inr ⟨?_, fun c hc => ?_⟩
        · rw [hq, hrr]
          obtain ⟨rfl, -⟩ | ⟨rfl, -⟩ := hy <;> rfl
        · rw [hq] at hc
          exact (hmem c).2 hc
      · refine .inl ⟨by rw [hrows q hq], fun c hc hin => ?_⟩
        have ho := ((h.draft q c).1 hc).2
        rw [((h.draft r c).1 ((hmem c).1 hin)).2] at ho
        exact hq (Option.some.inj ho).symm
  · by_cases hq : q = r
    · rw [hq] at hl ⊢
      rw [hrr]
      obtain ⟨rfl, -⟩ | ⟨-, hn⟩ := hy
      · exact hl
      · unfold Row.outlived at hl
        rw [hn] at hl
        simp at hl
    · rw [hrows q hq]; exact hl
  · by_cases hq : q = r
    · rw [hq, hrr] at hd
      obtain ⟨rfl, -⟩ | ⟨rfl, -⟩ := hy
      · have hnone := (Row.shaped_dead (h.rows r) hd).2.2.1
        rw [hq, hrr, hnone]
        obtain ⟨⟨c, hc⟩, hdies⟩ := h.dead r hd
        exact ⟨⟨c, hc, List.not_mem_nil⟩, hdies⟩
      · cases hd
    · rw [hrows q hq] at hd ⊢
      obtain ⟨⟨c, hc⟩, hdies⟩ := h.dead q hd
      refine ⟨⟨c, hc, fun hin => hq ?_⟩, hdies⟩
      exact Option.some.inj (hc.symm.trans ((h.draft r c).1 ((hmem c).1 hin)).2)

theorem storesKept_retireEffect (h : s.StoresKept) {r : Nat} (hx : s.session = some x) (hret : s.retireRefusal r = none)
    (hroom : s.retireOutcome r = .added → s.items.length < 96) : (s.retireEffect r).StoresKept := by
  obtain ⟨hphase, hnr⟩ := retireRefusal_eq_none hret
  have hp := h.parts
  cases ho : s.retireOutcome r with
  | added =>
    have hroom := hroom ho
    have hnd : (s.row r).phase ≠ .newDraft := fun hn => by rw [retireOutcome_removed hn] at ho; cases ho
    have hna : .amend r ∉ s.items := fun ha => by rw [retireOutcome_converted hnd ha] at ho; cases ho
    have hni : .insert r ∉ s.items := fun hi => hnd ((h.inserts r).1 hi)
    rw [retireEffect_added hx ho, ← items_eq hx]
    refine h.edited (l := s.items ++ [.retire r]) (.refl s) rfl hp.tables hp.owners hp.pool hp.index ?_ ?_ ?_
    · refine hp.rowItems.update (r := r) (fun _ _ => rfl) (fun i q hq hi => ?_) ?_ ?_ (fun _ => ?_) rfl (.inl rfl)
      · rw [List.mem_append, List.mem_singleton, or_iff_left]
        rintro rfl
        exact hq (Option.some.inj hi).symm
      · simpa using h.inserts r
      · simpa using h.amends r
      · obtain hl | hl | hl := hphase
        · exact .inl hl
        · exact .inr hl
        · exact absurd hl hnd
    · exact hp.slotItems.congr (fun _ => ⟨rfl, rfl, rfl⟩) (fun _ => id) fun k => by simp
    · exact h.itemsOnce.append hroom hnr fun q hq => (Option.some.inj hq) ▸ not_rowsNamed_of hni hna hnr
  | converted =>
    have hnd : (s.row r).phase ≠ .newDraft := fun hn => by rw [retireOutcome_removed hn] at ho; cases ho
    have hf := State.Frees.freeDraft s r
    have hni : .insert r ∉ s.items := fun hi => hnd ((h.inserts r).1 hi)
    have hrow (q : Nat) : (s.freeDraft r).row q = if q = r then (s.row r).undrafted else s.row q := freeDraft_row s r q
    obtain ⟨howners, hpool⟩ := draftFreed_parts h hf hrow (.inl ⟨rfl, hnd⟩)
    have hrr : (s.freeDraft r).row r = (s.row r).undrafted := by rw [hrow, if_pos rfl]
    have hmem (i : ChangeItem) (h1 : i ≠ .amend r) (h2 : i ≠ .retire r) :
        i ∈ s.items.map (fun i => if i = .amend r then .retire r else i) ↔ i ∈ s.items := by
      rw [List.mem_map]
      constructor
      · rintro ⟨j, hj, rfl⟩
        split
        next he => rw [if_pos he] at h2; exact absurd rfl h2
        next => exact hj
      · exact fun hi => ⟨i, hi, if_neg h1⟩
    rw [retireEffect_converted hx ho, ← items_eq hx]
    refine h.edited (l := s.items.map (fun i => if i = .amend r then .retire r else i)) (StoresOnly.freeDraft r s) rfl
      (hp.tables.freeDraft r) howners hpool ?_ ?_ ?_ (h.itemsOnce.retired hnr)
    · rw [freeDraft_spanIndex]
      refine hp.index.same (fun q => ?_) fun q => ?_ <;>
      · rw [hrow]
        split
        next hq => subst hq; simp [Row.undrafted]
        next => simp
    · refine hp.rowItems.update (r := r) (fun q hq => by rw [hrow, if_neg hq]) (fun i q hq hi => ?_) ?_ ?_ (fun _ => ?_)
        (by rw [hrr]; rfl) (.inl (by rw [hrr]; rfl))
      · refine hmem i ?_ ?_ <;>
        · rintro rfl
          exact hq (Option.some.inj hi).symm
      · rw [hmem (.insert r) (fun he => nomatch he) (fun he => nomatch he), hrr]
        exact h.inserts r
      · rw [hrr]
        refine ⟨fun hin => ?_, (fun hd => nomatch hd.2)⟩
        obtain ⟨j, -, hj⟩ := List.mem_map.1 hin
        split at hj
        · cases hj
        next hne => exact absurd hj hne
      · rw [hrr]
        obtain hl | hl | hl := hphase
        · exact .inl hl
        · exact .inr hl
        · exact absurd hl hnd
    · obtain hn : (s.row r).draft.toList.Nodup := by cases (s.row r).draft <;> simp
      exact hp.slotItems.dropped (hf.references hn) fun k => hmem _ (fun he => nomatch he) (fun he => nomatch he)
  | removed =>
    have hnd : (s.row r).phase = .newDraft := by
      unfold State.retireOutcome at ho
      split at ho
      next hn => exact hn
      next => split at ho <;> cases ho
    have hf : s.Frees ((s.freeDraft r).freeRow r) (s.row r).draft.toList :=
      ((State.Frees.freeDraft s r).trans (.freeRow _ r)).congr (List.append_nil _)
    have hrow (q : Nat) : ((s.freeDraft r).freeRow r).row q = if q = r then Row.free else s.row q := by
      rw [freeRow_row]
      split
      · rfl
      next hq => rw [freeDraft_row, if_neg hq]
    obtain ⟨howners, hpool⟩ := draftFreed_parts h hf hrow (.inr ⟨rfl, hnd⟩)
    have hrr : ((s.freeDraft r).freeRow r).row r = Row.free := by rw [hrow, if_pos rfl]
    have hrows (q : Nat) (hq : q ≠ r) : ((s.freeDraft r).freeRow r).row q = s.row q := by rw [hrow, if_neg hq]
    have hmem (i : ChangeItem) : i ∈ s.items.filter (fun i => decide (i ≠ .insert r)) ↔ i ∈ s.items ∧ i ≠ .insert r := by
      rw [List.mem_filter, decide_eq_true_eq]
    rw [retireEffect_removed hx ho, ← items_eq hx]
    refine h.edited (l := s.items.filter (fun i => decide (i ≠ .insert r)))
      ((StoresOnly.freeDraft r s).trans (StoresOnly.freeRow r _)) rfl ((hp.tables.freeDraft r).freeRow r) howners hpool ?_ ?_ ?_
      (h.itemsOnce.filter _)
    · have hidx : ((s.freeDraft r).freeRow r).spanIndex = s.spanIndex.filter (fun it => !decide (it.row = r)) := by
        rw [freeRow_spanIndex, freeDraft_spanIndex]
        exact List.filter_congr fun it _ => decide_not
      rw [hidx]
      refine hp.index.free (G := fun q => decide (q = r)) (fun q hq => ?_) (fun q hq => ?_) fun q hq => ?_
      · rw [of_decide_eq_true hq]; exact hrr
      · rw [hrows q (of_decide_eq_false hq)]
      · rw [hrows q (of_decide_eq_false hq)]; exact id
    · refine hp.rowItems.update (r := r) hrows (fun i q hq hi => ?_) ?_ ?_ (fun hin => ?_) ?_ (.inr ⟨.inr hnd, .inl ?_⟩)
      · rw [hmem, and_iff_left]
        rintro rfl
        exact hq (Option.some.inj hi).symm
      · rw [hmem, hrr]
        simp [Row.free]
      · rw [hmem, hrr]
        exact ⟨fun ⟨ha, _⟩ => absurd hnd ((h.amends r).1 ha).1, (fun hd => nomatch hd.2)⟩
      · obtain hl | hl := h.retires r ((hmem _).1 hin).1 <;> exact nomatch hnd.symm.trans hl
      · rw [hrr, (Row.shaped_newDraft (h.rows r) hnd).2.1]; rfl
      · rw [hrr]; rfl
    · obtain hn : (s.row r).draft.toList.Nodup := by cases (s.row r).draft <;> simp
      exact hp.slotItems.dropped (hf.references hn) fun k => by rw [hmem]; simp

end Sys2Proof.Machine
end

section
/-! PROOF. The stores' condition at the profile edits and at the seal (O57). -/

namespace Sys2Proof.Machine

variable {slot slot' : Nat → Slot} {items items' staged : List ChangeItem} {s t : State} {x : Session}

/-! ### DEFINE_PROFILE and DROP_PROFILE (R49, R50) -/

/-- One slot, and the items that define it, change. -/
theorem SlotItems.update (h : SlotItems slot items staged) {k : Nat} (hslot : ∀ j, j ≠ k → slot' j = slot j) (hk : k < 32)
    (hsh : (slot' k).shaped) (hi : ∀ j, j ≠ k → (.defineProfile j ∈ items' ↔ .defineProfile j ∈ items))
    (hdef : .defineProfile k ∈ items' ↔ (slot' k).state = .pending) (hst : (slot k).state ≠ .staged) (hst' : (slot' k).state ≠ .staged) :
    SlotItems slot' items' staged where
  bound j hj := by
    by_cases hjk : j = k
    · exact hjk ▸ hk
    · exact h.bound j (hslot j hjk ▸ hj)
  slots j := by
    by_cases hjk : j = k
    · exact hjk ▸ hsh
    · rw [hslot j hjk]; exact h.slots j
  defines j := by
    by_cases hjk : j = k
    · exact hjk ▸ hdef
    · rw [hi j hjk, hslot j hjk]; exact h.defines j
  stagedDefines j := by
    rw [h.stagedDefines]
    by_cases hjk : j = k
    · subst hjk; simp [hst, hst']
    · rw [hslot j hjk]

variable {k : Nat} {y : Slot}

/-- A slot written, the change set as it was. -/
theorem storesKept_putSlot (h : s.StoresKept) (hk : k < 32) (hsh : y.shaped) (hdef : .defineProfile k ∈ s.items ↔ y.state = .pending)
    (hst : (s.slot k).state ≠ .staged) (hst' : y.state ≠ .staged) : (s.putSlot k y).StoresKept := by
  have hp := h.parts
  refine State.StoresParts.kept ⟨hp.tables.putSlot k y, hp.owners, hp.pool, hp.index, hp.rowItems, ?_, hp.once, hp.stagedOnce⟩
  refine hp.slotItems.update (k := k) (fun j hj => by rw [State.slot_putSlot, if_neg hj]) hk ?_ (fun _ _ => Iff.rfl) ?_ hst ?_ <;>
    rw [State.slot_putSlot, if_pos rfl] <;> assumption

/-- A slot written, and the items that define it changed. -/
theorem storesKept_putSlot_items (h : s.StoresKept) (hx : s.session = some x) (hk : k < 32) (hsh : y.shaped)
    (hi : ∀ i, i ≠ .defineProfile k → (i ∈ items ↔ i ∈ s.items)) (hdef : .defineProfile k ∈ items ↔ y.state = .pending)
    (hst : (s.slot k).state ≠ .staged) (hst' : y.state ≠ .staged) (honce : ItemsOnce items) :
    ((s.putSlot k y).putItems items).StoresKept := by
  have hp := h.parts
  have hx' : (s.putSlot k y).session = some x := hx
  rw [putItems_eq hx']
  refine h.edited (l := items) (StoresOnly.slot s k y) rfl (hp.tables.putSlot k y) hp.owners hp.pool hp.index ?_ ?_ honce
  · exact hp.rowItems.update (r := 0) (fun _ _ => rfl) (fun i q _ hi' => hi i (by rintro rfl; cases hi'))
      ((hi (.insert 0) (fun he => nomatch he)).trans (h.inserts 0)) ((hi (.amend 0) (fun he => nomatch he)).trans (h.amends 0))
      (fun hr => h.retires 0 ((hi (.retire 0) (fun he => nomatch he)).1 hr)) rfl (.inl rfl)
  · refine hp.slotItems.update (k := k) (fun j hj => by rw [State.slot_putSlot, if_neg hj]) hk ?_
      (fun j hj => hi _ fun he => hj (ChangeItem.defineProfile.inj he)) ?_ hst ?_ <;>
      rw [State.slot_putSlot, if_pos rfl] <;> assumption

theorem storesKept_defined (h : s.StoresKept) (hx : s.session = some x) {pts : List Point} (hk : k < 32)
    (hf : (s.slot k).state = .free) (hroom : s.items.length < 96) :
    ((s.putSlot k { s.slot k with state := .pending, points := some pts }).putItems (s.items ++ [.defineProfile k])).StoresKept := by
  have hslot : s.slot k = Slot.free := Slot.eq_free (h.slots k) hf
  have hnew : .defineProfile k ∉ s.items := fun hin => nomatch hf.symm.trans ((h.defines k).1 hin)
  refine storesKept_putSlot_items h hx hk ?_ (fun i hi => ?_) ?_ ?_ (fun hs => nomatch hs) (h.itemsOnce.append hroom hnew fun r hr => nomatch hr)
  · rw [hslot]; exact ⟨rfl, rfl⟩
  · rw [List.mem_append, List.mem_singleton, or_iff_left hi]
  · simp
  · rw [hf]; exact (fun hs => nomatch hs)

theorem storesKept_redefined (h : s.StoresKept) {pts : List Point} (hs : (s.slot k).state = .pending) :
    (s.putSlot k { s.slot k with points := some pts }).StoresKept := by
  have hk : k < 32 := h.parts.slotItems.bound k (by rw [hs]; exact (fun hf => nomatch hf))
  have hne : (s.slot k).state ≠ .staged := by rw [hs]; exact (fun hf => nomatch hf)
  refine storesKept_putSlot h hk ?_ (h.defines k) hne hne
  have hsh := h.slots k
  simp only [Slot.shaped, hs] at hsh ⊢
  exact ⟨hsh.1, rfl⟩

theorem storesKept_droppedPending (h : s.StoresKept) (hx : s.session = some x) (hs : (s.slot k).state = .pending) :
    ((s.putSlot k Slot.free).putItems (s.items.filter (fun i => decide (i ≠ .defineProfile k)))).StoresKept := by
  have hk : k < 32 := h.parts.slotItems.bound k (by rw [hs]; exact (fun hf => nomatch hf))
  refine storesKept_putSlot_items h hx hk rfl (fun i hi => ?_) ?_ ?_ (fun hs => nomatch hs) (h.itemsOnce.filter _)
  · rw [List.mem_filter, decide_eq_true_eq, and_iff_left hi]
  · simp [Slot.free]
  · rw [hs]; exact (fun hf => nomatch hf)

theorem storesKept_droppedActive (h : s.StoresKept) (hs : (s.slot k).state = .active) : (s.putSlot k Slot.free).StoresKept := by
  have hk : k < 32 := h.parts.slotItems.bound k (by rw [hs]; exact (fun hf => nomatch hf))
  refine storesKept_putSlot h hk rfl ?_ (by rw [hs]; exact (fun hf => nomatch hf)) (fun hf => nomatch hf)
  rw [h.defines, hs]
  exact ⟨(fun hf => nomatch hf), (fun hf => nomatch hf)⟩

/-! ### The seal (R15, R32, R51, R82) -/

/-- The phase of row `r` after the seal. -/
def State.sealedPhase (s : State) (r : Nat) : Phase :=
  if (s.row r).phase = .newDraft then .newStaged else if .retire r ∈ s.items then .dying else (s.row r).phase

/-- With no staged set no row is NEW_STAGED or DYING, and none names a staged copy. -/
theorem unstaged_of_none (h : s.StoresKept) (hs : s.staged = none) (r : Nat) :
    (s.row r).phase ≠ .newStaged ∧ (s.row r).phase ≠ .dying ∧ (s.row r).staged = none := by
  have hnil : s.stagedItems = [] := by simp only [State.stagedItems, hs]
  refine ⟨fun hp => ?_, fun hp => ?_, Option.not_isSome_iff_eq_none.1 fun hp => ?_⟩
  · have := (h.stagedInserts r).2 hp
    rw [hnil] at this; cases this
  · have := (h.stagedRetires r).2 hp
    rw [hnil] at this; cases this
  · rw [stagedCopy_iff h, hnil] at hp
    obtain hp | hp := hp <;> cases hp

/-- A row with a draft is NEW_DRAFT, NEW_STAGED or LIVE (R2). -/
theorem Row.drafted_phase {z : Row} (h : z.shaped) (hd : z.draft.isSome = true) :
    z.phase = .newDraft ∨ z.phase = .newStaged ∨ z.phase = .live := by
  cases hp : z.phase
  case newDraft => exact .inl rfl
  case newStaged => exact .inr (.inl rfl)
  case live => exact .inr (.inr rfl)
  case free => rw [Row.eq_free h hp] at hd; cases hd
  case dead => rw [(Row.shaped_dead h hp).2.2.1] at hd; cases hd
  case dying =>
    simp only [Row.shaped, hp] at h
    rw [h.2.2.2.2.2] at hd
    cases hd

/-- A row without draft and staged copy, in another phase. -/
theorem Row.with_phase {z : Row} (hd : z.draft = none) (hs : z.staged = none) (p : Phase) :
    ({ z with phase := p } : Row) = { z with phase := p, staged := none, draft := none } := by
  cases z
  simp_all

/-- The seal moves a row's draft to its staged copy and gives it its phase (R15). -/
theorem sealStores_row_of_kept (h : s.StoresKept) (hs : s.staged = none) (r : Nat) : (s.sealStores s.items).row r =
    { s.row r with phase := s.sealedPhase r, staged := (s.row r).draft, draft := none } := by
  obtain ⟨-, -, hst⟩ := unstaged_of_none h hs r
  have honce := items_pairwise h.itemsOnce.rows
  have hu (i : ChangeItem) (hi : i ∈ s.items) (hr : i.row? = some r) : ∀ j ∈ s.items, j.row? = some r → j = i :=
    fun j hj hjr => items_row_once honce hj hi hjr hr
  have hnamed (i : ChangeItem) (hi : i ∈ s.items) (hr : i.row? = some r) :=
    row_foldl_sealRow_of_named (s := s) h.itemsOnce.items hi hr (hu i hi hr)
  rw [sealStores_row]
  by_cases hin : .insert r ∈ s.items
  · rw [hnamed _ hin rfl, State.sealedPhase, if_pos ((h.inserts r).1 hin)]
    rfl
  · have hnd : (s.row r).phase ≠ .newDraft := fun hn => hin ((h.inserts r).2 hn)
    by_cases ham : .amend r ∈ s.items
    · have hre : .retire r ∉ s.items := fun hre => nomatch hu _ ham rfl _ hre rfl
      rw [hnamed _ ham rfl, State.sealedPhase, if_neg hnd, if_neg hre]
      rfl
    · have hdr : (s.row r).draft = none := Option.not_isSome_iff_eq_none.1 fun hd => ham ((h.amends r).2 ⟨hnd, hd⟩)
      by_cases hre : .retire r ∈ s.items
      · rw [hnamed _ hre rfl, State.sealedPhase, if_neg hnd, if_pos hre, hdr]
        exact Row.with_phase hdr hst .dying
      · have hnone := row_foldl_sealRow_of_unnamed (s := s) (l := s.items) (r := r) fun i hi hr =>
          not_rowsNamed_of hin ham hre (List.mem_filterMap.2 ⟨i, hi, hr⟩)
        rw [hnone, State.sealedPhase, if_neg hnd, if_neg hre, hdr]
        exact Row.with_phase hdr hst (s.row r).phase

theorem Copy.sealed_cases (z : Copy) : z.state = .draft ∧ z.sealed = { z with state := .staged, base := none } ∨
    z.state ≠ .draft ∧ z.sealed = z := by
  unfold Copy.sealed
  by_cases hz : z.state = .draft
  · exact .inl ⟨hz, if_pos hz⟩
  · exact .inr ⟨hz, if_neg hz⟩

theorem Slot.sealed_cases (z : Slot) : z.state = .pending ∧ z.sealed = { z with state := .staged } ∨ z.state ≠ .pending ∧ z.sealed = z := by
  unfold Slot.sealed
  by_cases hz : z.state = .pending
  · exact .inl ⟨hz, if_pos hz⟩
  · exact .inr ⟨hz, if_neg hz⟩

theorem storesKept_sealSession (h : s.StoresKept) (hs : s.staged = none) (pol : Policy) : (s.sealSession pol).StoresKept := by
  have hp := h.parts
  have hso := sealStores_only s s.items
  have hkeep {α : Type} (g : State → α) := sealStores_keep s s.items g
  have hrow := sealStores_row_of_kept h hs
  have hcopy := sealStores_copy s s.items
  have hslot := sealStores_slot s s.items
  have hnil : s.stagedItems = [] := by simp only [State.stagedItems, hs]
  have hun := unstaged_of_none h hs
  have hretire (r : Nat) (hr : .retire r ∈ s.items) : (s.row r).phase = .live :=
    (h.retires r hr).resolve_right (hun r).1
  rw [sealSession_eq]
  refine State.StoresParts.kept ⟨(hp.tables.sealStores s.items).of_same rfl rfl rfl, ?_, ?_, ?_, ?_, ?_, itemsOnce_nil, h.itemsOnce⟩
  · have he : (s.sealStores s.items).epoch = s.epoch := hso.epoch
    show OwnersAgree (s.sealStores s.items).row (s.sealStores s.items).copy (s.sealStores s.items).epoch
    rw [he]
    constructor
    case rows =>
      intro r
      rw [hrow]
      have hsh := h.rows r
      by_cases hre : .retire r ∈ s.items
      · have hl := hretire r hre
        have hdr := draft_none_of_retire h hre
        simp only [Row.shaped, State.sealedPhase, hl, hre, hdr] at hsh ⊢
        simpa using hsh
      · unfold Row.shaped State.sealedPhase at *
        cases hph : (s.row r).phase <;> simp only [hph, hre, if_false, if_true] at hsh ⊢
        case free => simp only [hsh]; rfl
        case newDraft => simp_all
        case newStaged => exact absurd hph (hun r).1
        case live => simpa using hsh
        case dying => exact absurd hph (hun r).2.1
        case dead => simp_all
    case copies =>
      intro c
      rw [hcopy]
      obtain ⟨hd, he⟩ | ⟨-, he⟩ := (s.copy c).sealed_cases
      · rw [he]
        have hsh := h.copies c
        simp only [Copy.shaped, hd] at hsh
        obtain ⟨h1, h2, h3, h4, h5⟩ := hsh
        exact ⟨h1, rfl, h2, h3, h4, h5⟩
      · rw [he]; exact h.copies c
    case names =>
      intro r st c hn
      rw [hrow] at hn
      rw [hcopy]
      cases st with
      | draft | free | superseded => cases hn
      | staged =>
        obtain ⟨hst, ho⟩ := (h.draft r c).1 hn
        rw [Copy.sealed, if_pos hst]
        exact ⟨rfl, ho⟩
      | live =>
        obtain ⟨hst, ho⟩ := (h.live r c).1 hn
        rw [Copy.sealed, if_neg (by rw [hst]; exact (fun he => nomatch he))]
        exact ⟨hst, ho⟩
    case named =>
      intro c r ho hsup
      rw [hcopy] at ho hsup ⊢
      rw [hrow]
      obtain ⟨hd, he⟩ | ⟨hd, he⟩ := (s.copy c).sealed_cases
      · rw [he] at ho ⊢
        exact (h.draft r c).2 ⟨hd, ho⟩
      · rw [he] at ho hsup ⊢
        have hn := hp.owners.named c r ho hsup
        cases hst : (s.copy c).state
        case draft => exact absurd hst hd
        case superseded => exact absurd hst hsup
        case free => rw [hst] at hn; cases hn
        case live => rw [hst] at hn; exact hn
        case staged =>
          rw [hst] at hn
          exact nomatch (hun r).2.2.symm.trans hn
    case outlives =>
      intro c r ho hsup
      rw [hcopy] at ho hsup
      obtain ⟨-, he⟩ | ⟨-, he⟩ := (s.copy c).sealed_cases
      · rw [he] at hsup; cases hsup
      · rw [he] at ho hsup
        rw [hrow]
        unfold State.sealedPhase
        have hout := h.owner r c hsup ho
        obtain hl | hl | hl := hout <;> simp only [hl, reduceCtorEq, if_false]
        · split <;> simp
        · split <;> simp
        · split <;> simp
    case dead =>
      intro r hd
      rw [hrow] at hd ⊢
      have hd' : (s.row r).phase = .dead := by
        unfold State.sealedPhase at hd
        split at hd
        · cases hd
        · split at hd
          · cases hd
          · exact hd
      obtain ⟨⟨c, hc⟩, hdies⟩ := h.dead r hd'
      refine ⟨⟨c, ?_⟩, hdies⟩
      rw [hcopy]
      obtain ⟨-, he⟩ | ⟨-, he⟩ := (s.copy c).sealed_cases <;> rw [he] <;> exact hc
  · show PoolCounted (s.sealStores s.items).copy (s.sealStores s.items).superseded (s.sealStores s.items).freeCount
    rw [hkeep State.superseded (fun _ _ _ => rfl) (fun _ _ => rfl) (fun _ _ => rfl),
      hkeep State.freeCount (fun _ _ _ => rfl) (fun _ _ => rfl) (fun _ _ => rfl)]
    refine hp.pool.same (fun c => ?_) fun c => ?_ <;>
    · rw [hcopy]
      obtain ⟨hd, he⟩ | ⟨-, he⟩ := (s.copy c).sealed_cases <;> rw [he]
      simp [hd]
  · show RowsIndexed (s.sealStores s.items).row (s.sealStores s.items).spanIndex
    rw [hkeep State.spanIndex (fun _ _ _ => rfl) (fun _ _ => rfl) (fun _ _ => rfl)]
    refine hp.index.same (fun r => by rw [hrow]) fun r hr hf => ?_
    rw [hrow] at hr
    refine hr ?_
    have hre : .retire r ∉ s.items := fun hre => nomatch (hretire r hre).symm.trans hf
    simp only [State.sealedPhase, hf, hre, reduceCtorEq, if_false]
  · show RowItems (s.sealStores s.items).row [] s.items
    have hphase (r : Nat) : ((s.sealStores s.items).row r).phase = s.sealedPhase r := by rw [hrow]
    have hdraft (r : Nat) : ((s.sealStores s.items).row r).draft = none := by rw [hrow]
    have hsome (r : Nat) (hd : (s.row r).draft.isSome = true) : .retire r ∉ s.items := fun hre => by
      rw [draft_none_of_retire h hre] at hd; cases hd
    constructor
    case inserts =>
      intro r
      rw [hphase]
      unfold State.sealedPhase
      split
      · simp
      next hnd => split <;> simp [hnd]
    case amends => intro r; simp [hdraft]
    case retires => intro r hr; cases hr
    case stagedInserts =>
      intro r
      rw [hphase, h.inserts]
      unfold State.sealedPhase
      split
      next hnd => simp [hnd]
      next hnd => split <;> simp [hnd, (hun r).1]
    case stagedAmends =>
      intro r
      rw [hphase, h.amends]
      have hst : ((s.sealStores s.items).row r).staged = (s.row r).draft := by rw [hrow]
      rw [hst]
      refine and_congr_left fun hd => ?_
      unfold State.sealedPhase
      rw [if_neg (hsome r hd)]
      obtain hph | hph | hph := Row.drafted_phase (h.rows r) hd
      · simp [hph]
      · exact absurd hph (hun r).1
      · simp [hph]
    case stagedRetires =>
      intro r
      rw [hphase]
      unfold State.sealedPhase
      split
      next hnd => simpa using fun hre => nomatch (hretire r hre).symm.trans hnd
      next => split <;> simp_all
  · show SlotItems (s.sealStores s.items).slot [] s.items
    have hstate (k : Nat) : (s.slot k).state ≠ .staged := fun hk => by
      have := (h.stagedDefines k).2 hk
      rw [hnil] at this; cases this
    constructor
    case bound =>
      intro k hk
      rw [hslot] at hk
      obtain ⟨hd, -⟩ | ⟨-, he⟩ := (s.slot k).sealed_cases
      · exact hp.slotItems.bound k (by rw [hd]; exact (fun hf => nomatch hf))
      · exact hp.slotItems.bound k (he ▸ hk)
    case slots =>
      intro k
      rw [hslot]
      obtain ⟨hd, he⟩ | ⟨-, he⟩ := (s.slot k).sealed_cases
      · rw [he]
        have hsh := h.slots k
        simp only [Slot.shaped, hd] at hsh
        exact hsh
      · rw [he]; exact h.slots k
    case defines =>
      intro k
      rw [hslot]
      obtain ⟨-, he⟩ | ⟨hd, he⟩ := (s.slot k).sealed_cases <;> rw [he]
      · simp
      · simp [hd]
    case stagedDefines =>
      intro k
      rw [hslot, h.defines]
      obtain ⟨hd, he⟩ | ⟨hd, he⟩ := (s.slot k).sealed_cases <;> rw [he]
      · simp [hd]
      · simp [hd, hstate k]

end Sys2Proof.Machine
end

section
/-! PROOF. The stores' condition at the end of a session and at a withdraw (O57). -/

namespace Sys2Proof.Machine

variable {items : List ChangeItem} {s t : State} {x : Session} {st : StagedSet}

/-- Slots freed by the items that define them, the others' references given up (R52, R48). -/
theorem SlotItems.discarded {slot slot' : Nat → Slot} {items staged items' staged' : List ChangeItem} {n : Nat → Nat}
    (h : SlotItems slot items staged) (D : Nat → Prop) (hfree : ∀ k, D k → slot' k = Slot.free)
    (hkeep : ∀ k, ¬D k → slot' k = { slot k with refCount := (slot k).refCount - n k })
    (hi : ∀ k, .defineProfile k ∈ items' ↔ .defineProfile k ∈ items ∧ ¬D k)
    (hs : ∀ k, .defineProfile k ∈ staged' ↔ .defineProfile k ∈ staged ∧ ¬D k) : SlotItems slot' items' staged' := by
  have hd := h.dropped (slot' := fun k => { slot k with refCount := (slot k).refCount - n k }) (n := n) (fun _ => rfl) (fun _ => Iff.rfl)
  constructor
  case bound =>
    intro k hk
    by_cases hD : D k
    · rw [hfree k hD] at hk; exact absurd rfl hk
    · rw [hkeep k hD] at hk; exact h.bound k hk
  case slots =>
    intro k
    by_cases hD : D k
    · rw [hfree k hD]; rfl
    · rw [hkeep k hD]; exact hd.slots k
  case defines =>
    intro k
    rw [hi]
    by_cases hD : D k
    · simp [hD, hfree k hD, Slot.free]
    · rw [hkeep k hD, and_iff_left hD]; exact h.defines k
  case stagedDefines =>
    intro k
    rw [hs]
    by_cases hD : D k
    · simp [hD, hfree k hD, Slot.free]
    · rw [hkeep k hD, and_iff_left hD]; exact h.stagedDefines k

/-! ### Abandonment (R78) -/

/-- A row as abandonment leaves it, in a state that keeps the stores' condition. -/
theorem abandonedBy_of_kept (h : s.StoresKept) (r : Nat) : (s.row r).abandonedBy s.items r =
    if (s.row r).phase = .newDraft then Row.free else (s.row r).undrafted := by
  unfold Row.abandonedBy
  by_cases hn : (s.row r).phase = .newDraft
  · rw [if_pos ((h.inserts r).2 hn), if_pos hn]
  · rw [if_neg (fun hi => hn ((h.inserts r).1 hi)), if_neg hn]
    by_cases ha : .amend r ∈ s.items
    · rw [if_pos ha]; rfl
    · have hd : (s.row r).draft = none := Option.not_isSome_iff_eq_none.1 fun hd => ha ((h.amends r).2 ⟨hn, hd⟩)
      rw [if_neg ha, Row.undrafted, ← hd]

theorem storesKept_abandonSession (h : s.StoresKept) : s.abandonSession.StoresKept := by
  have hp := h.parts
  have hf := frees_foldl_abandonRow h.itemsOnce.rows fun r => draft_none_of_retire h
  have hslots {α : Type} (g : State → α) (hg : ∀ (u : State) k y, g (u.putSlot k y) = g u) :
      g (s.discardSession s.items) = g (s.items.foldl State.abandonRow s) := foldl_withdrawSlot_keep s.items g hg _
  have hrow (r : Nat) : (s.discardSession s.items).row r =
      if (s.row r).phase = .newDraft then Row.free else (s.row r).undrafted := by
    rw [discardSession_row, abandonedBy_of_kept h]
  have hrow₀ (r : Nat) : (s.items.foldl State.abandonRow s).row r =
      if (s.row r).phase = .newDraft then Row.free else (s.row r).undrafted := by
    rw [foldl_abandonRow_row, abandonedBy_of_kept h]
  have hstate (c : Nat) (hc : c ∈ s.draftsOf s.items) : (s.copy c).state = .draft := (mem_draftsOf h c).1 hc
  have hparts : OwnersAgree (s.items.foldl State.abandonRow s).row (s.items.foldl State.abandonRow s).copy s.epoch ∧
      PoolCounted (s.items.foldl State.abandonRow s).copy (s.items.foldl State.abandonRow s).superseded
        (s.items.foldl State.abandonRow s).freeCount := by
    refine hf.parts hp (draftsOf_nodup h) (fun c hc => ?_) (fun r => ?_) (fun r => ?_) (fun c r _ _ _ hl => ?_) fun r hd => ?_
    · rw [hstate c hc]; exact (fun he => nomatch he)
    · rw [hrow₀]
      split
      · rfl
      next hn => exact Row.shaped_undrafted (h.rows r) hn
    · refine hp.owners.names_forgotten hstate (fun st hst => ?_) (.inr ⟨?_, fun c hc => ?_⟩)
      · rw [hrow₀]
        split
        next hn =>
          obtain ⟨hl, hs, -⟩ := Row.shaped_newDraft (h.rows r) hn
          cases st with
          | draft => exact absurd rfl hst
          | staged => exact hs.symm
          | live => exact hl.symm
          | free | superseded => rfl
        next => exact Row.names_undrafted _ hst
      · rw [hrow₀]
        split <;> rfl
      · exact (mem_draftsOf h c).2 ((h.draft r c).1 hc).1
    · rw [hrow₀]
      split
      next hn => unfold Row.outlived at hl; simp [hn] at hl
      next => exact hl
    · rw [hrow₀] at hd ⊢
      split at hd
      · cases hd
      next hn =>
        rw [if_neg hn]
        have hd' : (s.row r).phase = .dead := hd
        obtain ⟨⟨c, hc⟩, hdies⟩ := h.dead r hd'
        refine ⟨⟨c, hc, fun hin => ?_⟩, hdies⟩
        have hn := hp.owners.named c r hc (by rw [hstate c hin]; exact (fun he => nomatch he))
        rw [Row.names_dead (h.rows r) hd'] at hn
        cases hn
  have hsession : ((s.discardSession s.items).setSession none).items = [] := rfl
  rw [abandonSession_eq]
  refine h.edited (discardSession_only s s.items) hsession (hp.tables.discardSession s.items) ?_ ?_ ?_ ?_ ?_ itemsOnce_nil
  · rw [hslots State.row (fun _ _ _ => rfl), hslots State.copy (fun _ _ _ => rfl)]
    exact hparts.1
  · rw [hslots State.copy (fun _ _ _ => rfl), hslots State.superseded (fun _ _ _ => rfl), hslots State.freeCount (fun _ _ _ => rfl)]
    exact hparts.2
  · have hidx : (s.discardSession s.items).spanIndex =
        s.spanIndex.filter (fun it => !decide ((s.row it.row).phase = .newDraft)) := by
      rw [discardSession_spanIndex]
      exact List.filter_congr fun it _ => by rw [← decide_not]; exact decide_eq_decide.2 (not_congr (h.inserts it.row))
    rw [hidx]
    refine hp.index.free (G := fun r => decide ((s.row r).phase = .newDraft)) (fun r hr => ?_) (fun r hr => ?_) fun r hr => ?_
    · rw [hrow, if_pos (of_decide_eq_true hr)]
    · rw [hrow, if_neg (of_decide_eq_false hr)]; rfl
    · rw [hrow, if_neg (of_decide_eq_false hr)]; exact id
  · have hphase (r : Nat) (p : Phase) (h1 : p ≠ .newDraft) (h2 : p ≠ .free) :
        ((s.discardSession s.items).row r).phase = p ↔ (s.row r).phase = p := by
      rw [hrow]
      split
      next hn => simp [hn, Row.free, h1.symm, h2.symm]
      next => rfl
    have hstaged (r : Nat) : ((s.discardSession s.items).row r).staged = (s.row r).staged := by
      rw [hrow]
      split
      next hn => rw [(Row.shaped_newDraft (h.rows r) hn).2.1]; rfl
      next => rfl
    constructor
    case inserts =>
      intro r
      rw [hrow]
      split
      · simp [Row.free]
      next hn => simpa [Row.undrafted] using hn
    case amends =>
      intro r
      rw [hrow]
      split <;> simp [Row.free, Row.undrafted]
    case retires => intro r hr; cases hr
    case stagedInserts =>
      intro r
      rw [hphase r .newStaged (by decide) (by decide)]
      exact h.stagedInserts r
    case stagedAmends =>
      intro r
      rw [hphase r .live (by decide) (by decide), hstaged]
      exact h.stagedAmends r
    case stagedRetires =>
      intro r
      rw [hphase r .dying (by decide) (by decide)]
      exact h.stagedRetires r
  · refine hp.slotItems.discarded (fun k => .defineProfile k ∈ s.items) (fun k => discardSession_slot s s.items)
      (copiesFreed_discardSession h).references (fun k => by simp) fun k => ?_
    rw [iff_self_and]
    intro hst hd
    exact nomatch ((h.stagedDefines k).1 hst).symm.trans ((h.defines k).1 hd)

/-! ### Withdraw (R101) -/

/-- With no session no row is NEW_DRAFT and none has a draft. -/
theorem undrafted_of_none (h : s.StoresKept) (hx : s.session = none) (r : Nat) : (s.row r).phase ≠ .newDraft ∧ (s.row r).draft = none := by
  have hnil : s.items = [] := by simp only [State.items, hx]
  refine ⟨fun hp => ?_, Option.not_isSome_iff_eq_none.1 fun hp => ?_⟩
  · have := (h.inserts r).2 hp
    rw [hnil] at this; cases this
  · rw [drafted_iff h, hnil] at hp
    obtain hp | hp := hp <;> cases hp

/-- The rows after a withdraw, in a state that keeps the stores' condition (R19). -/
theorem withdrawn_row_of_kept (h : s.StoresKept) (hs : s.staged = some st) (hw : s.Withdrawn st t) (r : Nat) :
    t.row r = (s.row r).withdrawn := by
  have hsi : s.stagedItems = st.items := by simp only [State.stagedItems, hs]
  have hnamed (i : ChangeItem) (hi : i ∈ s.stagedItems) (hr : i.row? = some r) : namesRow st.items r :=
    (mem_rows_named _ _).1 (List.mem_filterMap.2 ⟨i, hsi ▸ hi, hr⟩)
  by_cases hns : (s.row r).phase = .newStaged
  · rw [hw.inserted r (hnamed _ ((h.stagedInserts r).2 hns) rfl) hns, withdrawn_newStaged hns]
  by_cases hdy : (s.row r).phase = .dying
  · have hin := (h.stagedRetires r).2 hdy
    rw [hw.retired r (hnamed _ hin rfl) hdy (staged_none_of_retire h hin), withdrawn_dying hdy]
  by_cases hl : (s.row r).phase = .live
  · rw [withdrawn_live hl]
    cases hc : (s.row r).staged with
    | some c =>
      have hin := (h.stagedAmends r).2 ⟨hl, by rw [hc]; rfl⟩
      exact (hw.amended r c (hnamed _ hin rfl) hl hc).1
    | none =>
      have hno : ¬namesRow st.items r := by
        rintro (hin | hin | hin) <;> rw [← hsi] at hin
        · exact hns ((h.stagedInserts r).1 hin)
        · have := ((h.stagedAmends r).1 hin).2
          rw [hc] at this; cases this
        · exact hdy ((h.stagedRetires r).1 hin)
      rw [hw.otherRows r hno, ← hc]
  · have hno : ¬namesRow st.items r := by
      rintro (hin | hin | hin) <;> rw [← hsi] at hin
      · exact hns ((h.stagedInserts r).1 hin)
      · exact hl ((h.stagedAmends r).1 hin).1
      · exact hdy ((h.stagedRetires r).1 hin)
    rw [hw.otherRows r hno, withdrawn_other hns hl hdy]

/-- A row that a withdraw leaves keeps its form (R2, R19). -/
theorem Row.shaped_withdrawn {z : Row} (h : z.shaped) : z.withdrawn.shaped := by
  by_cases hns : z.phase = .newStaged
  · rw [withdrawn_newStaged hns]; rfl
  by_cases hdy : z.phase = .dying
  · rw [withdrawn_dying hdy]
    simp only [Row.shaped, hdy] at h ⊢
    obtain ⟨h1, h2, h3, h4, -⟩ := h
    exact ⟨h1, h2, h3, h4⟩
  by_cases hl : z.phase = .live
  · rw [withdrawn_live hl]
    simpa only [Row.shaped, hl] using h
  · rw [withdrawn_other hns hl hdy]
    exact h

theorem storesKept_withdrawSet (h : s.StoresKept) (hs : s.staged = some st) (hx : s.session = none) : (s.withdrawSet st).StoresKept := by
  have hp := h.parts
  have hw := withdrawn_of_withdrawSet hs hx
  have hsi : s.stagedItems = st.items := by simp only [State.stagedItems, hs]
  have hnil : s.items = [] := by simp only [State.items, hx]
  have hrow := withdrawn_row_of_kept h hs hw
  obtain ⟨hcopy, -, hfreed⟩ := hw.freed h
  have hout (r : Nat) (hl : (s.row r).outlived) : (s.row r).withdrawn.outlived := by
    obtain hl | hl | hl := hl
    · rw [withdrawn_live hl]; exact .inl hl
    · rw [withdrawn_dying hl]; exact .inl rfl
    · rw [withdrawn_other] <;> simp [Row.outlived, hl]
  have hitems : (s.withdrawSet st).items = [] := by simp only [State.items, hw.session]
  have hstaged : (s.withdrawSet st).stagedItems = [] := by simp only [State.stagedItems, hw.staged]
  have hphase (r : Nat) : (s.row r).withdrawn.phase = .free ∨ (s.row r).withdrawn.phase = .live ∨ (s.row r).withdrawn.phase = .dead := by
    by_cases hns : (s.row r).phase = .newStaged
    · rw [withdrawn_newStaged hns]; exact .inl rfl
    by_cases hdy : (s.row r).phase = .dying
    · rw [withdrawn_dying hdy]; exact .inr (.inl rfl)
    by_cases hl : (s.row r).phase = .live
    · rw [withdrawn_live hl]; exact .inr (.inl hl)
    · rw [withdrawn_other hns hl hdy]
      cases hph : (s.row r).phase
      case free => exact .inl rfl
      case dead => exact .inr (.inr rfl)
      case newDraft => exact absurd hph (undrafted_of_none h hx r).1
      case newStaged => exact absurd hph hns
      case live => exact absurd hph hl
      case dying => exact absurd hph hdy
  have hdraft (r : Nat) : (s.row r).withdrawn.draft = none ∧ (s.row r).withdrawn.staged = none := by
    have hd := (undrafted_of_none h hx r).2
    by_cases hns : (s.row r).phase = .newStaged
    · rw [withdrawn_newStaged hns]; exact ⟨rfl, rfl⟩
    by_cases hdy : (s.row r).phase = .dying
    · rw [withdrawn_dying hdy]
      exact ⟨hd, staged_none_of_retire h ((h.stagedRetires r).2 hdy)⟩
    by_cases hl : (s.row r).phase = .live
    · rw [withdrawn_live hl]; exact ⟨hd, rfl⟩
    · rw [withdrawn_other hns hl hdy]
      refine ⟨hd, Option.not_isSome_iff_eq_none.1 fun hst => ?_⟩
      obtain hph | hph := stagedCopy_phase h hst
      · exact hns hph
      · exact hl hph
  have hlive (r : Nat) : (s.row r).withdrawn.live = (s.row r).live := by
    by_cases hns : (s.row r).phase = .newStaged
    · rw [withdrawn_newStaged hns]
      have hsh := h.rows r
      simp only [Row.shaped, hns] at hsh
      exact hsh.2.2.2.1.symm
    by_cases hdy : (s.row r).phase = .dying
    · rw [withdrawn_dying hdy]
    by_cases hl : (s.row r).phase = .live
    · rw [withdrawn_live hl]
    · rw [withdrawn_other hns hl hdy]
  have hstate (c : Nat) (hc : c ∈ s.stagedOf st.items) : (s.copy c).state = .staged := (mem_stagedOf h c).1 (hsi ▸ hc)
  have hmem (c : Nat) : c ∈ s.stagedOf st.items ↔ (s.copy c).state = .staged := by rw [← hsi]; exact mem_stagedOf h c
  have hgone (c : Nat) (hc : c ∈ s.stagedOf st.items) : (s.withdrawSet st).copy c = Copy.free := by rw [hcopy, if_pos (hstate c hc)]
  have hstay (c : Nat) (hc : c ∉ s.stagedOf st.items) : (s.withdrawSet st).copy c = s.copy c := by
    rw [hcopy, if_neg (fun hst => hc ((hmem c).2 hst))]
  have htables : (s.withdrawSet st).TablesWf := by
    rw [withdrawSet_eq]
    exact (State.TablesWf.foldl (fun _ i hu => hu.withdrawSlot i) st.items
      (State.TablesWf.forEach (fun r _ hu => hu.withdrawRow r) (rowsNamed st.items) hp.tables)).of_same rfl rfl rfl
  refine State.StoresParts.kept ⟨htables, ?_, ?_, ?_, ?_, ?_, ?_, ?_⟩
  · refine hp.owners.free (fun c => c ∈ s.stagedOf st.items) hgone (fun c hc => ?_) (fun r => ?_) (fun r st' c => ?_)
      (fun c r _ _ _ hl => ?_) fun r hd => ?_
    · rw [hstay c hc]; exact ⟨rfl, rfl, h.copies c⟩
    · rw [hrow]; exact Row.shaped_withdrawn (h.rows r)
    · rw [hrow]
      refine hp.owners.names_forgotten hstate (fun st' hst => ?_) (.inr ⟨(hdraft r).2, fun c hc => ?_⟩) st' c
      · cases st' with
        | draft => exact (hdraft r).1.trans (undrafted_of_none h hx r).2.symm
        | live => exact hlive r
        | staged => exact absurd rfl hst
        | free | superseded => rfl
      · exact (hmem c).2 ((h.staged r c).1 hc).1
    · rw [hrow]; exact hout r hl
    · rw [hrow] at hd ⊢
      have hd' : (s.row r).phase = .dead := by
        by_cases hns : (s.row r).phase = .newStaged
        · rw [withdrawn_newStaged hns] at hd; cases hd
        by_cases hdy : (s.row r).phase = .dying
        · rw [withdrawn_dying hdy] at hd; cases hd
        by_cases hl : (s.row r).phase = .live
        · rw [withdrawn_live hl] at hd; exact nomatch hl.symm.trans hd
        · rwa [withdrawn_other hns hl hdy] at hd
      have hsame : (s.row r).withdrawn = s.row r := withdrawn_other (by simp [hd']) (by simp [hd']) (by simp [hd'])
      obtain ⟨⟨c, hc⟩, hdies⟩ := h.dead r hd'
      refine ⟨⟨c, hc, fun hin => ?_⟩, fun d hdd => ?_⟩
      · have hn := hp.owners.named c r hc (by rw [hstate c hin]; exact (fun he => nomatch he))
        rw [Row.names_dead (h.rows r) hd'] at hn
        cases hn
      · rw [hsame] at hdd
        exact (hdies d hdd).trans (le_of_eq hw.control.epoch.symm)
  · have hsup : (s.withdrawSet st).superseded = s.superseded.filter (fun c => decide (c ∉ s.stagedOf st.items)) := by
      rw [hfreed.superseded]
      refine (List.filter_eq_self.2 fun c hc => ?_).symm
      rw [decide_eq_true_eq]
      intro hin
      exact nomatch (hstate c hin).symm.trans ((h.list.2 c).1 hc)
    rw [hsup, hfreed.free]
    exact hp.pool.frees (hsi ▸ stagedOf_nodup h) (fun c hc => by rw [hstate c hc]; exact (fun he => nomatch he))
      (fun c hc => by rw [hgone c hc]; rfl) fun c hc => by rw [hstay c hc]
  · have hidx : (s.withdrawSet st).spanIndex = s.spanIndex.filter (fun it => !decide ((s.row it.row).phase = .newStaged)) := by
      rw [hw.index]
      refine List.filter_congr fun it _ => ?_
      by_cases hns : (s.row it.row).phase = .newStaged
      · have hin : it.row ∈ rowsNamed st.items := List.mem_filterMap.2 ⟨_, hsi ▸ (h.stagedInserts it.row).2 hns, rfl⟩
        simp [hns, hin]
      · simp [hns]
    rw [hidx]
    refine hp.index.free (G := fun r => decide ((s.row r).phase = .newStaged)) (fun r hr => ?_) (fun r hr => ?_) fun r hr => ?_
    · rw [hrow, withdrawn_newStaged (of_decide_eq_true hr)]
    · rw [hrow]
      by_cases hdy : (s.row r).phase = .dying
      · rw [withdrawn_dying hdy]
      by_cases hl : (s.row r).phase = .live
      · rw [withdrawn_live hl]
      · rw [withdrawn_other (of_decide_eq_false hr) hl hdy]
    · rw [hrow]
      intro hne hf
      exact hne (by rw [withdrawn_other] <;> simp [hf])
  · rw [hitems, hstaged]
    constructor
    case inserts => intro r; rw [hrow]; obtain hph | hph | hph := hphase r <;> simp [hph]
    case amends => intro r; rw [hrow]; simp [(hdraft r).1]
    case retires => intro r hr; cases hr
    case stagedInserts => intro r; rw [hrow]; obtain hph | hph | hph := hphase r <;> simp [hph]
    case stagedAmends => intro r; rw [hrow]; simp [(hdraft r).2]
    case stagedRetires => intro r; rw [hrow]; obtain hph | hph | hph := hphase r <;> simp [hph]
  · rw [hitems, hstaged]
    refine hp.slotItems.discarded (fun k => .defineProfile k ∈ st.items) hw.defined hfreed.references (fun k => ?_) fun k => ?_
    · rw [hnil]; simp
    · rw [hsi]; simp
  · rw [hitems]; exact itemsOnce_nil
  · rw [hstaged]; exact itemsOnce_nil

end Sys2Proof.Machine
end

section
/-! PROOF. The stores' condition at the switch (O57). -/

namespace Sys2Proof.Machine

variable {s t : State} {st : StagedSet} {trig : Trigger}

/-! ### The copies (R33, R34) -/

theorem Row.supersedes_eq_some {z : Row} {c : Nat} (h : z.supersedes = some c) :
    z.live = some c ∧ (z.phase = .live ∧ z.staged.isSome = true ∨ z.phase = .dying) := by
  unfold Row.supersedes at h
  cases hp : z.phase <;> simp only [hp] at h
  case live =>
    split at h
    next hs => exact ⟨h, .inl ⟨rfl, hs⟩⟩
    next => cases h
  case dying => exact ⟨h, .inr rfl⟩
  all_goals cases h

theorem Row.supersedes_of_live {z : Row} (hp : z.phase = .live) (hs : z.staged.isSome = true) : z.supersedes = z.live := by
  simp only [Row.supersedes, hp, hs, if_true]

theorem Row.supersedes_of_dying {z : Row} (hp : z.phase = .dying) : z.supersedes = z.live := by
  simp only [Row.supersedes, hp]

/-- The superseded list while no copy that joins is on it already. -/
theorem superseded_forEach_supersede_of_new {e : Nat} {l : List Nat} (h : ∀ c ∈ l, c ∉ s.superseded) :
    (State.forEach (State.supersede e) l s).superseded = s.superseded := by
  induction l generalizing s with
  | nil => rfl
  | cons c l ih =>
    have hc : (State.supersede e c s).superseded = s.superseded := by
      rw [supersede_eq]
      split
      · rw [freeCopy_superseded]
        refine List.filter_eq_self.2 fun d hd => decide_eq_true ?_
        rintro rfl
        exact h d List.mem_cons_self hd
      · rfl
    rw [State.forEach, ih (fun d hd => hc ▸ h d (List.mem_cons_of_mem _ hd)), hc]

/-- The state of a switch with its supersessions made, before the list of SUPERSEDED copies is written. -/
def State.switchSuperseded (e : Nat) (items : List ChangeItem) (s : State) : State :=
  State.forEach (State.supersede e) (sortAscending (s.outgoing items)) (s.switchRows e items)

theorem switchCopies_eq (e : Nat) (items : List ChangeItem) (s : State) : s.switchCopies e items =
    (s.switchSuperseded e items).setSuperseded ((s.switchSuperseded e items).superseded ++
      (sortAscending (s.outgoing items)).filter (fun c => decide (((s.switchSuperseded e items).copy c).state = .superseded))) := rfl

theorem switchSuperseded_superseded {e : Nat} {items : List ChangeItem} (h : ∀ c ∈ s.outgoing items, c ∉ s.superseded) :
    (s.switchSuperseded e items).superseded = s.superseded := by
  have hrows : (s.switchRows e items).superseded = s.superseded := forEach_keep (f := State.switchRow e) State.superseded (fun _ _ => rfl) _ _
  refine (superseded_forEach_supersede_of_new fun c hc => ?_).trans hrows
  rw [hrows]
  exact h c ((mem_sortAscending c _).1 hc)

/-- The superseded list after a switch: as it was, with the superseded copies behind it (R34, R39). -/
theorem switchSet_superseded_of_new (h : ∀ c ∈ s.outgoing st.items, c ∉ s.superseded) : (s.switchSet trig st).superseded =
    s.superseded ++ (sortAscending (s.outgoing st.items)).filter
      (fun c => decide (((s.switchSet trig st).copy c).state = .superseded)) := by
  have hcopy (c : Nat) : (s.switchSet trig st).copy c =
      ((s.setEpoch (s.epoch + 1)).switchSuperseded (s.epoch + 1) st.items).copy c := by
    rw [switchSet_copy, switchStores_eq, forEach_keep (f := State.buryRow (s.epoch + 1)) (fun u => u.copy c) (fun r u => by simp [State.copy])]
    rfl
  rw [switchSet_superseded, switchStores_eq,
    forEach_keep (f := State.buryRow (s.epoch + 1)) State.superseded (fun r u => buryRow_superseded _ r u), switchCopies_eq]
  refine (congrArg (· ++ _) (switchSuperseded_superseded (s := s.setEpoch (s.epoch + 1)) h)).trans (congrArg (s.superseded ++ ·) ?_)
  exact List.filter_congr fun c _ => by rw [hcopy]

/-- What becomes of copy `c` at a switch to epoch `e`: superseded with its row, activated, or kept (R33, R34). -/
def State.CopyPublished (s : State) (e c : Nat) (y : Copy) : Prop :=
  (∃ r, (s.row r).supersedes = some c ∧ (s.copy c).state = .live ∧ (s.copy c).owner = some r ∧
    y = if (s.copy c).unpinned = true then Copy.free else { s.copy c with state := .superseded, supersededAt := some e }) ∨
  (∀ r, (s.row r).supersedes ≠ some c) ∧ ((s.copy c).state = .staged ∧ y = { s.copy c with state := .live, activated := some e } ∨
    (s.copy c).state ≠ .staged ∧ y = s.copy c)

theorem copyPublished_switchSet (h : s.StoresKept) (hs : s.staged = some st) (c : Nat) :
    s.CopyPublished (s.epoch + 1) c ((s.switchSet trig st).copy c) := by
  have hto := switchSet_switchedTo trig st s
  have hsi : s.stagedItems = st.items := by simp only [State.stagedItems, hs]
  by_cases hr : ∃ r, (s.row r).supersedes = some c
  · obtain ⟨r, hr⟩ := hr
    obtain ⟨hlive, hphase⟩ := Row.supersedes_eq_some hr
    obtain ⟨hst, ho⟩ := (h.live r c).1 hlive
    have hnamed : namesRow st.items r := by
      rw [← hsi]
      obtain ⟨hl, hsome⟩ | hd := hphase
      · exact .inr (.inl ((h.stagedAmends r).2 ⟨hl, hsome⟩))
      · exact .inr (.inr ((h.stagedRetires r).2 hd))
    refine .inl ⟨r, hr, hst, ho, (hto.superseded r c hnamed hr hst).trans (if_congr ?_ rfl rfl)⟩
    simp [Copy.unpinned]
  · have hno : ∀ r, (s.row r).supersedes ≠ some c := fun r hr' => hr ⟨r, hr'⟩
    refine .inr ⟨hno, ?_⟩
    by_cases hst : (s.copy c).state = .staged
    · exact .inl ⟨hst, hto.activated c hst fun r _ => hno r⟩
    · exact .inr ⟨hst, hto.otherCopies c hst fun r _ => hno r⟩

/-! ### The rows (R16, R17) -/

/-- A row at the switch to epoch `e`: a DYING one is buried, DEAD while it owns a copy. -/
def Row.published (e : Nat) (owns : Bool) (z : Row) : Row :=
  if z.phase = .dying then if owns then { z with phase := .dead, live := none, dies := some e, watch := [] } else Row.free
  else z.switched e

/-- What becomes of each row at a switch, in a state that keeps the stores' condition. -/
theorem switchSet_row_of_kept (h : s.StoresKept) (hs : s.staged = some st) (r : Nat) : (s.switchSet trig st).row r =
    (s.row r).published (s.epoch + 1) ((s.switchSet trig st).ownsCopy r) := by
  have hto := switchSet_switchedTo trig st s
  have hsi : s.stagedItems = st.items := by simp only [State.stagedItems, hs]
  unfold Row.published
  by_cases hd : (s.row r).phase = .dying
  · rw [if_pos hd]
    have hnamed : namesRow st.items r := hsi ▸ .inr (.inr ((h.stagedRetires r).2 hd))
    obtain ⟨hown, hnone⟩ := hto.retired r hnamed hd
    by_cases ho : (s.switchSet trig st).ownsCopy r = true
    · rw [if_pos ho]
      exact hown ((ownsCopy_iff _ _).1 ho)
    · rw [if_neg ho]
      exact hnone fun c hc => ho ((ownsCopy_iff _ _).2 ⟨c, hc⟩)
  · rw [if_neg hd]
    by_cases hnamed : namesRow st.items r
    · rw [switchSet_row, (row_switchStores (s.epoch + 1) st.items (s.setEpoch (s.epoch + 1)) r).2.1 hnamed hd]
      rfl
    · rw [hto.otherRows r hnamed]
      have hns : (s.row r).phase ≠ .newStaged := fun hp => hnamed (hsi ▸ .inl ((h.stagedInserts r).2 hp))
      have hst : (s.row r).phase = .live → (s.row r).staged.isSome = false := fun hl => Bool.eq_false_iff.2 fun hsome =>
        hnamed (hsi ▸ .inr (.inl ((h.stagedAmends r).2 ⟨hl, hsome⟩)))
      unfold Row.switched
      cases hp : (s.row r).phase
      case newStaged => exact absurd hp hns
      case dying => exact absurd hp hd
      case live => simp [hst hp]
      case free | newDraft | dead => rfl

/-! ### The stores (R92 to R96) -/

/-- A row that a switch publishes: its form, the copies it names, and what of it stays (R2). -/
structure Row.PublishedAs (x y : Row) (e : Nat) (owns : Bool) : Prop where
  shaped : y.shaped
  span : y = Row.free ∨ y.span = x.span
  draft : y.draft = x.draft
  staged : y.staged = none
  live : y.live = if x.phase = .dying then none else if x.staged.isSome = true then x.staged else x.live
  phase : y.phase = if x.phase = .newStaged then .live else if x.phase = .dying then if owns then .dead else .free else x.phase
  dies : ∀ d, y.phase = .dead → y.dies = some d → d = e ∧ x.phase = .dying ∨ x.phase = .dead ∧ x.dies = some d

/-- Publication of a row in its form whose staged copy stands for an item (R16, R17). -/
theorem Row.publishedAs {x : Row} (h : x.shaped) (e : Nat) (owns : Bool) : x.PublishedAs (x.published e owns) e owns := by
  unfold Row.published
  cases hp : x.phase
  case free =>
    obtain rfl := Row.eq_free h hp
    exact ⟨rfl, .inl rfl, rfl, rfl, rfl, rfl, (fun _ hd => nomatch hd)⟩
  case newDraft =>
    obtain ⟨hl, hs, -⟩ := Row.shaped_newDraft h hp
    simp only [Row.switched, hp, reduceCtorEq, if_false]
    exact ⟨h, .inr rfl, rfl, hs, by simp [hp, hs], by simp [hp], fun d hd => nomatch hp.symm.trans hd⟩
  case newStaged =>
    simp only [Row.shaped, hp] at h
    obtain ⟨h1, h2, h3, h4, h5, h6⟩ := h
    simp only [Row.switched, hp, reduceCtorEq, if_false]
    refine ⟨?_, .inr rfl, rfl, rfl, by simp [hp, h5], by simp [hp], (fun _ hd => nomatch hd)⟩
    exact ⟨h1, rfl, h3, h5⟩
  case live =>
    simp only [Row.switched, hp, reduceCtorEq, if_false]
    by_cases hs : x.staged.isSome = true
    · rw [if_pos hs]
      simp only [Row.shaped, hp] at h
      obtain ⟨h1, h2, h3, -⟩ := h
      refine ⟨?_, .inr rfl, rfl, rfl, by simp [hp, hs], by simp [hp], (fun _ hd => nomatch hd)⟩
      simp only [Row.shaped]
      exact ⟨h1, h2, h3, hs⟩
    · rw [if_neg hs]
      exact ⟨h, .inr rfl, rfl, Option.not_isSome_iff_eq_none.1 hs, by simp [hp, hs], by simp [hp], fun d hd => nomatch hp.symm.trans hd⟩
  case dying =>
    simp only [Row.shaped, hp] at h
    obtain ⟨h1, h2, h3, h4, h5, h6⟩ := h
    rw [if_pos rfl]
    cases owns with
    | true =>
      rw [if_pos rfl]
      refine ⟨⟨h1, h2, rfl, rfl, h5, h6, rfl⟩, .inr rfl, rfl, h5, by simp [hp], by simp [hp], fun d _ hd => .inl ⟨?_, hp⟩⟩
      exact (Option.some.inj hd).symm
    | false =>
      rw [if_neg (by decide)]
      exact ⟨rfl, .inl rfl, h6.symm, rfl, by simp [hp, Row.free], by simp [hp, Row.free], (fun _ hd => nomatch hd)⟩
  case dead =>
    obtain ⟨hl, hs, -⟩ := Row.shaped_dead h hp
    simp only [Row.switched, hp, reduceCtorEq, if_false]
    exact ⟨h, .inr rfl, rfl, hs, by simp [hp, hs], by simp [hp], fun d _ hd => .inr ⟨hp, hd⟩⟩

theorem State.TablesWf.switchSet (h : s.TablesWf) (trig : Trigger) (st : StagedSet) : (s.switchSet trig st).TablesWf := by
  have hw : ((s.setEpoch (s.epoch + 1)).switchStores (s.epoch + 1) st.items).TablesWf :=
    State.TablesWf.switchStores (s := s.setEpoch (s.epoch + 1)) ⟨h.rows, h.copies, h.slots⟩ _ _
  exact hw.of_same
    (switchSet_part State.rows (fun _ _ _ => rfl) (fun _ _ => rfl) (fun _ _ => rfl) (fun _ _ => rfl) (fun _ _ => rfl))
    (switchSet_part State.copies (fun _ _ _ => rfl) (fun _ _ => rfl) (fun _ _ => rfl) (fun _ _ => rfl) (fun _ _ => rfl))
    (switchSet_part State.slots (fun _ _ _ => rfl) (fun _ _ => rfl) (fun _ _ => rfl) (fun _ _ => rfl) (fun _ _ => rfl))

section Published
variable {e : Nat} (h : s.StoresKept) (hcopy : ∀ c, s.CopyPublished e c (t.copy c))
  (hrow : ∀ r, (s.row r).PublishedAs (t.row r) e (t.ownsCopy r)) (hle : s.epoch ≤ e)
include h hcopy hrow

include hle in
theorem ownersAgree_published : OwnersAgree t.row t.copy e := by
  constructor
  case rows => exact fun r => (hrow r).shaped
  case copies =>
    intro c
    have hsh := h.copies c
    obtain ⟨r, -, hst, -, he⟩ | ⟨-, ⟨hst, he⟩ | ⟨-, he⟩⟩ := hcopy c <;> rw [he]
    · simp only [Copy.shaped, hst] at hsh
      obtain ⟨h1, h2, h3, -, h5⟩ := hsh
      split
      · rfl
      next hu => exact ⟨h1, h2, h3, rfl, h5, Bool.eq_false_iff.2 hu⟩
    · simp only [Copy.shaped, hst] at hsh
      obtain ⟨h1, h2, h3, h4, h5, h6⟩ := hsh
      exact ⟨h1, h2, rfl, h4, h6⟩
    · exact hsh
  case names =>
    intro r stt c hn
    cases stt with
    | free | superseded => cases hn
    | staged => rw [Row.names, (hrow r).staged] at hn; cases hn
    | draft =>
      rw [Row.names, (hrow r).draft] at hn
      obtain ⟨hst, ho⟩ := (h.draft r c).1 hn
      obtain ⟨r', -, hl, -⟩ | ⟨-, ⟨hl, -⟩ | ⟨-, he⟩⟩ := hcopy c
      · exact nomatch hst.symm.trans hl
      · exact nomatch hst.symm.trans hl
      · rw [he]; exact ⟨hst, ho⟩
    | live =>
      rw [Row.names, (hrow r).live] at hn
      split at hn
      · cases hn
      next hd =>
        split at hn
        next hsome =>
          obtain ⟨hst, ho⟩ := (h.staged r c).1 hn
          obtain ⟨r', -, hl, -⟩ | ⟨-, ⟨-, he⟩ | ⟨hl, -⟩⟩ := hcopy c
          · exact nomatch hst.symm.trans hl
          · rw [he]; exact ⟨rfl, ho⟩
          · exact absurd hst hl
        next hnone =>
          obtain ⟨hst, ho⟩ := (h.live r c).1 hn
          obtain ⟨r', hsup, -, ho', -⟩ | ⟨-, ⟨hl, -⟩ | ⟨-, he⟩⟩ := hcopy c
          · obtain rfl := Option.some.inj (ho'.symm.trans ho)
            obtain ⟨-, ⟨-, hsome⟩ | hdy⟩ := Row.supersedes_eq_some hsup
            · exact absurd hsome hnone
            · exact absurd hdy hd
          · exact nomatch hst.symm.trans hl
          · rw [he]; exact ⟨hst, ho⟩
  case named =>
    intro c r ho hne
    obtain ⟨r', -, -, -, he⟩ | ⟨hno, ⟨hst, he⟩ | ⟨hst, he⟩⟩ := hcopy c <;> rw [he] at ho hne ⊢
    · split at ho
      · cases ho
      next hu => rw [if_neg hu] at hne; exact absurd rfl hne
    · have hn := (h.staged r c).2 ⟨hst, ho⟩
      have hsome : (s.row r).staged.isSome = true := by rw [hn]; rfl
      have hnd : (s.row r).phase ≠ .dying := fun hd => by
        obtain hp' | hp' := stagedCopy_phase h hsome <;> exact nomatch hd.symm.trans hp'
      show (t.row r).live = some c
      rw [(hrow r).live, if_neg hnd, if_pos hsome, hn]
    · have hn := h.parts.owners.named c r ho hne
      cases hcs : (s.copy c).state
      case superseded => exact absurd hcs hne
      case staged => exact absurd hcs hst
      case free => rw [hcs] at hn; cases hn
      case draft =>
        rw [hcs] at hn
        exact (hrow r).draft.trans hn
      case live =>
        rw [hcs] at hn
        have hn' : (s.row r).live = some c := hn
        show (t.row r).live = some c
        have hnd : (s.row r).phase ≠ .dying := fun hd => hno r (by rw [Row.supersedes_of_dying hd]; exact hn')
        have hns : ¬(s.row r).staged.isSome = true := fun hsome => by
          obtain hp' | hp' := stagedCopy_phase h hsome
          · have hsh := h.rows r
            simp only [Row.shaped, hp'] at hsh
            exact nomatch hn'.symm.trans hsh.2.2.2.1
          · exact hno r (by rw [Row.supersedes_of_live hp' hsome]; exact hn')
        rw [(hrow r).live, if_neg hnd, if_neg hns]
        exact hn'
  case outlives =>
    intro c r ho hsup
    have howns : t.ownsCopy r = true := (ownsCopy_iff _ _).2 ⟨c, ho⟩
    have hout : (s.row r).phase = .live ∨ (s.row r).phase = .dying ∨ (s.row r).phase = .dead := by
      obtain ⟨r', hr', -, ho', he⟩ | ⟨-, ⟨-, he⟩ | ⟨-, he⟩⟩ := hcopy c <;> rw [he] at ho hsup
      · split at ho
        · cases ho
        next =>
          obtain rfl := Option.some.inj (ho'.symm.trans ho)
          obtain ⟨-, ⟨hl, -⟩ | hd⟩ := Row.supersedes_eq_some hr'
          · exact .inl hl
          · exact .inr (.inl hd)
      · cases hsup
      · exact h.owner r c hsup ho
    rw [(hrow r).phase, howns]
    obtain hl | hl | hl := hout <;> simp [hl]
  case dead =>
    intro r hd
    have hph := (hrow r).phase
    rw [hd] at hph
    refine ⟨?_, fun d hdd => ?_⟩
    · by_cases hdy : (s.row r).phase = .dying
      · rw [if_neg (by simp [hdy]), if_pos hdy] at hph
        cases howns : t.ownsCopy r with
        | true => exact (ownsCopy_iff _ _).1 howns
        | false => rw [howns] at hph; cases hph
      · have hns : (s.row r).phase ≠ .newStaged := fun hns => by rw [if_pos hns] at hph; cases hph
        rw [if_neg hns, if_neg hdy] at hph
        obtain ⟨⟨c, hc⟩, -⟩ := h.dead r hph.symm
        have hnames (stt : CopyState) := Row.names_dead (h.rows r) hph.symm stt
        refine ⟨c, ?_⟩
        obtain ⟨r', -, hst, -, -⟩ | ⟨-, ⟨hst, -⟩ | ⟨-, he⟩⟩ := hcopy c
        · exact nomatch (hnames .live).symm.trans ((h.live r c).2 ⟨hst, hc⟩)
        · exact nomatch (hnames .staged).symm.trans ((h.staged r c).2 ⟨hst, hc⟩)
        · rw [he]; exact hc
    · obtain ⟨rfl, -⟩ | ⟨hd', hdies⟩ := (hrow r).dies d hd hdd
      · exact Nat.le_refl _
      · exact ((h.dead r hd').2 d hdies).trans hle

omit hcopy in
theorem rowItems_published {items : List ChangeItem} (hi : items = s.items) : RowItems t.row items [] := by
  subst hi
  have hphase (r : Nat) : (t.row r).phase ≠ .newStaged ∧ (t.row r).phase ≠ .dying := by
    rw [(hrow r).phase]
    split
    · simp
    next hns =>
      split
      · split <;> simp
      next hd => exact ⟨hns, hd⟩
  have hnd (r : Nat) : (t.row r).phase = .newDraft ↔ (s.row r).phase = .newDraft := by
    rw [(hrow r).phase]
    split
    next hns => simp [hns]
    next =>
      split
      next hd => rw [hd]; split <;> simp
      next => rfl
  constructor
  case inserts => exact fun r => (h.inserts r).trans (hnd r).symm
  case amends =>
    intro r
    rw [(hrow r).draft, Ne, hnd]
    exact h.amends r
  case retires =>
    intro r hr
    rw [(hrow r).phase]
    obtain hl | hl := h.retires r hr <;> simp [hl]
  case stagedInserts => intro r; simp [(hphase r).1]
  case stagedAmends => intro r; simp [(hrow r).staged]
  case stagedRetires => intro r; simp [(hphase r).2]

omit h hcopy in
/-- A row is FREE after a switch just when it was FREE or is a DYING one that owns no copy. -/
theorem published_free_iff (r : Nat) : (t.row r).phase = .free ↔
    (s.row r).phase = .free ∨ (s.row r).phase = .dying ∧ t.ownsCopy r = false := by
  rw [(hrow r).phase]
  split
  next hns => simp [hns]
  next =>
    split
    next hd =>
      rw [hd]
      cases t.ownsCopy r <;> simp
    next hd => simp [hd]

omit hcopy in
theorem rowsIndexed_published {index : List IndexItem} (hidx : index = s.spanIndex.filter
    (fun it => !(decide ((s.row it.row).phase = .dying) && decide ((t.row it.row).phase = .free)))) : RowsIndexed t.row index := by
  subst hidx
  refine h.parts.index.free (G := fun r => decide ((s.row r).phase = .dying) && decide ((t.row r).phase = .free)) (fun r hr => ?_)
    (fun r hr => ?_) fun r _ hne hf => hne ((published_free_iff hrow r).2 (.inl hf))
  · rw [Bool.and_eq_true, decide_eq_true_eq, decide_eq_true_eq] at hr
    exact Row.eq_free (hrow r).shaped hr.2
  · obtain hf | hsp := (hrow r).span
    · have hph : (t.row r).phase = .free := by rw [hf]; rfl
      obtain hsf | ⟨hd, -⟩ := (published_free_iff hrow r).1 hph
      · rw [hf, Row.eq_free (h.rows r) hsf]
      · simp [hd, hph] at hr
    · exact hsp

omit hrow in
theorem poolCounted_published {old : List Nat} (hold : old.Nodup)
    (hmem : ∀ c, c ∈ old ↔ ∃ r, (s.row r).supersedes = some c) :
    PoolCounted t.copy (s.superseded ++ old.filter (fun c => decide ((t.copy c).state = .superseded)))
      (s.freeCount + old.countP (fun c => (s.copy c).unpinned)) := by
  have hp := h.parts.pool
  have hlive (c : Nat) (hc : c ∈ old) : (s.copy c).state = .live := by
    obtain ⟨r, hr⟩ := (hmem c).1 hc
    exact ((h.live r c).1 (Row.supersedes_eq_some hr).1).1
  have hin (c : Nat) (hc : c ∈ old) : (t.copy c).state = if (s.copy c).unpinned = true then .free else .superseded := by
    obtain ⟨r, hr, -, -, he⟩ | ⟨hno, -⟩ := hcopy c
    · rw [he]
      split <;> rfl
    · obtain ⟨r, hr⟩ := (hmem c).1 hc
      exact absurd hr (hno r)
  have hout (c : Nat) (hc : c ∉ old) : (t.copy c).state = if (s.copy c).state = .staged then .live else (s.copy c).state := by
    obtain ⟨r, hr, -⟩ | ⟨-, ⟨hst, he⟩ | ⟨hst, he⟩⟩ := hcopy c
    · exact absurd ((hmem c).2 ⟨r, hr⟩) hc
    · rw [he, if_pos hst]
    · rw [he, if_neg hst]
  have hnew (c : Nat) (hc : c ∈ old) : c ∉ s.superseded := fun hs => nomatch (hlive c hc).symm.trans ((hp.mem c).1 hs)
  constructor
  case bound =>
    intro c hc
    refine hp.bound c fun hf => hc ?_
    have hco : c ∉ old := fun hco => nomatch hf.symm.trans (hlive c hco)
    rw [hout c hco, hf, if_neg (by decide)]
  case nodup =>
    refine List.nodup_append.2 ⟨hp.nodup, hold.filter _, ?_⟩
    rintro c hc d hd rfl
    exact hnew c (List.mem_of_mem_filter hd) hc
  case mem =>
    intro c
    rw [List.mem_append, List.mem_filter, decide_eq_true_eq, hp.mem]
    by_cases hc : c ∈ old
    · simp [hc, hlive c hc]
    · rw [hout c hc]
      simp only [hc, false_and, or_false]
      split
      next hst => simp [hst]
      next => rfl
  case count =>
    rw [hp.count]
    have hlen : old.countP (fun c => (s.copy c).unpinned) = (old.filter (fun c => (s.copy c).unpinned)).length :=
      List.countP_eq_length_filter
    rw [hlen]
    refine (countP_range_add (hold.filter _) (fun c hc => ?_) (fun c hc => ?_) fun c => ?_).symm
    · have hco := List.mem_of_mem_filter hc
      exact hp.bound c (by rw [hlive c hco]; exact (fun he => nomatch he))
    · rw [hlive c (List.mem_of_mem_filter hc)]; rfl
    · rw [Bool.eq_iff_iff, Bool.or_eq_true, decide_eq_true_eq, decide_eq_true_eq, decide_eq_true_eq, List.mem_filter]
      by_cases hc : c ∈ old
      · rw [hin c hc, hlive c hc]
        cases (s.copy c).unpinned <;> simp [hc]
      · rw [hout c hc]
        simp only [hc, false_and, or_false]
        split
        next hst => simp [hst]
        next => rfl

end Published

/-- The slots after a switch: the STAGED ones ACTIVE (R51). -/
theorem slotItems_published {slot slot' : Nat → Slot} {items staged : List ChangeItem} (h : SlotItems slot items staged) {e : Nat}
    (hs : ∀ k, (slot k).state = .staged → (slot' k).state = .active ∧ (slot' k).activated = some e ∧ (slot' k).points = (slot k).points)
    (hother : ∀ k, (slot k).state ≠ .staged → (slot' k).state = (slot k).state ∧ (slot' k).activated = (slot k).activated ∧
      (slot' k).points = (slot k).points)
    (hfree : ∀ k, slot k = Slot.free → slot' k = Slot.free) : SlotItems slot' items [] := by
  constructor
  case bound =>
    intro k hk
    refine h.bound k fun hf => hk ?_
    rw [(hother k (by rw [hf]; exact (fun he => nomatch he))).1, hf]
  case slots =>
    intro k
    by_cases hst : (slot k).state = .staged
    · obtain ⟨h1, h2, h3⟩ := hs k hst
      have hsh := h.slots k
      simp only [Slot.shaped, hst, h1] at hsh ⊢
      rw [h2, h3]
      exact ⟨rfl, hsh.2⟩
    · exact slot_shaped_of_same (h.slots k) (hother k hst) (hfree k)
  case defines =>
    intro k
    rw [h.defines]
    by_cases hst : (slot k).state = .staged
    · simp [hst, (hs k hst).1]
    · rw [(hother k hst).1]
  case stagedDefines =>
    intro k
    by_cases hst : (slot k).state = .staged
    · simp [(hs k hst).1]
    · simpa [(hother k hst).1] using hst

theorem mem_outgoing_of_kept (h : s.StoresKept) (hs : s.staged = some st) (c : Nat) :
    c ∈ s.outgoing st.items ↔ ∃ r, (s.row r).supersedes = some c := by
  have hsi : s.stagedItems = st.items := by simp only [State.stagedItems, hs]
  rw [State.outgoing, List.mem_filterMap]
  refine ⟨fun ⟨r, _, hr⟩ => ⟨r, hr⟩, fun ⟨r, hr⟩ => ⟨r, ?_, hr⟩⟩
  rw [← hsi]
  obtain ⟨-, ⟨hl, hsome⟩ | hd⟩ := Row.supersedes_eq_some hr
  · exact List.mem_filterMap.2 ⟨_, (h.stagedAmends r).2 ⟨hl, hsome⟩, rfl⟩
  · exact List.mem_filterMap.2 ⟨_, (h.stagedRetires r).2 hd, rfl⟩

theorem outgoing_nodup (h : s.StoresKept) (hs : s.staged = some st) : (s.outgoing st.items).Nodup := by
  have hsi : s.stagedItems = st.items := by simp only [State.stagedItems, hs]
  refine nodup_filterMap_of_owner (s := s) (hsi ▸ h.stagedOnce.rows) fun r _ c hc => ?_
  exact ((h.live r c).1 (Row.supersedes_eq_some hc).1).2

/-- A switch keeps the stores' condition: what it says of rows, copies and the pool's counts decides the parts. -/
theorem storesKept_published (h : s.StoresKept) (hs : s.staged = some st) (hto : s.SwitchedTo trig st t) (htables : t.TablesWf)
    (hcopy : ∀ c, s.CopyPublished (s.epoch + 1) c (t.copy c))
    (hrow : ∀ r, (s.row r).PublishedAs (t.row r) (s.epoch + 1) (t.ownsCopy r))
    (hlist : t.superseded = s.superseded ++ (sortAscending (s.outgoing st.items)).filter
      (fun c => decide ((t.copy c).state = .superseded)))
    (hfree : t.freeCount = s.freeCount + (s.outgoing st.items).countP (fun c => (s.copy c).unpinned)) : t.StoresKept := by
  have hp := h.parts
  have hsi : s.stagedItems = st.items := by simp only [State.stagedItems, hs]
  have hold := outgoing_nodup h hs
  have hpool := poolCounted_published h hcopy (old := sortAscending (s.outgoing st.items)) ((sortAscending_perm _).nodup_iff.2 hold)
    fun c => (mem_sortAscending c _).trans (mem_outgoing_of_kept h hs c)
  have hslots (k : Nat) (hk : s.slot k = Slot.free) : t.slot k = Slot.free := by
    have href := hto.references hold k
    obtain ⟨h1, h2, h3, h4⟩ := hto.otherSlots k (by rw [hk]; exact (fun he => nomatch he))
    rw [hk] at h1 h2 h3 h4 href
    generalize t.slot k = y at *
    cases y
    simp_all [Slot.free]
  have hindex : t.spanIndex = s.spanIndex.filter
      (fun it => !(decide ((s.row it.row).phase = .dying) && decide ((t.row it.row).phase = .free))) := by
    rw [hto.index]
    refine List.filter_congr fun it _ => ?_
    by_cases hd : (s.row it.row).phase = .dying
    · have hin : it.row ∈ rowsNamed st.items := List.mem_filterMap.2 ⟨_, hsi ▸ (h.stagedRetires it.row).2 hd, rfl⟩
      simp [hd, hin]
    · simp [hd]
  have hstaged : t.stagedItems = [] := by simp only [State.stagedItems, hto.staged]
  have hitems : t.items = s.items := by simp only [State.items, hto.session]
  refine State.StoresParts.kept ⟨htables, ?_, ?_, ?_, ?_, ?_, ?_, ?_⟩
  · rw [hto.epoch]
    exact ownersAgree_published h hcopy hrow (Nat.le_succ _)
  · rw [hlist, hfree, ← (sortAscending_perm _).countP_eq]; exact hpool
  · exact rowsIndexed_published h hrow hindex
  · rw [hstaged]; exact rowItems_published h hrow hitems
  · rw [hitems, hstaged]
    refine slotItems_published hp.slotItems hto.slots (fun k hk => ?_) hslots
    obtain ⟨h1, h2, h3, -⟩ := hto.otherSlots k hk
    exact ⟨h1, h2, h3⟩
  · rw [hitems]; exact h.itemsOnce
  · rw [hstaged]; exact itemsOnce_nil

theorem storesKept_switchSet (h : s.StoresKept) (hs : s.staged = some st) (trig : Trigger) : (s.switchSet trig st).StoresKept := by
  refine storesKept_published h hs (switchSet_switchedTo trig st s) (h.parts.tables.switchSet trig st)
    (copyPublished_switchSet h hs) (fun r => ?_) (switchSet_superseded_of_new fun c hc hin => ?_) switchSet_freeCount
  · rw [switchSet_row_of_kept h hs]
    exact Row.publishedAs (h.rows r) _ _
  · obtain ⟨r, hr⟩ := (mem_outgoing_of_kept h hs c).1 hc
    exact nomatch ((h.list.2 c).1 hin).symm.trans ((h.live r c).1 (Row.supersedes_eq_some hr).1).1

end Sys2Proof.Machine
end

section
/-! PROOF. The stores' condition at CLEAR_ALL and at a restore's loading, and so at every move (O57). -/

namespace Sys2Proof.Machine

variable {s t : State}

theorem items_of_none (h : s.session = none) : s.items = [] := by simp only [State.items, h]

theorem stagedItems_of_none (h : s.staged = none) : s.stagedItems = [] := by simp only [State.stagedItems, h]

/-! ### Empty stores (R175, R190) -/

theorem State.StoresEmpty.storesKept (h : s.StoresEmpty) (hx : s.session = none) (hs : s.staged = none) : s.StoresKept :=
  storesKept_of_empty h.rows h.index h.copies h.superseded h.free h.slots (items_of_none hx) (stagedItems_of_none hs)

theorem emptyStores_session (s : State) : s.emptyStores.session = s.session :=
  emptyStores_keep State.session (fun _ _ => rfl) (fun _ _ => rfl) (fun _ _ => rfl) (fun _ _ => rfl) (fun _ _ => rfl) (fun _ _ => rfl)
    (fun _ _ => rfl) s

theorem emptyStores_staged (s : State) : s.emptyStores.staged = s.staged :=
  emptyStores_keep State.staged (fun _ _ => rfl) (fun _ _ => rfl) (fun _ _ => rfl) (fun _ _ => rfl) (fun _ _ => rfl) (fun _ _ => rfl)
    (fun _ _ => rfl) s

theorem storesKept_clearStores (hx : s.session = none) : s.clearStores.StoresKept := by
  have h := storesEmpty_emptyStores s
  have hkeep {α : Type} (g : State → α) (hg : ∀ (u : State) n l, g (u.putLink n l) = g u) := clearStores_keep g hg s
  refine storesKept_of_empty ?_ ?_ ?_ ?_ ?_ ?_ (items_of_none ?_) (stagedItems_of_none ?_)
  · exact (hkeep State.rows fun _ _ _ => rfl).trans h.rows
  · exact (hkeep State.spanIndex fun _ _ _ => rfl).trans h.index
  · exact (hkeep State.copies fun _ _ _ => rfl).trans h.copies
  · exact (hkeep State.superseded fun _ _ _ => rfl).trans h.superseded
  · exact (hkeep State.freeCount fun _ _ _ => rfl).trans h.free
  · exact (hkeep State.slots fun _ _ _ => rfl).trans h.slots
  · exact ((hkeep State.session fun _ _ _ => rfl).trans (emptyStores_session s)).trans hx
  · exact hkeep State.staged fun _ _ _ => rfl

/-! ### A restore's loading (R173) -/

theorem storesKept_slotsFreed (h : s.StoresKept) (hl : s.Loading) : (s.setSlots []).StoresKept := by
  have hp := h.parts
  have hi : (s.setSlots []).items = [] := items_of_none hl.session
  have hs : (s.setSlots []).stagedItems = [] := stagedItems_of_none hl.staged
  refine State.StoresParts.kept ⟨⟨hp.tables.rows, hp.tables.copies, rfl⟩, hp.owners, hp.pool, hp.index, hp.rowItems, ?_, hp.once, hp.stagedOnce⟩
  rw [hi, hs]
  exact ⟨fun _ hk => absurd rfl hk, fun _ => rfl, fun _ => ⟨(fun h => nomatch h), (fun h => nomatch h)⟩,
    fun _ => ⟨(fun h => nomatch h), (fun h => nomatch h)⟩⟩

theorem storesKept_profileLoaded (h : s.StoresKept) (hl : s.Loading) {k e : Nat} {pts : List Point} (hk : k < 32)
    (hf : (s.slot k).state = .free) : (s.putSlot k
      { state := .active, activated := some e, points := some pts, refCount := 0, readerCount := 0 }).StoresKept := by
  refine storesKept_putSlot h hk ⟨rfl, rfl⟩ ?_ (by rw [hf]; exact (fun he => nomatch he)) (fun he => nomatch he)
  rw [items_of_none hl.session]
  exact ⟨(fun h => nomatch h), (fun h => nomatch h)⟩

/-- With neither set there is no row but FREE, LIVE and DEAD ones, with nothing drafted or staged. -/
theorem rowItems_nil_iff {row : Nat → Row} : RowItems row [] [] ↔ ∀ r, (row r).phase ≠ .newDraft ∧ (row r).draft = none ∧
    (row r).phase ≠ .newStaged ∧ ((row r).phase = .live → (row r).staged = none) ∧ (row r).phase ≠ .dying := by
  constructor
  · intro h r
    have hnd : (row r).phase ≠ .newDraft := fun hp => nomatch (h.inserts r).2 hp
    exact ⟨hnd, Option.not_isSome_iff_eq_none.1 fun hd => (nomatch (h.amends r).2 ⟨hnd, hd⟩),
      fun hp => (nomatch (h.stagedInserts r).2 hp),
      fun hl => Option.not_isSome_iff_eq_none.1 fun hs => (nomatch (h.stagedAmends r).2 ⟨hl, hs⟩),
      fun hp => (nomatch (h.stagedRetires r).2 hp)⟩
  · intro h
    constructor <;> intro r <;> obtain ⟨h1, h2, h3, h4, h5⟩ := h r
    case inserts => simp [h1]
    case amends => simp [h2]
    case retires => simp
    case stagedInserts => simp [h3]
    case stagedAmends => simpa using h4
    case stagedRetires => simp [h5]

theorem storesKept_recordLoaded (h : s.StoresKept) (hl : s.Loading) {r c e : Nat} {sp : Span} {b : Body} (hfit : s.RecordFits r sp b)
    (hc : s.lowestFreeCopy = some c) : ((s.claimRow r sp (Row.loaded sp e c)).allocCopy c (Copy.loaded r e b)).StoresKept := by
  obtain ⟨hc2560, hcf⟩ := lowestFreeCopy_some hc
  obtain ⟨hr1024, hrf, -, -, hb⟩ := hfit
  have hp := h.parts
  have hrow0 : s.row r = Row.free := Row.eq_free (h.rows r) hrf
  have htables := (hp.tables.claimRow r sp (Row.loaded sp e c)).allocCopy c (Copy.loaded r e b)
  have hrow (q : Nat) : ((s.claimRow r sp (Row.loaded sp e c)).allocCopy c (Copy.loaded r e b)).row q =
      if q = r then Row.loaded sp e c else s.row q := by simp
  have hcopy (d : Nat) : ((s.claimRow r sp (Row.loaded sp e c)).allocCopy c (Copy.loaded r e b)).copy d =
      if d = c then Copy.loaded r e b else s.copy d := by simp [allocCopy_copy]
  have hslots := SlotItems.allocCopy (s := s.claimRow r sp (Row.loaded sp e c)) (y := Copy.loaded r e b) (c := c) hp.slotItems
    (bodyValid_usable hb) fun _ => Iff.rfl
  have hidx : ((s.claimRow r sp (Row.loaded sp e c)).allocCopy c (Copy.loaded r e b)).spanIndex =
      indexInsert { first := sp.first, row := r } s.spanIndex := by simp
  have hsup : ((s.claimRow r sp (Row.loaded sp e c)).allocCopy c (Copy.loaded r e b)).superseded = s.superseded := by simp
  have hfree : ((s.claimRow r sp (Row.loaded sp e c)).allocCopy c (Copy.loaded r e b)).freeCount = s.freeCount - 1 := by simp
  have hso : StoresOnly s ((s.claimRow r sp (Row.loaded sp e c)).allocCopy c (Copy.loaded r e b)) :=
    (StoresOnly.claimRow _ _ _ _).trans (StoresOnly.allocCopy _ _ _)
  generalize (s.claimRow r sp (Row.loaded sp e c)).allocCopy c (Copy.loaded r e b) = t at *
  have hrr : t.row r = Row.loaded sp e c := by rw [hrow, if_pos rfl]
  have hrows (q : Nat) (hq : q ≠ r) : t.row q = s.row q := by rw [hrow, if_neg hq]
  have hcc : t.copy c = Copy.loaded r e b := by rw [hcopy, if_pos rfl]
  have hcopies (d : Nat) (hd : d ≠ c) : t.copy d = s.copy d := by rw [hcopy, if_neg hd]
  have hi : t.items = [] := items_of_none (hso.session.trans hl.session)
  have hs : t.stagedItems = [] := stagedItems_of_none (hso.staged.trans hl.staged)
  have hitems := hp.rowItems
  have hslotItems := hslots
  rw [items_of_none hl.session, stagedItems_of_none hl.staged] at hitems hslotItems
  refine State.StoresParts.kept ⟨htables, ?_, ?_, ?_, ?_, ?_, ?_, ?_⟩
  · have he : t.epoch = s.epoch := hso.epoch
    rw [he]
    refine hp.owners.claim (r := r) (c := c) (st := .live) hcf (by decide) hcopies hrows ?_ ?_ ?_ ?_ ?_ ?_ ?_
    · rw [hcc]; exact ⟨rfl, rfl, rfl, rfl, rfl, rfl, rfl⟩
    · rw [hrr]; exact ⟨rfl, rfl, rfl, rfl⟩
    · rw [hrow0]; rfl
    · rw [hrr]; rfl
    · intro st hst
      rw [hrr, hrow0]
      cases st with
      | live => exact absurd rfl hst
      | free | staged | draft | superseded => rfl
    · rw [hrow0]
      rintro (ho | ho | ho) <;> cases ho
    · rw [hrr]; exact (fun hd => nomatch hd)
  · rw [hsup, hfree]
    exact hp.pool.alloc hcf hc2560 hcopies (by rw [hcc]; exact (fun hd => nomatch hd)) (by rw [hcc]; exact (fun hd => nomatch hd))
  · rw [hidx]
    exact hp.index.claim (by rw [hrow0]; rfl) hr1024 hrows (by rw [hrr]; rfl)
  · rw [hi, hs]
    refine rowItems_nil_iff.2 fun q => ?_
    by_cases hq : q = r
    · rw [hq, hrr]
      simp [Row.loaded, Row.free]
    · rw [hrows q hq]
      exact rowItems_nil_iff.1 hitems q
  · rw [hi, hs]; exact hslotItems
  · rw [hi]; exact itemsOnce_nil
  · rw [hs]; exact itemsOnce_nil

/-! ### Every move -/

theorem storesKept_of_move (h : s.StoresKept) (hm : StoreMove s t) : t.StoresKept := by
  cases hm with
  | quiet hq => exact hq.storesKept h
  | answered n => exact storesKept_completeRequest h n
  | linkReset n => exact storesKept_resetLink h n
  | held d hd => exact storesKept_placeHolds h hd
  | watchAdded n r hp => exact storesKept_addWatch h hp
  | watchRemoved n r => exact storesKept_removeWatch h n r
  | pinned c hl => exact storesKept_putCopy_pins h hl _ _
  | unpinned c => exact storesKept_clearSnapPin h c
  | inserted x sp b r c hx hi hr hc => exact storesKept_insertRow h hx hi hr hc
  | amended x r sel b c hx ha hd hroom hc => exact storesKept_startAmend h hx ha hd hroom hc
  | rewritten r sel b c ha hc => exact storesKept_rewriteBody h ha hc
  | retired x r hx hr hroom => exact storesKept_retireEffect h hx hr hroom
  | defined x k pts hx hk hf hroom => exact storesKept_defined h hx hk hf hroom
  | redefined k pts hs => exact storesKept_redefined h hs
  | droppedPending x k hx hs => exact storesKept_droppedPending h hx hs
  | droppedActive k hs => exact storesKept_droppedActive h hs
  | sealed pol hs => exact storesKept_sealSession h hs pol
  | abandoned => exact storesKept_abandonSession h
  | switched trig st hs => exact storesKept_switchSet h hs trig
  | withdrawn st hs hx => exact storesKept_withdrawSet h hs hx
  | cleared hx => exact storesKept_clearStores hx
  | emptied hl =>
    exact (storesEmpty_emptyStores s).storesKept ((emptyStores_session s).trans hl.session) ((emptyStores_staged s).trans hl.staged)
  | slotsFreed hl => exact storesKept_slotsFreed h hl
  | profileLoaded k e pts hl hk hf => exact storesKept_profileLoaded h hl hk hf
  | recordLoaded r c e sp b hl hfit hc => exact storesKept_recordLoaded h hl hfit hc

end Sys2Proof.Machine
end

section
/-! SUPPORT. The commands of a port as moves of the stores (O57, O59). -/

namespace Sys2Proof.Machine

variable {s t : State} {x : Session}

theorem StoreMoves.ofQuiet {u : State} (h : s.Quiet t) (k : StoreMoves t u) : StoreMoves s u := h.moves.trans k

theorem StoreMoves.thenQuiet {u : State} (h : StoreMoves s t) (k : t.Quiet u) : StoreMoves s u := h.trans k.moves

/-- The same move for each number of a list. -/
theorem StoreMoves.forEach {f : Nat → State → State} (hf : ∀ n u, StoreMove u (f n u)) (l : List Nat) (s : State) :
    StoreMoves s (State.forEach f l s) := by
  induction l generalizing s with
  | nil => exact .refl s
  | cons n l ih => exact (StoreMoves.single (hf n s)).trans (ih _)

/-! ### Edits -/

theorem storeMoves_guardEdit (p : Port) {act : State → State × Reply} (ha : ∀ x, s.session = some x → StoreMoves s (act s).1) :
    StoreMoves s (s.guardEdit p act).1 := by
  obtain he | ⟨-, he, x, hx, -⟩ := guardEdit_cases p act s
  · rw [he]; exact .refl s
  · rw [he]; exact ha x hx

theorem storeMoves_insertSpan (hx : s.session = some x) (sp : Span) (b : Body) : StoreMoves s (s.insertSpan sp b).1 := by
  unfold State.insertSpan
  split
  · exact .refl s
  next hi =>
    split
    · exact .refl s
    next r hr =>
      split
      · exact .refl s
      next c hc => exact .single (.inserted x sp b r c hx hi hr hc)

/-- A row with a draft of the session has a draft (R62). -/
theorem State.StoresKept.draft_of_item (h : s.StoresKept) {r : Nat} (hd : hasDraftItem s.items r = true) :
    ∃ c, (s.row r).draft = some c := by
  simp only [hasDraftItem, Bool.or_eq_true, List.contains_iff_mem] at hd
  obtain hins | ham := hd
  · exact Option.isSome_iff_exists.1 (Row.shaped_newDraft (h.rows r) ((h.inserts r).1 hins)).2.2.1
  · exact Option.isSome_iff_exists.1 ((h.amends r).1 ham).2

theorem storeMoves_amendRow (h : s.StoresKept) (hx : s.session = some x) (r : Nat) (sel : Bool) (f : Body → Body) :
    StoreMoves s (s.amendRow r sel f).1 := by
  unfold State.amendRow
  dsimp only
  split
  · exact .refl s
  next ha =>
    split
    next hd =>
      obtain ⟨c, hc⟩ := h.draft_of_item hd
      simp only [hc]
      exact .single (.rewritten r sel _ c ha hc)
    next hd =>
      split
      · exact .refl s
      next hroom =>
        split
        · exact .refl s
        next c hc => exact .single (.amended x r sel _ c hx ha (Bool.of_not_eq_true hd) (Nat.not_le.1 hroom) hc)

theorem storeMoves_retireRow (hx : s.session = some x) (r : Nat) : StoreMoves s (s.retireRow r).1 := by
  unfold State.retireRow
  split
  · exact .refl s
  next hr =>
    split
    · exact .refl s
    next hroom => exact .single (.retired x r hx hr fun ha => Nat.not_le.1 fun hle => hroom ⟨ha, hle⟩)

theorem retireRefusal_none_of {r : Nat} (hp : (s.row r).phase = .live ∨ (s.row r).phase = .newStaged) (hr : .retire r ∉ s.items) :
    s.retireRefusal r = none := by
  have hn : hasRetire s.items r = false := by simpa [hasRetire] using hr
  unfold State.retireRefusal
  obtain hp | hp := hp <;> simp [hp, hn]

theorem mem_itemsRetired_retire {items : List ChangeItem} {r q : Nat} (hq : q ≠ r) (h : .retire q ∉ items) :
    .retire q ∉ itemsRetired items r := by
  unfold itemsRetired
  split
  · simp only [List.mem_map, not_exists, not_and]
    intro i hi he
    split at he
    · exact hq (ChangeItem.retire.inj he).symm
    · exact h (he ▸ hi)
  · simpa [hq] using h

/-- A group's rows retire one after the other (R73). -/
theorem storeMoves_retireEach {rs : List Nat} (hn : rs.Nodup) (h : s.StoresKept) (hx : s.session = some x)
    (hrow : ∀ r ∈ rs, ((s.row r).phase = .live ∨ (s.row r).phase = .newStaged) ∧ .retire r ∉ x.items)
    (hroom : (rs.foldl itemsRetired x.items).length ≤ 96) : StoreMoves s (State.forEach State.retireEffect rs s) := by
  induction rs generalizing s x with
  | nil => exact .refl s
  | cons r rs ih =>
    obtain ⟨hr, hn'⟩ := List.nodup_cons.1 hn
    obtain ⟨hp, hnot⟩ := hrow r List.mem_cons_self
    have hitems := items_eq hx
    have hdraft : (s.row r).phase ≠ .newDraft := by obtain hp | hp := hp <;> rw [hp] <;> decide
    have hmove : StoreMove s (s.retireEffect r) := by
      refine .retired x r hx (retireRefusal_none_of hp (hitems ▸ hnot)) fun ha => ?_
      have hfresh : .amend r ∉ x.items := by
        intro hmem
        rw [retireOutcome_converted hdraft (hitems ▸ hmem)] at ha
        cases ha
      rw [length_foldl_itemsRetired hn] at hroom
      have hone : 0 < ((r :: rs).filter (fun r => !x.items.contains (.amend r))).length :=
        List.length_pos_of_mem (List.mem_filter.2 ⟨List.mem_cons_self, by simpa using hfresh⟩)
      rw [hitems]
      omega
    have hone := groupRetired_one hx ⟨hdraft, by rw [← hitems, h.amends r]; simp [hdraft]⟩
    refine (StoreMoves.single hmove).trans (ih hn' (storesKept_of_move h hmove) hone.session (fun q hq => ?_) hroom)
    have hqr : q ≠ r := fun h => hr (h ▸ hq)
    obtain ⟨hpq, hnq⟩ := hrow q (List.mem_cons_of_mem _ hq)
    rw [hone.rows, if_neg (by simpa using hqr)]
    exact ⟨hpq, mem_itemsRetired_retire hqr hnq⟩

theorem storeMoves_retireGroup (h : s.StoresKept) (hx : s.session = some x) (g : Nat) : StoreMoves s (s.retireGroup g).1 := by
  have hitems := items_eq hx
  have hn : (s.groupRows g).Nodup := (groupRows_pairwise h g).imp Nat.ne_of_lt
  by_cases hroom : s.items.length + ((s.groupRows g).filter (fun r => !s.items.contains (.amend r))).length ≤ 96
  · rw [retireGroup_room hroom]
    refine storeMoves_retireEach hn h hx (fun r hr => ?_) ?_
    · obtain ⟨hp, -, hnot⟩ := mem_groupRows.1 hr
      exact ⟨hp, hitems ▸ hnot⟩
    · rw [length_foldl_itemsRetired hn, ← hitems]
      exact hroom
  · rw [retireGroup_full (Nat.not_le.1 hroom)]
    exact .refl s

theorem storeMoves_defineProfile (hx : s.session = some x) {k : Nat} (hk : k < 32) (pts : List Point) :
    StoreMoves s (s.defineProfile k pts).1 := by
  unfold State.defineProfile
  split
  · exact .refl s
  · exact .refl s
  next hf =>
    split
    · exact .refl s
    · split
      · exact .refl s
      next hroom => exact .single (.defined x k pts hx hk hf (Nat.not_le.1 hroom))
  next hp =>
    split
    · exact .refl s
    · exact .single (.redefined k pts hp)

theorem storeMoves_dropProfile (hx : s.session = some x) (k : Nat) : StoreMoves s (s.dropProfile k).1 := by
  unfold State.dropProfile
  split
  · exact .refl s
  · split
    · exact .refl s
    · exact .refl s
    next hp =>
      split
      · exact .refl s
      · exact .single (.droppedPending x k hx hp)
    next ha =>
      split
      · exact .refl s
      · exact .single (.droppedActive k ha)

theorem storeMoves_sealWith (pol : Policy) : StoreMoves s (s.sealWith pol).1 := by
  unfold State.sealWith
  split
  · exact .refl s
  next hs =>
    split
    next hnil => exact State.Quiet.moves ⟨rfl, rfl, rfl, rfl, rfl, rfl, hnil.symm, rfl, le_refl _⟩
    next => exact .single (.sealed pol (Option.not_isSome_iff_eq_none.1 hs))

theorem storeMoves_takeOpenEdit (p : Port) : StoreMoves s (s.takeOpenEdit p).1 := by
  unfold State.takeOpenEdit
  split
  · exact .refl s
  · split
    next hx => exact State.Quiet.moves ⟨rfl, rfl, rfl, rfl, rfl, rfl, by simp [State.items, hx], rfl, le_refl _⟩
    next => split <;> exact .refl s

/-! ### Switch, withdrawal, saves -/

theorem storeMoves_takeSwitch : StoreMoves s s.takeSwitch.1 := by
  unfold State.takeSwitch
  split
  · exact .refl s
  · split
    · exact .refl s
    next st hst =>
      split
      · exact .refl s
      · dsimp only
        exact .single (.switched _ st hst)

theorem storeMoves_takeWithdraw : StoreMoves s s.takeWithdraw.1 := by
  unfold State.takeWithdraw
  split
  · exact .refl s
  · split
    · exact .refl s
    next st hst =>
      split
      · exact .refl s
      next hx => exact .single (.withdrawn st hst (Option.not_isSome_iff_eq_none.1 hx))

theorem storeMoves_clearListedPins (l : List SaveItem) : StoreMoves s (s.clearListedPins l) :=
  .forEach (fun n _ => .unpinned n) _ s

theorem storeMoves_endSave (k : FailKind) : StoreMoves s (s.endSave k) := by
  have hpins := storeMoves_clearListedPins (s := s) s.snap.saveList
  unfold State.endSave
  dsimp only
  generalize s.clearListedPins s.snap.saveList = u at *
  exact hpins.thenQuiet (((State.Quiet.setSnap u _).trans (.setFlash _ _)).trans (.raise _ _))

/-- A row with a birth epoch is LIVE, DYING or DEAD, and a DEAD one has died (R2). -/
theorem Row.shaped_born {x : Row} (h : x.shaped) (hb : x.born ≠ none) :
    x.phase = .live ∨ x.phase = .dying ∨ x.phase = .dead ∧ x.dies.isSome = true := by
  unfold Row.shaped at h
  cases hp : x.phase <;> rw [hp] at h
  case free => exact absurd (h ▸ rfl) hb
  case newDraft | newStaged => exact absurd h.2.1 hb
  case live => exact .inl rfl
  case dying => exact .inr (.inl rfl)
  case dead => exact .inr (.inr ⟨rfl, h.2.2.1⟩)

theorem Row.shaped_live {x : Row} (h : x.shaped) (hp : x.phase = .live ∨ x.phase = .dying) : ∃ c, x.live = some c := by
  unfold Row.shaped at h
  obtain hp | hp := hp <;> rw [hp] at h
  · exact Option.isSome_iff_exists.1 h.2.2.2
  · exact Option.isSome_iff_exists.1 h.2.2.2.1

/-- A row visible now is LIVE or DYING: a DEAD one died no later than now (R3, R17). -/
theorem State.StoresKept.live_of_visible (h : s.StoresKept) {r : Nat} (hv : (s.row r).visibleAt s.epoch = true) :
    ((s.row r).phase = .live ∨ (s.row r).phase = .dying) ∧ ∃ c, (s.row r).live = some c ∧ (s.copy c).state = .live := by
  obtain ⟨⟨b, hb, -⟩, hd⟩ := visibleAt_iff.1 hv
  have hp : (s.row r).phase = .live ∨ (s.row r).phase = .dying := by
    obtain hp | hp | ⟨hp, hdies⟩ := Row.shaped_born (h.rows r) (by rw [hb]; exact Option.some_ne_none b)
    · exact .inl hp
    · exact .inr hp
    · obtain ⟨d, hdd⟩ := Option.isSome_iff_exists.1 hdies
      exact absurd (hd d hdd) (Nat.not_lt.2 ((h.dead r hp).2 d hdd))
  obtain ⟨c, hc⟩ := Row.shaped_live (h.rows r) hp
  exact ⟨hp, c, hc, ((h.live r c).1 hc).1⟩

theorem storeMoves_setSnapPins {cs : List Nat} (h : ∀ c ∈ cs, (s.copy c).state = .live) :
    StoreMoves s (State.forEach State.setSnapPin cs s) := by
  induction cs generalizing s with
  | nil => exact .refl s
  | cons c cs ih =>
    refine (StoreMoves.single (.pinned c (h c List.mem_cons_self))).trans (ih fun d hd => ?_)
    have hstate : ((s.setSnapPin c).copy d).state = (s.copy d).state := by
      rw [State.setSnapPin, State.copy_putCopy]
      split
      next hdc => rw [hdc]
      next => rfl
    rw [hstate]
    exact h d (List.mem_cons_of_mem _ hd)

theorem storeMoves_beginSave (h : s.StoresKept) : StoreMoves s s.beginSave := by
  have hpins : StoreMoves s (State.forEach State.setSnapPin (s.saveItems.map SaveItem.copy) s) := by
    refine storeMoves_setSnapPins fun c hc => ?_
    obtain ⟨i, hi, rfl⟩ := List.mem_map.1 hc
    obtain ⟨hv, hcopy⟩ := mem_saveItems.1 hi
    obtain ⟨-, c, hlive, hstate⟩ := h.live_of_visible hv
    rw [hcopy, hlive]
    exact hstate
  unfold State.beginSave
  dsimp only
  generalize State.forEach State.setSnapPin (s.saveItems.map SaveItem.copy) s = u at *
  exact hpins.thenQuiet ((State.Quiet.setSnap u _).trans (.setFlash _ _))

theorem storeMoves_takeAbortSave : StoreMoves s s.takeAbortSave.1 := by
  unfold State.takeAbortSave
  split
  · exact .refl s
  · exact .refl s
  all_goals exact storeMoves_endSave _

theorem storeMoves_takeClearAll : StoreMoves s s.takeClearAll.1 := by
  unfold State.takeClearAll
  split
  · exact .refl s
  next hc =>
    have hx : s.session = none := by
      unfold State.clearRefusal at hc
      split at hc
      · cases hc
      · split at hc
        · cases hc
        · split at hc
          · cases hc
          next hx => exact Option.not_isSome_iff_eq_none.1 hx
    dsimp only
    exact .single (.cleared hx)

theorem storeMoves_resetLinkDown (n : Nat) : StoreMoves s (s.resetLinkDown n) := by
  have hreset : StoreMoves s (s.resetLink n) := .single (.linkReset n)
  unfold State.resetLinkDown
  split
  · exact hreset
  · exact hreset.thenQuiet (.raise _ _)

/-- Each command of right form is a chain of moves. -/
theorem storeMoves_perform (h : s.StoresKept) (p : Port) (k : CmdKind) (args : List Word) (hrange : rangeOk k args = true) :
    StoreMoves s (s.perform p k args).1 := by
  cases k
  case openEdit => exact storeMoves_takeOpenEdit p
  case insert => exact storeMoves_guardEdit p fun x hx => storeMoves_insertSpan hx _ _
  case amend => exact storeMoves_guardEdit p fun x hx => storeMoves_amendRow h hx _ _ _
  case retire => exact storeMoves_guardEdit p fun x hx => storeMoves_retireRow hx _
  case retireGroup => exact storeMoves_guardEdit p fun x hx => storeMoves_retireGroup h hx _
  case defineProfile => exact storeMoves_guardEdit p fun x hx => storeMoves_defineProfile hx (of_decide_eq_true hrange) _
  case dropProfile => exact storeMoves_guardEdit p fun x hx => storeMoves_dropProfile hx _
  case sealSession => exact storeMoves_guardEdit p fun x hx => storeMoves_sealWith _
  case abandon => exact storeMoves_guardEdit p fun x hx => .single .abandoned
  case touch => exact storeMoves_guardEdit p fun x hx => .refl s
  case linkStatus =>
    show StoreMoves s (if _ then _ else s : State)
    split
    · exact (State.Quiet.putLink s _ _).moves
    · exact .refl s
  case switch => exact storeMoves_takeSwitch
  case withdraw => exact storeMoves_takeWithdraw
  case save =>
    show StoreMoves s s.takeSave.1
    unfold State.takeSave
    split
    · exact .refl s
    · split
      · exact .refl s
      · exact storeMoves_beginSave h
  case abortSave => exact storeMoves_takeAbortSave
  case restore =>
    show StoreMoves s s.takeRestore.1
    unfold State.takeRestore
    split
    · exact .refl s
    · split
      · exact .refl s
      · split
        · exact .refl s
        · exact (((State.Quiet.setSnap s _).trans (.setOpState _ _)).trans (.setFlash _ _)).moves
  case startEmpty =>
    show StoreMoves s s.takeStartEmpty.1
    unfold State.takeStartEmpty
    split
    · exact (State.Quiet.setOpState s _).moves
    · exact .refl s
  case hold | resume =>
    show StoreMoves s (s.takeGate _).1
    unfold State.takeGate
    split
    · exact (State.Quiet.setOpState s _).moves
    · exact .refl s
  case clearAll => exact storeMoves_takeClearAll
  case resetLink => exact storeMoves_resetLinkDown _
  case setParam =>
    show StoreMoves s (if _ then _ else _ : State)
    split
    · exact ((State.Quiet.setParams s _).trans (.checkArm _)).moves
    · exact (State.Quiet.setParams s _).moves
  all_goals exact .refl s

end Sys2Proof.Machine
end

section
/-! SUPPORT. The events of the links, of the lookup engine and of the flash as moves of the stores (O57, O59). -/

namespace Sys2Proof.Machine

variable {s t : State} {x : Session}

/-! ### Links -/

theorem storeMoves_badFrame (e : FrameError) (rx : Receiver) (n : Nat) : StoreMoves s (s.badFrame e rx n) := by
  unfold State.badFrame
  dsimp only
  split
  · exact .ofQuiet (.putLink s n _) (storeMoves_resetLinkDown n)
  · exact (State.Quiet.putLink s n _).moves

theorem State.Quiet.answerHello (n : Nat) (tag : Tag) (level : Nat) (s : State) : s.Quiet (s.answerHello n tag level) := by
  unfold State.answerHello
  split
  · exact (putLink s n _).trans (raise _ _)
  · exact putLink s n _

theorem storeMoves_takeHello (n : Nat) (tag : Tag) (level : Nat) : StoreMoves s (s.takeHello n tag level) := by
  have hreset : StoreMoves s (s.resetLink n) := .single (.linkReset n)
  unfold State.takeHello
  split
  · exact (State.Quiet.answerHello n tag level s).moves
  · split
    · exact hreset.thenQuiet (.answerHello n tag level _)
    · exact hreset.thenQuiet ((State.Quiet.raise _ _).trans (.answerHello n tag level _))

theorem storeMoves_goodFrame (n : Nat) (tag : Tag) (f : BoardFrame) : StoreMoves s (s.goodFrame n tag f) := by
  have hput := State.Quiet.putLink s n { s.link n with rx := .outside, badCount := 0 }
  unfold State.goodFrame
  dsimp only
  generalize s.putLink n _ = u at *
  refine (StoreMoves.ofQuiet hput ?_).thenQuiet (.kick n _)
  cases f with
  | hello level => exact storeMoves_takeHello n tag level
  | ask a => exact (State.Quiet.putLink u n _).moves
  | ackNotice r e => exact (State.Quiet.putLink u n _).moves
  | ackResync k => exact (State.Quiet.putLink u n _).moves

theorem storeMoves_receiveFrame (n : Nat) (tag : Tag) (f : BoardFrame) : StoreMoves s (s.receiveFrame n tag f) := by
  unfold State.receiveFrame
  split
  · exact storeMoves_goodFrame n tag f
  · exact .refl s

theorem storeMoves_receiveWord (w : WireWord) (n : Nat) : StoreMoves s (s.receiveWord w n) := by
  have hmove (rx : Receiver) : StoreMoves s (s.moveTo rx n) := (State.Quiet.putLink s n _).moves
  unfold State.receiveWord
  split
  · unfold State.badWord
    split
    · exact storeMoves_badFrame _ _ n
    · exact storeMoves_badFrame _ _ n
    · exact .refl s
  · split
    · exact .refl s
    · unfold State.headWord
      split
      · exact hmove _
      · exact storeMoves_badFrame _ _ n
      · exact hmove _
    · unfold State.bodyWord
      split
      · exact storeMoves_badFrame _ _ n
      · exact hmove _
      · exact .refl s
    · unfold State.tailWord
      split
      · exact storeMoves_badFrame _ _ n
      · split
        · exact storeMoves_badFrame _ _ n
        · exact storeMoves_goodFrame n _ _
      · exact hmove _

theorem storeMoves_loseLock (n : Nat) : StoreMoves s (s.loseLock n) := by
  unfold State.loseLock
  dsimp only
  split
  · exact (State.Quiet.putLink s n _).moves
  · exact .ofQuiet (.putLink s n _) (storeMoves_resetLinkDown n)

theorem State.Quiet.timerRunsOut (n : Nat) (s : State) : s.Quiet (s.timerRunsOut n) := by
  unfold State.timerRunsOut
  dsimp only
  split
  · exact (putLink s n _).trans (kick n _)
  · split
    · exact (putLink s n _).trans (raise _ _)
    · exact putLink s n _

/-! ### The lookup engine -/

theorem storeMoves_takeRequest (n : Nat) {d : Decision} (hd : s.Holdable d) : StoreMoves s (s.takeRequest n d) := by
  have hheld : StoreMoves s (s.placeHolds d) := .single (.held d hd)
  unfold State.takeRequest
  dsimp only
  exact hheld.thenQuiet (((State.Quiet.putLink _ n _).trans (.setEngine _ _)).trans (.kick n _))

/-- A decision that holds nothing. -/
theorem State.Holdable.nothing (s : State) (a : Answer) : s.Holdable { answer := a, copy := none, slot := none } :=
  ⟨fun _ h => (nomatch h), fun _ h => (nomatch h)⟩

theorem holdable_decideFetch (h : s.StoresKept) (n : Nat) (tag : Tag) (ch : Half) (probe : Option Half) :
    s.Holdable (s.decideFetch n tag ch probe) := by
  unfold State.decideFetch
  split
  · exact .nothing s _
  · split
    · exact .nothing s _
    · split
      · exact .nothing s _
      next r hr =>
        obtain ⟨-, c, hc, hlive⟩ := h.live_of_visible (lookup_some hr).2.1
        exact ⟨fun d hd => Option.some.inj (hc.symm.trans hd) ▸ hlive, fun _ h => (nomatch h)⟩

theorem holdable_decideFetchProfile (n : Nat) (tag : Tag) (slot first : Half) :
    s.Holdable (s.decideFetchProfile n tag slot first) := by
  unfold State.decideFetchProfile
  split
  · exact .nothing s _
  · split
    · exact .nothing s _
    · split
      · exact .nothing s _
      next ha => exact ⟨fun _ h => (nomatch h), fun k hk => Option.some.inj hk ▸ not_not.1 ha⟩

/-- A WATCH that passes its checks watches a row visible now (R142). -/
theorem visible_of_checkWatch {n : Nat} {tag : Tag} {ch : Half} {r : Nat} (h : s.checkWatch n tag ch = .inr r) :
    (s.row r).visibleAt s.epoch = true := by
  unfold State.checkWatch at h
  split at h
  · cases h
  · split at h
    · cases h
    · split at h
      · cases h
      next q hq =>
        split at h
        · cases h
        · exact Sum.inr.inj h ▸ (lookup_some hq).2.1

theorem storeMoves_takeWatch (h : s.StoresKept) (n : Nat) (tag : Tag) (ch : Half) : StoreMoves s (s.takeWatch n tag ch) := by
  unfold State.takeWatch
  split
  · exact storeMoves_takeRequest n (.nothing s _)
  next r hr =>
    exact (StoreMoves.single (.watchAdded n r (h.live_of_visible (visible_of_checkWatch hr)).1)).trans
      (storeMoves_takeRequest n (.nothing _ _))

theorem storeMoves_takeUnwatch (n : Nat) (tag : Tag) (row : Half) : StoreMoves s (s.takeUnwatch n tag row) := by
  unfold State.takeUnwatch
  split
  · exact storeMoves_takeRequest n (.nothing s _)
  · exact (StoreMoves.single (.watchRemoved n row.toNat)).trans (storeMoves_takeRequest n (.nothing _ _))

/-! ### The events of the links -/

theorem storeMoves_linkEvent {i : Instr} (hi : Instr.isLinkEvent i = true) (h : s.StoresKept) (he : exec i s = .next t) :
    StoreMoves s t := by
  have hends (n : Nat) (l : Link) : StoreMoves s ((s.putLink n l).frameEnds n) :=
    ((State.Quiet.putLink s n l).trans (.frameEnds n _)).moves
  cases i
  case linkWord n w =>
    obtain rfl := Host.Outcome.next.inj he
    split
    · exact storeMoves_receiveWord w n
    · exact .refl s
  case receiverLockGained n =>
    obtain rfl := Host.Outcome.next.inj he
    split
    · exact .refl s
    · exact (State.Quiet.putLink s n _).moves
  case receiverLockLost n =>
    obtain rfl := Host.Outcome.next.inj he
    split
    · exact storeMoves_loseLock n
    · exact .refl s
  case hello | fetch | fetchProfile | watch | unwatch | ackNotice | ackResync =>
    exact Host.Outcome.next.inj he ▸ storeMoves_receiveFrame _ _ _
  case fetchTaken =>
    obtain rfl := Host.Outcome.next.inj he
    split
    · split
      · exact storeMoves_takeRequest _ (holdable_decideFetch h _ _ _ _)
      all_goals exact .refl s
    · exact .refl s
  case fetchProfileTaken =>
    obtain rfl := Host.Outcome.next.inj he
    split
    · split
      · exact storeMoves_takeRequest _ (holdable_decideFetchProfile _ _ _ _)
      all_goals exact .refl s
    · exact .refl s
  case watchTaken =>
    obtain rfl := Host.Outcome.next.inj he
    split
    · split
      · exact storeMoves_takeWatch h _ _ _
      all_goals exact .refl s
    · exact .refl s
  case unwatchTaken =>
    obtain rfl := Host.Outcome.next.inj he
    split
    · split
      · exact storeMoves_takeUnwatch _ _ _
      all_goals exact .refl s
    · exact .refl s
  case answerEnd n =>
    obtain rfl := Host.Outcome.next.inj he
    split
    · split
      · exact (StoreMoves.single (.answered n)).thenQuiet ((State.Quiet.putLink _ n _).trans (.frameEnds n _))
      · exact .refl s
    · exact .refl s
  case welcomeEnd n | promptRefusalEnd n | noticeEnd n | resyncEnd n =>
    obtain rfl := Host.Outcome.next.inj he
    split
    · exact hends n _
    · exact .refl s
  case resendTimerExpiry n =>
    obtain rfl := Host.Outcome.next.inj he
    split
    · exact (State.Quiet.timerRunsOut n s).moves
    all_goals exact .refl s
  all_goals cases hi

/-! ### Restores -/

theorem State.Loading.of_same (h : s.Loading) (hs : t.session = s.session) (hg : t.staged = s.staged) : t.Loading :=
  ⟨hs.trans h.session, hg.trans h.staged⟩

theorem State.Quiet.restoreFails (k : FailKind) (s : State) : s.Quiet (s.restoreFails k) :=
  (((setOpState s _).trans (setSnap _ _)).trans (setFlash _ _)).trans (raise _ _)

theorem State.Quiet.resyncUpLinks (s : State) : s.Quiet s.resyncUpLinks := by
  refine forEach (f := fun n s => if (s.link n).state = .down then s else s.putLink n (s.link n).setResync) (fun n u => ?_) allLinks s
  split
  · exact refl u
  · exact putLink u n _

theorem State.Quiet.restoreSucceeds {bk : Bank} {b : BankHeader} (he : s.epoch ≤ orZero s.snap.targetEpoch) :
    s.Quiet (s.restoreSucceeds bk b) := by
  have hepoch : s.Quiet (s.setEpoch (orZero s.snap.targetEpoch)) := ⟨rfl, rfl, rfl, rfl, rfl, rfl, rfl, rfl, he⟩
  have hlinks : s.Quiet ((s.setEpoch (orZero s.snap.targetEpoch)).setOpState .serving).resyncUpLinks :=
    (hepoch.trans (setOpState _ _)).trans (resyncUpLinks _)
  unfold State.restoreSucceeds
  dsimp only
  generalize ((s.setEpoch (orZero s.snap.targetEpoch)).setOpState .serving).resyncUpLinks = u at *
  exact (((hlinks.trans (setSnap _ _)).trans (setFlash _ _)).trans (raise _ _)).trans (kickAll _)

theorem storeMoves_beginLoading (hl : s.Loading) (bk : Bank) (b : BankHeader) : StoreMoves s (s.beginLoading bk b) := by
  unfold State.beginLoading
  dsimp only
  split
  · exact (StoreMoves.single (.slotsFreed hl)).thenQuiet (.setSnap _ _)
  · exact (State.Quiet.setSnap s _).moves

theorem State.Loading.beginLoading (hl : s.Loading) (bk : Bank) (b : BankHeader) : (s.beginLoading bk b).Loading :=
  hl.of_same (beginLoading_ready bk b s).session (beginLoading_ready bk b s).staged

theorem State.Loading.emptyStores (hl : s.Loading) : s.emptyStores.Loading :=
  hl.of_same (emptyStores_session s) (emptyStores_staged s)

theorem storeMoves_tryBank_of {fuel : Nat} (hdiscard : ∀ s : State, s.Loading → StoreMoves s (s.afterDiscard fuel)) (bk : Bank)
    (b : BankHeader) (hl : s.Loading) : StoreMoves s (State.tryBank fuel bk b s) := by
  have hbegun := storeMoves_beginLoading hl bk b
  have hl' := hl.beginLoading bk b
  rw [tryBank_eq]
  split
  · exact hbegun.thenQuiet (.setFlash _ _)
  · split
    next hload =>
      refine hbegun.thenQuiet (.restoreSucceeds ?_)
      rw [beginLoading_targetEpoch, targetEpochOf_loadable s.epoch hload.1, (beginLoading_ready bk b s).epoch]
      simp only [orZero, Option.getD_some]
      omega
    next => exact (hbegun.trans (.single (.emptied hl'))).trans (hdiscard _ hl'.emptyStores)

theorem storeMoves_afterDiscard (fuel : Nat) (hl : s.Loading) : StoreMoves s (s.afterDiscard fuel) := by
  induction fuel generalizing s with
  | zero => exact (State.Quiet.restoreFails _ s).moves
  | succ fuel ih =>
    unfold State.afterDiscard
    cases s.snap.untried with
    | none => exact (State.Quiet.restoreFails _ s).moves
    | some b => exact storeMoves_tryBank_of (fun _ h => ih h) b.1 b.2 hl

theorem storeMoves_selectBank (hl : s.Loading) : StoreMoves s s.selectBank := by
  unfold State.selectBank
  split
  · exact (State.Quiet.restoreFails _ s).moves
  · exact storeMoves_tryBank_of (fun _ h => storeMoves_afterDiscard _ h) _ _ hl

theorem storeMoves_loadFails (hl : s.Loading) : StoreMoves s s.loadFails := by
  rw [loadFails_eq]
  exact (StoreMoves.single (.emptied hl)).trans (storeMoves_afterDiscard _ hl.emptyStores)

theorem storeMove_loadProfile {e : Nat} {entry : List Byte} (hl : s.Loading) (he : s.loadProfile e entry = some t) : StoreMove s t := by
  unfold State.loadProfile at he
  dsimp only at he
  split at he
  next hc => exact Option.some.inj he ▸ .profileLoaded _ e _ hl hc.1 hc.2.1
  next => cases he

theorem storeMove_loadRecord {e : Nat} {entry : List Byte} (hl : s.Loading) (he : s.loadRecord e entry = some t) : StoreMove s t := by
  unfold State.loadRecord at he
  dsimp only at he
  split at he
  next b c hb hc =>
    split at he
    next hfit => exact Option.some.inj he ▸ .recordLoaded _ c e _ b hl hfit hc
    next => cases he
  all_goals cases he

theorem storeMoves_loadEntries {load : List Byte → State → Option State}
    (hload : ∀ {entry s t}, State.Loading s → load entry s = some t → StoreMove s t)
    (hsame : ∀ {entry s t}, load entry s = some t → LoadsOnly s t) (l : List (List Byte)) (hl : s.Loading) :
    StoreMoves s (State.loadEntries load l s).1 := by
  induction l generalizing s with
  | nil => exact .refl s
  | cons en ens ih =>
    unfold State.loadEntries
    split
    next t ht =>
      have hl' : (s.extendCheck en).Loading := hl.of_same rfl rfl
      have hready := (hsame ht).ready
      exact (StoreMoves.ofQuiet (.setSnap s _) (.single (hload hl' ht))).trans (ih (hl'.of_same hready.session hready.staged))
    next => exact .refl s

theorem storeMoves_loadPage (b : BankHeader) (i : Nat) (page : List Byte) (hl : s.Loading) :
    StoreMoves s (s.loadPage b i page).1 := by
  unfold State.loadPage
  dsimp only
  split
  · exact storeMoves_loadEntries storeMove_loadProfile LoadsOnly.loadProfile _ hl
  · exact storeMoves_loadEntries storeMove_loadRecord (fun h => .of (PortsKept.loadRecord_stores h)) _ hl

theorem storeMoves_pageLoaded {page : List Byte} {e : Nat} (hl : s.Loading) (htarget : s.snap.targetEpoch = some e)
    (hlt : s.epoch < e) : StoreMoves s (s.pageLoaded page) := by
  unfold State.pageLoaded
  split
  · exact .refl s
  next bk b _ =>
    have hload := LoadsOnly.loadPage b (orZero s.snap.readPos) page s
    have hmoves := storeMoves_loadPage b (orZero s.snap.readPos) page hl
    dsimp only
    generalize s.loadPage b (orZero s.snap.readPos) page = r at *
    have ht := hload.targetEpoch.trans htarget
    have hready := hload.ready
    have hl' : r.1.Loading := hl.of_same hready.session hready.staged
    split
    · exact hmoves.trans (storeMoves_loadFails hl')
    · have hnext := hmoves.thenQuiet (.setSnap r.1 { r.1.snap with readPos := some (orZero s.snap.readPos + 1) })
      split
      · exact hnext.thenQuiet (.setFlash _ _)
      · split
        · refine hnext.thenQuiet (.restoreSucceeds ?_)
          simp only [State.setSnap_snap, ht, orZero, Option.getD_some, State.setSnap_epoch, hready.epoch]
          omega
        · exact hnext.trans (storeMoves_loadFails (hl'.of_same rfl rfl))

/-! ### Saves and the events of the flash -/

theorem State.Quiet.nextRecordPage (page : Nat) (s : State) : s.Quiet (s.nextRecordPage page) := by
  unfold State.nextRecordPage
  split
  · exact (setSnap s _).trans (setFlash _ _)
  · exact (setSnap s _).trans (setFlash _ _)

theorem State.Quiet.nextProfilePage (page : Nat) (s : State) : s.Quiet (s.nextProfilePage page) := by
  unfold State.nextProfilePage
  split
  · exact nextRecordPage page s
  · exact (setSnap s _).trans (setFlash _ _)

theorem storeMoves_pageMatched (page : Nat) : StoreMoves s (s.pageMatched page) := by
  unfold State.pageMatched
  split
  · exact ((State.Quiet.setSnap s _).trans (.nextProfilePage (page + 1) _)).moves
  · have hpins := storeMoves_clearListedPins (s := s.extendCheck (s.recordBytes s.snap.nextItems)) s.snap.nextItems
    unfold State.recordPageMatched
    dsimp only
    generalize (s.extendCheck (s.recordBytes s.snap.nextItems)).clearListedPins s.snap.nextItems = u at *
    exact StoreMoves.ofQuiet (.setSnap s _) (hpins.thenQuiet ((State.Quiet.setSnap u _).trans (.nextRecordPage _ _)))
  · exact ((State.Quiet.setSnap s _).trans (.raise _ _)).moves
  · exact .refl s
  · exact .refl s

theorem storeMoves_headerRead {bk : Bank} {page : List Byte} (hl : s.saving = false → s.Loading) :
    StoreMoves s (s.headerRead bk page) := by
  have hsurvey : s.Quiet (s.survey bk page) := .setSnap s _
  obtain ⟨-, he⟩ | ⟨-, -, he⟩ | ⟨-, hs, he⟩ := headerRead_cases bk page s
  · rw [he]
    exact (hsurvey.trans (.setFlash _ _)).moves
  · rw [he]
    obtain hc | ⟨bk', q, hc⟩ := chooseAndErase_cases (s.survey bk page)
    · rw [hc]; exact .ofQuiet hsurvey (storeMoves_endSave _)
    · rw [hc]; exact (hsurvey.trans ((State.Quiet.setSnap _ _).trans (.setFlash _ _))).moves
  · rw [he]
    exact .ofQuiet hsurvey (storeMoves_selectBank ((hl hs).of_same rfl rfl))

theorem storeMoves_flashMove (hm : FlashMove s t) (h : s.ModesKept) : StoreMoves s t := by
  cases hm with
  | none => exact .refl s
  | identified => exact ((State.Quiet.setFlash s _).trans (.setFlash _ _)).moves
  | absentSave k => exact storeMoves_endSave k
  | absentRestore => exact (State.Quiet.restoreFails _ s).moves
  | read bk page changes ho =>
    unfold State.readCompletes
    dsimp only
    split
    next hp =>
      subst hp
      refine StoreMoves.ofQuiet ?_ (storeMoves_headerRead fun hs => ?_)
      · exact (State.Quiet.setFlash s _).trans (.setFlash _ _)
      · obtain ⟨-, hse, hst⟩ := h.restoring_of_wait hs (.inr ⟨_, ho⟩)
        exact ⟨hse, hst⟩
    next hp =>
      obtain ⟨page, rfl⟩ := Nat.exists_eq_succ_of_ne_zero hp
      have hwait := h.wait
      unfold State.waitKept at hwait
      rw [ho] at hwait
      obtain ⟨-, hres, e, htarget, hlt⟩ := hwait
      obtain ⟨hse, hst, -⟩ := h.idle (by rw [hres]; rfl)
      refine StoreMoves.ofQuiet ?_ (storeMoves_pageLoaded ⟨hse, hst⟩ htarget hlt)
      exact (State.Quiet.setFlash s _).trans (.setFlash _ _)
  | erased => exact (((State.Quiet.setFlash s _).trans (.setSnap _ _)).trans (.nextProfilePage 1 _)).moves
  | erasedLate => exact (State.Quiet.setFlash s _).moves
  | failed k => exact storeMoves_endSave k
  | programmed => exact .ofQuiet ((State.Quiet.setFlash s _).trans (.setFlash _ _)) (storeMoves_pageMatched _)
  | mismatched changes => exact .ofQuiet (.setFlash s _) (storeMoves_endSave _)
  | programmedLate => exact (State.Quiet.setFlash s _).moves

end Sys2Proof.Machine
end

section
/-! PROOF. What the moves of the stores keep, every event keeps; the consistency of the stores (O57). -/

namespace Sys2Proof.Machine

variable {s t : State}

theorem kept_of_storeMoves {I : State → Prop} (hmove : ∀ u v, u.StoresKept → I u → StoreMove u v → I v) (hm : StoreMoves s t)
    (hs : s.StoresKept) (hi : I s) : t.StoresKept ∧ I t := by
  induction hm with
  | refl => exact ⟨hs, hi⟩
  | tail _ hstep ih => exact ⟨storesKept_of_move ih.1 hstep, hmove _ _ ih.1 ih.2 hstep⟩

theorem storesKept_hardReset {strap powered : Bool} (he : exec (.hardReset strap powered) s = .next t) :
    t.StoresKept ∧ t.rows = [] := by
  obtain rfl := Host.Outcome.next.inj he
  cases strap
  · exact ⟨storesKept_of_empty rfl rfl rfl rfl rfl rfl rfl rfl, rfl⟩
  · exact ⟨storesKept_of_empty rfl rfl rfl rfl rfl rfl rfl rfl, rfl⟩

/-- A condition that every move of consistent stores keeps, and that holds without rows, is kept by every event. -/
theorem kept_by_events_of_moves {I : State → Prop} (hmove : ∀ u v, u.StoresKept → I u → StoreMove u v → I v)
    (hempty : ∀ u, u.rows = [] → I u) : KeptByEvents (fun u => u.ModesKept ∧ u.StoresKept ∧ I u) where
  putPort s p x h := ⟨modes_kept.putPort s p x h.1, kept_of_storeMoves hmove (State.Quiet.putPort s p x).moves h.2.1 h.2.2⟩
  eventSet s x h := ⟨modes_kept.eventSet s x h.1, kept_of_storeMoves hmove (State.Quiet.setEventSet s x).moves h.2.1 h.2.2⟩
  setEngine s k h := ⟨modes_kept.setEngine s k h.1, kept_of_storeMoves hmove (State.Quiet.setEngine s k).moves h.2.1 h.2.2⟩
  restartTimer s p h :=
    ⟨modes_kept.restartTimer s p h.1, kept_of_storeMoves hmove (State.Quiet.restartTimer s p).moves h.2.1 h.2.2⟩
  perform s p k args hl hr h :=
    ⟨modes_kept.perform s p k args hl hr h.1, kept_of_storeMoves hmove (storeMoves_perform h.2.1 p k args hr) h.2.1 h.2.2⟩
  queue s cs h := ⟨modes_kept.queue s cs h.1, kept_of_storeMoves hmove (State.Quiet.setPending s cs).moves h.2.1 h.2.2⟩
  mask s p m h := ⟨modes_kept.mask s p m h.1, kept_of_storeMoves hmove (State.Quiet.putMask s p m).moves h.2.1 h.2.2⟩
  wordTime s h := ⟨modes_kept.wordTime s h.1, kept_of_storeMoves hmove (State.Quiet.setLinks s _).moves h.2.1 h.2.2⟩
  hardReset s t strap powered h he := by
    obtain ⟨hs, hrows⟩ := storesKept_hardReset he
    exact ⟨modes_kept.hardReset s t strap powered h.1 he, hs, hempty t hrows⟩
  linkEvent i s t hi h he :=
    ⟨modes_kept.linkEvent i s t hi h.1 he, kept_of_storeMoves hmove (storeMoves_linkEvent hi h.2.1 he) h.2.1 h.2.2⟩
  idleTimer s t h he := by
    refine ⟨modes_kept.idleTimer s t h.1 he, kept_of_storeMoves hmove ?_ h.2.1 h.2.2⟩
    obtain ⟨-, rfl⟩ | ⟨x, -, rfl⟩ := idleTimer_cases he
    · exact .refl s
    · exact (StoreMoves.single .abandoned).thenQuiet (.raise _ _)
  marker s t h he := by
    refine ⟨modes_kept.marker s t h.1 he, kept_of_storeMoves hmove ?_ h.2.1 h.2.2⟩
    obtain ⟨m, rfl | ⟨st, hst, -, rfl⟩⟩ := markerArrival_cases he
    · exact (State.Quiet.setMarkerCount s m).moves
    · exact .ofQuiet (.setMarkerCount s m) (.single (.switched _ st hst))
  flashEvent i s t hi h he :=
    ⟨modes_kept.flashEvent i s t hi h.1 he, kept_of_storeMoves hmove (storeMoves_flashMove (flashMove_of_exec hi he) h.1) h.2.1 h.2.2⟩

/-- Settles O57: each event is a chain of moves of the stores, and each move keeps them consistent. -/
theorem storesStayConsistent : Obligations.StoresStayConsistent := by
  intro s t hm hs he
  exact ((kept_by_events_of_moves (I := fun _ => True) (fun _ _ _ _ _ => trivial) fun _ _ => trivial).step ⟨hm, hs, trivial⟩ he).2.1

end Sys2Proof.Machine
end

section
/-! SUPPORT. What keeps the non-overlap law (O59): moves after which every row stands as before or is FREE, and a row claimed for a span
that fits. -/

namespace Sys2Proof.Machine

variable {s t u : State}

/-! ### Spans that share no channel (R5) -/

theorem Span.overlaps_comm (a b : Span) : a.overlaps b = b.overlaps a := Bool.and_comm _ _

theorem State.apart.symm {r q : Nat} (h : s.apart r q) : s.apart q r := fun a b ha hb => (Span.overlaps_comm a b).trans (h b a hb ha)

/-- The row has no span but the one it had. -/
def Row.SpanKept (x y : Row) : Prop := y.span = none ∨ y.span = x.span

theorem State.apart.of_spans {r q : Nat} (h : s.apart r q) (hr : (s.row r).SpanKept (t.row r)) (hq : (s.row q).SpanKept (t.row q)) :
    t.apart r q := by
  intro a b ha hb
  obtain hr | hr := hr
  · rw [hr] at ha; cases ha
  · obtain hq | hq := hq
    · rw [hq] at hb; cases hb
    · exact h a b (hr ▸ ha) (hq ▸ hb)

/-- The row's span shares no channel with `sp`. -/
def Row.fits (x : Row) (sp : Span) : Prop := ∀ b, x.span = some b → sp.overlaps b = false

/-- The row is in the publication that the staged set makes: LIVE or NEW_STAGED (R4). -/
def Row.lasting (x : Row) : Prop := x.phase = .live ∨ x.phase = .newStaged

theorem considered_congr {r : Nat} {items : List ChangeItem} (h : t.considered items r = true)
    (hp : (t.row r).phase = (s.row r).phase) (hi : .retire r ∈ s.items → .retire r ∈ items) : s.considered s.items r = true := by
  rw [considered_iff, hp] at h
  exact considered_iff.2 (h.imp_left (And.imp_right fun hn hr => hn (hi hr)))

/-- Without a row there is nothing to keep apart. -/
theorem spansKept_of_no_rows (h : s.rows = []) : s.SpansKept := by
  have hrow (r : Nat) : s.row r = Row.free := by simp only [State.row, h]; rfl
  have hapart (r q : Nat) : s.apart r q := fun a b ha _ => by rw [hrow] at ha; cases ha
  exact ⟨fun _ r q _ _ _ => hapart r q, fun r q _ _ _ => hapart r q, fun r q _ _ _ => hapart r q⟩

/-! ### Rows that stand as before, or are FREE -/

/-- The fields on which the non-overlap law turns. -/
structure Row.StandsAs (x y : Row) : Prop where
  phase : y.phase = x.phase
  span : y.span = x.span
  born : y.born = x.born
  dies : y.dies = x.dies

theorem Row.StandsAs.refl (x : Row) : x.StandsAs x := ⟨rfl, rfl, rfl, rfl⟩

theorem Row.StandsAs.trans {x y z : Row} (h : x.StandsAs y) (k : y.StandsAs z) : x.StandsAs z :=
  ⟨k.phase.trans h.phase, k.span.trans h.span, k.born.trans h.born, k.dies.trans h.dies⟩

theorem Row.StandsAs.visibleAt {x y : Row} (h : x.StandsAs y) (e : Nat) : y.visibleAt e = x.visibleAt e := by
  simp only [Row.visibleAt, h.born, h.dies]

/-- No row comes into being or changes its standing, and no RETIRE item is lost. -/
structure State.Shrinks (s t : State) : Prop where
  rows : ∀ r, Row.free.StandsAs (t.row r) ∨ (s.row r).StandsAs (t.row r)
  items : ∀ r, .retire r ∈ s.items → .retire r ∈ t.items

namespace State.Shrinks

theorem refl (s : State) : s.Shrinks s := ⟨fun _ => .inr (.refl _), fun _ h => h⟩

theorem trans (h : s.Shrinks t) (k : t.Shrinks u) : s.Shrinks u where
  rows r := (k.rows r).elim .inl fun hk => (h.rows r).imp (·.trans hk) (·.trans hk)
  items r hr := k.items r (h.items r hr)

/-- The same rows, and no RETIRE item lost. -/
theorem of_rows (hr : ∀ r, t.row r = s.row r) (hi : ∀ r, .retire r ∈ s.items → .retire r ∈ t.items) : s.Shrinks t :=
  ⟨fun r => .inr (hr r ▸ .refl _), hi⟩

/-- One row changed in fields that give it no standing, or made FREE. -/
theorem of_row {q : Nat} (hr : ∀ r, r ≠ q → t.row r = s.row r) (hq : Row.free.StandsAs (t.row q) ∨ (s.row q).StandsAs (t.row q))
    (hi : ∀ r, .retire r ∈ s.items → .retire r ∈ t.items) : s.Shrinks t where
  rows r := by
    by_cases hrq : r = q
    · exact hrq ▸ hq
    · exact .inr (hr r hrq ▸ .refl _)
  items := hi

theorem quiet (h : s.Quiet t) : s.Shrinks t :=
  of_rows (fun r => by simp only [State.row, h.rows]) fun _ hr => h.items.symm ▸ hr

theorem putCopy (s : State) (c : Nat) (x : Copy) : s.Shrinks (s.putCopy c x) := of_rows (fun _ => rfl) fun _ hr => hr

theorem putSlot (s : State) (k : Nat) (x : Slot) : s.Shrinks (s.putSlot k x) := of_rows (fun _ => rfl) fun _ hr => hr

theorem setSlots (s : State) (l : Table Slot) : s.Shrinks (s.setSlots l) := of_rows (fun _ => rfl) fun _ hr => hr

/-- Releases leave a row as it was, or FREE with its last copy (R18). -/
theorem settled {f : Nat → Bool} (h : s.Settled t f) : s.Shrinks t where
  rows r := (h.row_cases r).elim (fun ⟨_, _, hrow, _⟩ => .inl (hrow ▸ .refl _)) fun ⟨hrow, _⟩ => .inr (hrow ▸ .refl _)
  items r hr := by
    have hitems : t.items = s.items := by simp only [State.items, h.outside.session]
    exact hitems ▸ hr

theorem completeRequest (n : Nat) : s.Shrinks (s.completeRequest n) := by
  unfold State.completeRequest
  split
  next q _ => exact (quiet (.putLink s n _)).trans (settled (settled_releaseRequest q _))
  next => exact refl s

theorem resetLink (n : Nat) : s.Shrinks (s.resetLink n) := by
  have hleave : s.Shrinks (s.leaveWatchSets n) :=
    ⟨fun r => .inr (by rw [leaveWatchSets_row]; exact ⟨rfl, rfl, rfl, rfl⟩), fun _ hr => hr⟩
  have hrel := settled (settled_releaseRequests (s.link n).requests (s.leaveWatchSets n))
  exact (hleave.trans hrel).trans (quiet (.putLink _ n _))

theorem placeHolds (d : Decision) : s.Shrinks (s.placeHolds d) := by
  refine of_rows (fun r => ?_) fun r hr => ?_
  · unfold State.placeHolds
    dsimp only
    cases d.copy <;> cases d.slot <;> rfl
  · simpa only [State.items, (StoresOnly.placeHolds d s).session] using hr

theorem addWatch (n r : Nat) : s.Shrinks (s.addWatch n r) := by
  unfold State.addWatch
  split
  · exact refl s
  · refine of_row (q := r) (fun q hq => by simp [hq]) (.inr ?_) fun _ hr => hr
    simp only [State.row_putLink, State.row_putRow, if_pos]
    exact ⟨rfl, rfl, rfl, rfl⟩

theorem removeWatch (n r : Nat) : s.Shrinks (s.removeWatch n r) := by
  unfold State.removeWatch State.watchFalls
  split
  · refine of_row (q := r) (fun q hq => by simp [hq]) (.inr ?_) fun _ hr => hr
    simp only [State.row_putLink, State.row_putRow, if_pos]
    exact ⟨rfl, rfl, rfl, rfl⟩
  · exact refl s

theorem startAmend {x : Session} (hx : s.session = some x) (r c : Nat) (b : Body) : s.Shrinks (s.startAmend r c b) := by
  rw [startAmend_eq hx]
  have hrow (q : Nat) : (s.amendStores r c b).row q = if q = r then { s.row r with draft := some c } else s.row q := by
    simp [State.amendStores]
  refine of_row (q := r) (fun q hq => ?_) (.inr ?_) fun q hq => ?_
  · exact (hrow q).trans (if_neg hq)
  · show (s.row r).StandsAs ((s.amendStores r c b).row r)
    rw [hrow, if_pos rfl]
    exact ⟨rfl, rfl, rfl, rfl⟩
  · rw [items_eq hx] at hq
    exact List.mem_append_left _ hq

theorem rewriteBody (c : Nat) (b : Body) : s.Shrinks (s.rewriteBody c b) := by
  refine of_rows (fun r => ?_) fun r hr => ?_
  · exact rewriteBody_keep s b c (fun u => u.row r) (fun _ _ => rfl) (fun u k => by cases k <;> rfl) (fun u k => by cases k <;> rfl)
  · simpa only [State.items, (StoresOnly.rewriteBody c b s).session] using hr

theorem freeDraft (r : Nat) (s : State) : s.Shrinks (s.freeDraft r) := by
  refine of_row (q := r) (fun q hq => (freeDraft_row s r q).trans (if_neg hq)) (.inr ?_) fun q hq => ?_
  · rw [freeDraft_row, if_pos rfl]
    exact ⟨rfl, rfl, rfl, rfl⟩
  · simpa only [State.items, (StoresOnly.freeDraft r s).session] using hq

theorem retireEffect {x : Session} (hx : s.session = some x) (r : Nat) : s.Shrinks (s.retireEffect r) := by
  have hdraft := freeDraft r s
  cases ho : s.retireOutcome r with
  | added =>
    rw [retireEffect_added hx ho]
    exact of_rows (fun _ => rfl) fun q hq => List.mem_append_left _ (items_eq hx ▸ hq)
  | converted =>
    rw [retireEffect_converted hx ho]
    refine ⟨hdraft.rows, fun q hq => ?_⟩
    exact List.mem_map.2 ⟨_, items_eq hx ▸ hq, if_neg (fun h => nomatch h)⟩
  | removed =>
    rw [retireEffect_removed hx ho]
    refine ⟨fun q => ?_, fun q hq => ?_⟩
    · show Row.free.StandsAs (((s.freeDraft r).freeRow r).row q) ∨ (s.row q).StandsAs (((s.freeDraft r).freeRow r).row q)
      rw [freeRow_row]
      split
      · exact .inl (.refl _)
      · exact hdraft.rows q
    · exact List.mem_filter.2 ⟨items_eq hx ▸ hq, decide_eq_true (fun h => nomatch h)⟩

/-- A DEFINE_PROFILE item joins or leaves. -/
theorem putSlot_putItems {x : Session} (hx : s.session = some x) (k : Nat) (y : Slot) {l : List ChangeItem}
    (hl : ∀ r, .retire r ∈ s.items → .retire r ∈ l) : s.Shrinks ((s.putSlot k y).putItems l) := by
  have hx' : (s.putSlot k y).session = some x := hx
  rw [putItems_eq hx']
  exact of_rows (fun _ => rfl) hl

/-- The law holds of rows that stand as before or are FREE (R4, R6). -/
theorem spansKept (h : s.Shrinks t) (hk : s.SpansKept) : t.SpansKept := by
  have hspan (r : Nat) : (s.row r).SpanKept (t.row r) := (h.rows r).imp Row.StandsAs.span Row.StandsAs.span
  have hvis (r e : Nat) (hv : (t.row r).visibleAt e = true) : (s.row r).visibleAt e = true := by
    obtain hf | hs := h.rows r
    · rw [hf.visibleAt] at hv; cases hv
    · rwa [hs.visibleAt] at hv
  have hlast (r : Nat) (hl : (t.row r).lasting) : (s.row r).lasting := by
    obtain hf | hs := h.rows r
    · unfold Row.lasting at hl; rw [hf.phase] at hl; obtain hl | hl := hl <;> cases hl
    · unfold Row.lasting at hl; rwa [hs.phase] at hl
  have hcons (r : Nat) (hc : t.considered t.items r = true) : s.considered s.items r = true := by
    obtain hf | hs := h.rows r
    · rw [considered_iff, hf.phase] at hc
      obtain ⟨hc | hc, -⟩ | hc := hc <;> cases hc
    · exact considered_congr hc hs.phase (h.items r)
  exact ⟨fun e r q hne hr hq => (hk.law e r q hne (hvis r e hr) (hvis q e hq)).of_spans (hspan r) (hspan q),
    fun r q hne hr hq => (hk.staged r q hne (hlast r hr) (hlast q hq)).of_spans (hspan r) (hspan q),
    fun r q hne hr hq => (hk.session r q hne (hcons r hr) (hcons q hq)).of_spans (hspan r) (hspan q)⟩

end State.Shrinks

/-! ### A row claimed (R6, R23) -/

/-- A row claimed for a span keeps the law if the span fits every row beside which it stands. -/
theorem spansKept_claimed {r : Nat} {sp : Span} (hk : s.SpansKept) (hrow : ∀ q, q ≠ r → t.row q = s.row q)
    (hsp : (t.row r).span = some sp) (hitems : ∀ q, .retire q ∈ s.items → .retire q ∈ t.items)
    (hlaw : ∀ q e, (t.row r).visibleAt e = true → (s.row q).fits sp) (hstaged : ∀ q, (t.row r).lasting → (s.row q).fits sp)
    (hsession : ∀ q, s.considered s.items q = true → (s.row q).fits sp) : t.SpansKept := by
  have hkept (q : Nat) (hq : q ≠ r) : (s.row q).SpanKept (t.row q) := .inr (by rw [hrow q hq])
  have hnew (q : Nat) (hq : q ≠ r) (hf : (s.row q).fits sp) : t.apart r q := by
    intro a b ha hb
    obtain rfl := Option.some.inj (hsp.symm.trans ha)
    exact hf b (hrow q hq ▸ hb)
  have hpairs {P Q : Nat → Prop} (hPQ : ∀ q, q ≠ r → P q → Q q) (hold : ∀ x y, x ≠ y → Q x → Q y → s.apart x y)
      (hfit : P r → ∀ q, Q q → (s.row q).fits sp) (x y : Nat) (hne : x ≠ y) (hx : P x) (hy : P y) : t.apart x y := by
    by_cases hxr : x = r
    · subst hxr; exact hnew y hne.symm (hfit hx y (hPQ y hne.symm hy))
    · by_cases hyr : y = r
      · subst hyr; exact (hnew x hxr (hfit hy x (hPQ x hxr hx))).symm
      · exact (hold x y hne (hPQ x hxr hx) (hPQ y hyr hy)).of_spans (hkept x hxr) (hkept y hyr)
  exact ⟨fun e => hpairs (fun q hq hv => hrow q hq ▸ hv) (hk.law e) fun hv q _ => hlaw q e hv,
    hpairs (P := fun q => (t.row q).lasting) (fun q hq hl => hrow q hq ▸ hl) hk.staged fun hl q _ => hstaged q hl,
    hpairs (fun q hq hc => considered_congr hc (by rw [hrow q hq]) (hitems q)) hk.session fun _ q => hsession q⟩

end Sys2Proof.Machine
end

section
/-! PROOF. The non-overlap law at every move of the stores (O59). -/

namespace Sys2Proof.Machine

variable {s t : State} {x : Session} {st : StagedSet}

/-! ### INSERT and a restore's records (R6, R23) -/

theorem spansKept_insertRow (hk : s.SpansKept) {sp : Span} {b : Body} {r c : Nat} (hx : s.session = some x)
    (hi : s.insertRefusal sp b = none) : (s.insertRow r c sp b).SpansKept := by
  obtain ⟨-, -, hover, -⟩ := insertRefusal_eq_none hi
  have hrow (q : Nat) : (s.insertStores r c sp b).row q = if q = r then Row.newDraft sp c else s.row q := by
    simp [State.insertStores]
  have hnew : (s.insertStores r c sp b).row r = Row.newDraft sp c := by rw [hrow, if_pos rfl]
  rw [insertRow_eq hx]
  refine spansKept_claimed (t := (s.insertStores r c sp b).setSession _) (r := r) (sp := sp) hk (fun q hq => (hrow q).trans (if_neg hq))
    (congrArg Row.span hnew) (fun q hq => List.mem_append_left _ (items_eq hx ▸ hq)) (fun q e hv => ?_) (fun q hl => ?_) fun q hc a ha => ?_
  · exact nomatch (congrArg (Row.visibleAt · e) hnew).symm.trans hv
  · obtain hl | hl := hl <;> exact nomatch (congrArg Row.phase hnew).symm.trans hl
  · exact Bool.eq_false_iff.2 fun ho => Bool.false_ne_true (hover.symm.trans (overlapFound_iff.2 ⟨q, a, ha, ho, hc⟩))

theorem spansKept_recordLoaded (hk : s.SpansKept) {r c e : Nat} {sp : Span} {b : Body} (hfit : s.RecordFits r sp b) :
    ((s.claimRow r sp (Row.loaded sp e c)).allocCopy c (Copy.loaded r e b)).SpansKept := by
  obtain ⟨-, -, -, hover, -⟩ := hfit
  have hrow (q : Nat) : ((s.claimRow r sp (Row.loaded sp e c)).allocCopy c (Copy.loaded r e b)).row q =
      if q = r then Row.loaded sp e c else s.row q := by simp
  have hfits (q : Nat) : (s.row q).fits sp := fun a ha =>
    Bool.eq_false_iff.2 fun ho => Bool.false_ne_true (hover.symm.trans (loadOverlaps_iff.2 ⟨q, a, ha, ho⟩))
  have hso : StoresOnly s ((s.claimRow r sp (Row.loaded sp e c)).allocCopy c (Copy.loaded r e b)) :=
    (StoresOnly.claimRow r sp _ s).trans (.allocCopy c _ _)
  refine spansKept_claimed (r := r) (sp := sp) hk (fun q hq => (hrow q).trans (if_neg hq)) (by rw [hrow, if_pos rfl]; rfl)
    (fun q hq => ?_) (fun q _ _ => hfits q) (fun q _ => hfits q) fun q _ => hfits q
  simpa only [State.items, hso.session] using hq

/-! ### The end of a session and of a staged set (R14, R15, R19) -/

/-- Without a NEW_DRAFT row what an INSERT would consider is in the staged set's publication. -/
theorem spansKept_without_drafts (hspan : ∀ r, (s.row r).SpanKept (t.row r)) (hnd : ∀ r, (t.row r).phase ≠ .newDraft)
    (hlaw : ∀ e r q, r ≠ q → (t.row r).visibleAt e = true → (t.row q).visibleAt e = true → s.apart r q)
    (hstaged : ∀ r q, r ≠ q → (t.row r).lasting → (t.row q).lasting → s.apart r q) : t.SpansKept := by
  have hcons (r : Nat) (hc : t.considered t.items r = true) : (t.row r).lasting :=
    ((considered_iff.1 hc).resolve_right (hnd r)).1
  exact ⟨fun e r q hne hr hq => (hlaw e r q hne hr hq).of_spans (hspan r) (hspan q),
    fun r q hne hr hq => (hstaged r q hne hr hq).of_spans (hspan r) (hspan q),
    fun r q hne hr hq => (hstaged r q hne (hcons r hr) (hcons q hq)).of_spans (hspan r) (hspan q)⟩

theorem Row.not_visible_free (e : Nat) : ¬Row.free.visibleAt e = true := Bool.false_ne_true

theorem Row.not_lasting_free : ¬Row.free.lasting := fun h => h.elim (fun h => nomatch h) fun h => nomatch h

theorem spansKept_abandonSession (h : s.StoresKept) (hk : s.SpansKept) : s.abandonSession.SpansKept := by
  have hrow (r : Nat) : s.abandonSession.row r = if (s.row r).phase = .newDraft then Row.free else (s.row r).undrafted := by
    rw [abandonSession_eq]
    exact (discardSession_row s s.items r).trans (abandonedBy_of_kept h r)
  generalize s.abandonSession = t at *
  have hcase (r : Nat) : t.row r = Row.free ∨ (s.row r).phase ≠ .newDraft ∧ t.row r = (s.row r).undrafted := by
    rw [hrow]
    by_cases hn : (s.row r).phase = .newDraft
    · exact .inl (if_pos hn)
    · exact .inr ⟨hn, if_neg hn⟩
  have hvis (r e : Nat) (hv : (t.row r).visibleAt e = true) : (s.row r).visibleAt e = true := by
    obtain hf | ⟨-, hf⟩ := hcase r <;> rw [hf] at hv
    · exact absurd hv (Row.not_visible_free e)
    · exact hv
  have hlast (r : Nat) (hl : (t.row r).lasting) : (s.row r).lasting := by
    obtain hf | ⟨-, hf⟩ := hcase r <;> rw [hf] at hl
    · exact absurd hl Row.not_lasting_free
    · exact hl
  refine spansKept_without_drafts (s := s) (fun r => ?_) (fun r => ?_)
    (fun e r q hne hr hq => hk.law e r q hne (hvis r e hr) (hvis q e hq))
    fun r q hne hr hq => hk.staged r q hne (hlast r hr) (hlast q hq)
  · obtain hf | ⟨-, hf⟩ := hcase r <;> rw [hf]
    · exact .inl rfl
    · exact .inr rfl
  · obtain hf | ⟨hn, hf⟩ := hcase r <;> rw [hf]
    · exact fun h => nomatch h
    · exact hn

/-- A row of the publication after a seal is one that the session's INSERTs considered (R6, R15). -/
theorem considered_of_sealedPhase {r : Nat} (hl : s.sealedPhase r = .live ∨ s.sealedPhase r = .newStaged) :
    s.considered s.items r = true := by
  rw [considered_iff]
  unfold State.sealedPhase at hl
  by_cases hn : (s.row r).phase = .newDraft
  · exact .inr hn
  · rw [if_neg hn] at hl
    by_cases hr : .retire r ∈ s.items
    · rw [if_pos hr] at hl
      obtain hl | hl := hl <;> cases hl
    · rw [if_neg hr] at hl
      exact .inl ⟨hl, hr⟩

theorem sealedPhase_ne_newDraft (r : Nat) : s.sealedPhase r ≠ .newDraft := by
  unfold State.sealedPhase
  split
  · exact fun h => nomatch h
  next hn =>
    split
    · exact fun h => nomatch h
    · exact hn

theorem spansKept_sealSession (h : s.StoresKept) (hk : s.SpansKept) (hs : s.staged = none) (pol : Policy) :
    (s.sealSession pol).SpansKept := by
  have hrow (r : Nat) : (s.sealSession pol).row r =
      { s.row r with phase := s.sealedPhase r, staged := (s.row r).draft, draft := none } := by
    rw [sealSession_eq]
    exact sealStores_row_of_kept h hs r
  generalize s.sealSession pol = t at *
  have hlast (r : Nat) (hl : (t.row r).lasting) : s.considered s.items r = true := by
    rw [hrow] at hl
    exact considered_of_sealedPhase hl
  refine spansKept_without_drafts (s := s) (fun r => ?_) (fun r => ?_) (fun e r q hne hr hq => ?_)
    fun r q hne hr hq => hk.session r q hne (hlast r hr) (hlast q hq)
  · rw [hrow]; exact .inr rfl
  · rw [hrow]; exact sealedPhase_ne_newDraft r
  · rw [hrow] at hr hq
    exact hk.law e r q hne hr hq

/-- Two rows that are LIVE or DYING are both visible from the later of their births on. -/
theorem apart_of_born (h : s.StoresKept) (hk : s.SpansKept) {r q : Nat} (hne : r ≠ q)
    (hr : (s.row r).phase = .live ∨ (s.row r).phase = .dying) (hq : (s.row q).phase = .live ∨ (s.row q).phase = .dying) :
    s.apart r q := by
  have hborn (r : Nat) (hr : (s.row r).phase = .live ∨ (s.row r).phase = .dying) :
      ∃ b, (s.row r).born = some b ∧ (s.row r).dies = none := by
    have hsh := h.rows r
    unfold Row.shaped at hsh
    obtain hp | hp := hr <;> rw [hp] at hsh <;> obtain ⟨-, hb, hd, -⟩ := hsh
    · exact (Option.isSome_iff_exists.1 hb).imp fun b hb => ⟨hb, hd⟩
    · exact (Option.isSome_iff_exists.1 hb).imp fun b hb => ⟨hb, hd⟩
  obtain ⟨b, hb, hbd⟩ := hborn r hr
  obtain ⟨c, hc, hcd⟩ := hborn q hq
  refine hk.law (max b c) r q hne (visibleAt_iff.2 ⟨⟨b, hb, Nat.le_max_left b c⟩, fun d hd => ?_⟩)
    (visibleAt_iff.2 ⟨⟨c, hc, Nat.le_max_right b c⟩, fun d hd => ?_⟩)
  · exact nomatch hbd.symm.trans hd
  · exact nomatch hcd.symm.trans hd

theorem spansKept_withdrawSet (h : s.StoresKept) (hk : s.SpansKept) (hs : s.staged = some st) (hx : s.session = none) :
    (s.withdrawSet st).SpansKept := by
  have hrow := withdrawn_row_of_kept h hs (withdrawn_of_withdrawSet hs hx)
  have hnd (r : Nat) := (undrafted_of_none h hx r).1
  generalize s.withdrawSet st = t at *
  have hcase (r : Nat) : t.row r = Row.free ∨ ((t.row r).phase = .live → (s.row r).phase = .live ∨ (s.row r).phase = .dying) ∧
      (t.row r).phase ≠ .newStaged ∧ (t.row r).phase ≠ .newDraft ∧ (t.row r).span = (s.row r).span ∧
      ∀ e, (t.row r).visibleAt e = (s.row r).visibleAt e := by
    rw [hrow]
    by_cases hns : (s.row r).phase = .newStaged
    · exact .inl (withdrawn_newStaged hns)
    · by_cases hl : (s.row r).phase = .live
      · rw [withdrawn_live hl]
        exact .inr ⟨.inl, hns, hnd r, rfl, fun _ => rfl⟩
      · by_cases hd : (s.row r).phase = .dying
        · rw [withdrawn_dying hd]
          exact .inr ⟨fun _ => .inr hd, (fun h => nomatch h), (fun h => nomatch h), rfl, fun _ => rfl⟩
        · rw [withdrawn_other hns hl hd]
          exact .inr ⟨.inl, hns, hnd r, rfl, fun _ => rfl⟩
  have hvis (r e : Nat) (hv : (t.row r).visibleAt e = true) : (s.row r).visibleAt e = true := by
    obtain hf | ⟨-, -, -, -, he⟩ := hcase r
    · rw [hf] at hv; exact absurd hv (Row.not_visible_free e)
    · rwa [he] at hv
  have hlast (r : Nat) (hl : (t.row r).lasting) : (s.row r).phase = .live ∨ (s.row r).phase = .dying := by
    obtain hf | ⟨hlive, hns, -⟩ := hcase r
    · rw [hf] at hl; exact absurd hl Row.not_lasting_free
    · exact hlive (hl.resolve_right hns)
  refine spansKept_without_drafts (s := s) (fun r => ?_) (fun r => ?_)
    (fun e r q hne hr hq => hk.law e r q hne (hvis r e hr) (hvis q e hq))
    fun r q hne hr hq => apart_of_born h hk hne (hlast r hr) (hlast q hq)
  · obtain hf | ⟨-, -, -, hspan, -⟩ := hcase r
    · rw [hf]; exact .inl rfl
    · exact .inr hspan
  · obtain hf | ⟨-, -, hn, -⟩ := hcase r
    · rw [hf]; exact fun h => nomatch h
    · exact hn

end Sys2Proof.Machine
end

section
/-! PROOF. The non-overlap law at the switch, and so at every event (O59). -/

namespace Sys2Proof.Machine

variable {s t : State} {st : StagedSet}

/-! ### The switch (R4, R16, R17) -/

/-- Before the new epoch a row published at it is visible only if it was (R16, R17). -/
theorem Row.visibleAt_of_published {x : Row} (h : x.shaped) {e e' : Nat} {owns : Bool} (he : e' < e)
    (hv : (x.published e owns).visibleAt e' = true) : x.visibleAt e' = true := by
  unfold Row.published at hv
  by_cases hd : x.phase = .dying
  · rw [if_pos hd] at hv
    unfold Row.shaped at h
    rw [hd] at h
    obtain ⟨-, -, hdies, -⟩ := h
    split at hv
    · obtain ⟨hb, -⟩ := visibleAt_iff.1 hv
      exact visibleAt_iff.2 ⟨hb, fun d hd => nomatch hdies.symm.trans hd⟩
    · exact absurd hv (Row.not_visible_free e')
  · rw [if_neg hd] at hv
    unfold Row.switched at hv
    cases hp : x.phase <;> rw [hp] at hv
    case newStaged =>
      obtain ⟨⟨b, hb, hle⟩, -⟩ := visibleAt_iff.1 hv
      obtain rfl := Option.some.inj hb
      omega
    case live =>
      dsimp only at hv
      split at hv
      · exact hv
      · exact hv
    case dying => exact absurd hp hd
    all_goals exact hv

theorem Row.PublishedAs.ne_dying {x y : Row} {e : Nat} {owns : Bool} (h : x.PublishedAs y e owns) : y.phase ≠ .dying := by
  rw [h.phase]
  split
  · exact fun h => nomatch h
  · split
    · cases owns
      · exact fun h => nomatch h
      · exact fun h => nomatch h
    next hd => exact hd

theorem Row.PublishedAs.phase_cases {x y : Row} {e : Nat} {owns : Bool} (h : x.PublishedAs y e owns) :
    y.phase = .live ∧ x.lasting ∨ y.phase = .dead ∨ y.phase = .free ∨ y.phase = x.phase ∧ ¬x.lasting := by
  rw [h.phase]
  by_cases hn : x.phase = .newStaged
  · exact .inl ⟨if_pos hn, .inr hn⟩
  · rw [if_neg hn]
    by_cases hd : x.phase = .dying
    · rw [if_pos hd]
      cases owns
      · exact .inr (.inr (.inl rfl))
      · exact .inr (.inl rfl)
    · rw [if_neg hd]
      by_cases hl : x.phase = .live
      · exact .inl ⟨hl, .inl hl⟩
      · exact .inr (.inr (.inr ⟨rfl, fun h => h.elim hl hn⟩))

theorem Row.PublishedAs.lasting {x y : Row} {e : Nat} {owns : Bool} (h : x.PublishedAs y e owns) (hl : y.lasting) : x.lasting := by
  obtain ⟨-, hx⟩ | hp | hp | ⟨hp, hx⟩ := h.phase_cases <;> unfold Row.lasting at hl
  · exact hx
  · rw [hp] at hl; obtain hl | hl := hl <;> cases hl
  · rw [hp] at hl; obtain hl | hl := hl <;> cases hl
  · rw [hp] at hl; exact absurd hl hx

theorem Row.PublishedAs.newDraft {x y : Row} {e : Nat} {owns : Bool} (h : x.PublishedAs y e owns) (hn : y.phase = .newDraft) :
    x.phase = .newDraft := by
  obtain ⟨hp, -⟩ | hp | hp | ⟨hp, -⟩ := h.phase_cases
  · exact nomatch hp.symm.trans hn
  · exact nomatch hp.symm.trans hn
  · exact nomatch hp.symm.trans hn
  · exact hp.symm.trans hn

theorem spansKept_published {owns : Nat → Bool} (h : s.StoresKept) (ht : t.StoresKept) (hk : s.SpansKept)
    (hrow : ∀ r, t.row r = (s.row r).published (s.epoch + 1) (owns r)) (hepoch : t.epoch = s.epoch + 1)
    (hitems : t.items = s.items) : t.SpansKept := by
  have hpub (r : Nat) : (s.row r).PublishedAs (t.row r) (s.epoch + 1) (owns r) := hrow r ▸ Row.publishedAs (h.rows r) _ _
  have hspan (r : Nat) : (s.row r).SpanKept (t.row r) := (hpub r).span.imp_left fun hf => by rw [hf]; rfl
  have hstaged (r q : Nat) (hne : r ≠ q) (hr : (t.row r).lasting) (hq : (t.row q).lasting) : t.apart r q :=
    (hk.staged r q hne ((hpub r).lasting hr) ((hpub q).lasting hq)).of_spans (hspan r) (hspan q)
  have hlate (r e : Nat) (he : s.epoch < e) (hv : (t.row r).visibleAt e = true) : (t.row r).lasting := by
    obtain ⟨⟨b, hb, -⟩, hd⟩ := visibleAt_iff.1 hv
    obtain hl | hd' | ⟨hdead, hdies⟩ := Row.shaped_born (ht.rows r) (by rw [hb]; exact Option.some_ne_none b)
    · exact .inl hl
    · exact absurd hd' (hpub r).ne_dying
    · obtain ⟨d, hdd⟩ := Option.isSome_iff_exists.1 hdies
      have := (ht.dead r hdead).2 d hdd
      have := hd d hdd
      omega
  have hcons (r : Nat) (hc : t.considered t.items r = true) : s.considered s.items r = true := by
    rw [considered_iff, hitems] at hc
    rw [considered_iff]
    exact hc.imp (And.imp_left (hpub r).lasting) (hpub r).newDraft
  refine ⟨fun e r q hne hr hq => ?_, hstaged,
    fun r q hne hr hq => (hk.session r q hne (hcons r hr) (hcons q hq)).of_spans (hspan r) (hspan q)⟩
  by_cases he : s.epoch < e
  · exact hstaged r q hne (hlate r e he hr) (hlate q e he hq)
  · rw [hrow] at hr hq
    exact (hk.law e r q hne (Row.visibleAt_of_published (h.rows r) (by omega) hr)
      (Row.visibleAt_of_published (h.rows q) (by omega) hq)).of_spans (hspan r) (hspan q)

theorem spansKept_switchSet (h : s.StoresKept) (hk : s.SpansKept) (hs : s.staged = some st) (trig : Trigger) :
    (s.switchSet trig st).SpansKept := by
  obtain ⟨hepoch, -, hsession, -⟩ := switchSet_fields trig st s
  exact spansKept_published h (storesKept_switchSet h hs trig) hk (switchSet_row_of_kept h hs) hepoch
    (by simp only [State.items, hsession])

/-! ### Every move, and so every event -/

theorem spansKept_of_move (h : s.StoresKept) (hk : s.SpansKept) (hm : StoreMove s t) : t.SpansKept := by
  cases hm with
  | quiet hq => exact (State.Shrinks.quiet hq).spansKept hk
  | answered n => exact (State.Shrinks.completeRequest n).spansKept hk
  | linkReset n => exact (State.Shrinks.resetLink n).spansKept hk
  | held d _ => exact (State.Shrinks.placeHolds d).spansKept hk
  | watchAdded n r _ => exact (State.Shrinks.addWatch n r).spansKept hk
  | watchRemoved n r => exact (State.Shrinks.removeWatch n r).spansKept hk
  | pinned c _ => exact (State.Shrinks.putCopy s c _).spansKept hk
  | unpinned c => exact (State.Shrinks.settled (settled_clearSnapPin s c)).spansKept hk
  | inserted x sp b r c hx hi => exact spansKept_insertRow hk hx hi
  | amended x r sel b c hx => exact (State.Shrinks.startAmend hx r c b).spansKept hk
  | rewritten r sel b c => exact (State.Shrinks.rewriteBody c b).spansKept hk
  | retired x r hx => exact (State.Shrinks.retireEffect hx r).spansKept hk
  | defined x k pts hx =>
    exact (State.Shrinks.putSlot_putItems hx k _ fun _ hr => List.mem_append_left _ hr).spansKept hk
  | redefined k pts _ => exact (State.Shrinks.putSlot s k _).spansKept hk
  | droppedPending x k hx _ =>
    refine (State.Shrinks.putSlot_putItems hx k _ fun _ hr => ?_).spansKept hk
    exact List.mem_filter.2 ⟨hr, decide_eq_true fun h => nomatch h⟩
  | droppedActive k _ => exact (State.Shrinks.putSlot s k _).spansKept hk
  | sealed pol hs => exact spansKept_sealSession h hk hs pol
  | abandoned => exact spansKept_abandonSession h hk
  | switched trig st hs => exact spansKept_switchSet h hk hs trig
  | withdrawn st hs hx => exact spansKept_withdrawSet h hk hs hx
  | cleared _ =>
    exact spansKept_of_no_rows ((clearStores_keep State.rows (fun _ _ _ => rfl) s).trans (storesEmpty_emptyStores s).rows)
  | emptied _ => exact spansKept_of_no_rows (storesEmpty_emptyStores s).rows
  | slotsFreed _ => exact (State.Shrinks.setSlots s []).spansKept hk
  | profileLoaded k e pts _ _ _ => exact (State.Shrinks.putSlot s k _).spansKept hk
  | recordLoaded r c e sp b _ hfit _ => exact spansKept_recordLoaded hk hfit

/-- Settles O59: each event is a chain of moves of the stores, and each move keeps the law; a switch turns the staged set's law into
the law of its epoch, and a seal the session's into the staged set's. -/
theorem spansStayDisjoint : Obligations.SpansStayDisjoint := by
  intro s t hm hs hk he
  exact ((kept_by_events_of_moves (I := State.SpansKept) (fun _ _ => spansKept_of_move) fun _ => spansKept_of_no_rows).step
    ⟨hm, hs, hk⟩ he).2.2

end Sys2Proof.Machine
end
